-- ==== Sys2Proof/Word.lean ====
section
/-! DEFINITION. The word types of the block and their plainest arithmetic. -/

namespace Sys2Proof

/-- One byte. -/
abbrev Byte := BitVec 8
/-- A 32-bit word: scalar registers, FP32 patterns, counters of picks. -/
abbrev W32 := BitVec 32
/-- A 64-bit word: one register of the register window (R589). -/
abbrev W64 := BitVec 64
/-- The data bits of one 32-byte granule; bit 8n is bit 0 of byte n (R296). -/
abbrev Gran := BitVec 256

/-- A granule as it travels: its data and its poison flag (R311). -/
structure Datum where
  bits : Gran
  poison : Bool
deriving DecidableEq, Repr

end Sys2Proof
end

