-- ==== Sys2Proof/Config.lean ====
section
/-! DEFINITION. What the manual leaves to the implementation, as constants nothing in Lean can evaluate:
the free values and the fused values. -/

namespace Sys2Proof.Config

/-- A free value: the n-th open bit pattern that a step needs (R73: hob scratch after a suspension; the manual
defines no contents). The step reads and advances `State.freeCtr` to get a fresh one (log entry 57). -/
opaque freeBits : Nat → BitVec 256

/-- The poison flag that goes with a free value (log entry 57). -/
opaque freeFlag : Nat → Bool

/-- `FB_UID`, the fused identity of the block (R601, reset value "Fused"; R474; log entry 78). -/
opaque fusedUid : BitVec 64

/-- The fused root secret from which the fireback derives its keys (R471, R472; log entry 78). -/
opaque rootSecret : BitVec 256

/-- The number a record or register gives an item of a list whose numbering the manual does not state: list, item (log entries 28, 41 and 80 to 84).
Lists: 0 new state of a FIRING soot record (R549), 1 kind of a TIME soot record (R549), 2 access kind of event 0x0102
(R564), 3 other detail values of R564, 5 short format of a program outside the library (R162), 6 outcome of a migration record
(R564), 7 trigger of a SPARE_DUE record (R564), 8 path of a weft record (R564), 9 PARTITION of a frame to a peer (R376),
10 status of a register access that failed on the weft bus (R306), 11 MX scale of a block with a poisoned master (R165, R173), 12 number of
a library program's checkpoint (R123, R164), 13 program counter of a hob in a library program (R605). -/
opaque openCode : Nat → Nat → Nat

/-- A comparison of VCMP (R100, R106). -/
inductive Cmp where
  | eq | ne | lt | le | gt | ge | un | ord
deriving DecidableEq, Repr, Inhabited

/-- The comparison that IMM16[2:0] of VCMP selects: the manual gives the field and no codes (R100; log entry 76). -/
opaque vcmpCond : Nat → Cmp

/-- The energy charged for a calibration slice, pJ: R287 charges it, and the table of R283 gives no value (log entry 77). -/
opaque calEnergy : Nat

end Sys2Proof.Config
end

