-- ==== Sys2Proof/Syntax.lean ====
section
/-! DEFINITION. The commands of the block: one constructor per row of the command table, with the row's operands. -/

namespace Sys2Proof

/-- Kinds of a region table entry (R47). -/
inductive RgnKind where
  | striped | bankLocal | reserved
deriving DecidableEq, Repr, Inhabited

/-- A registered program as an image lists it or a pick registers it (R162, R176, R440). -/
structure Prog where
  /-- Program ID. -/
  id : Nat := 0
  /-- Library or licensee version of the image it came from (R537). -/
  gen : Nat := 0
  /-- Owner of a run-time registration; none for an image program (R175). -/
  owner : Option Nat := none
  /-- Partitions that may launch it; none for all (R175). -/
  parts : Option (List Nat) := none
  /-- Instruction words (R94). -/
  code : List W64 := []
  /-- Broadcast segment size in 4 KiB steps (R176). -/
  bseg : Nat := 0
  /-- One byte for each of OB0 to OB7: [3:0] storage type, [4] accumulator attribute required, [7] used (R440). -/
  ops : List Nat := []
  /-- It is an update program (R176). -/
  update : Bool := false
  /-- Phase count and phase number (R176, R440). -/
  phases : Nat := 1
  phase : Nat := 0
  /-- Tappable operands: [2:0] twin, [5:3] fan-out, [8:6] smoke, [11:9] a valid bit for each (R440). -/
  taps : Nat := 0
  /-- Of a registered program: the place of its two copies in the stoker data area, and its words (R129). -/
  place : Nat := 0
  len : Nat := 0
deriving DecidableEq, Repr

/-- An entry of the partition table in an image (R445, R446). -/
structure ImgPart where
  p : Nat
  rights : Nat
  stBase : Nat
  stSize : Nat
  splFirst : Nat
  splCount : Nat
  srcMask : BitVec 256
  permit : Bool
  rate : W64
  cap0 : W64
  cap1 : W64
  cfg : W64
deriving DecidableEq, Repr

/-- An entry of the peer table in an image (R374). -/
structure ImgPeer where
  id : Nat
  mods : Nat
  roles : Nat
  part : Nat
  enabled : Bool
deriving DecidableEq, Repr

/-- A region table entry of an image (R47). -/
structure ImgRgn where
  kind : RgnKind := .striped
  base : Nat := 0
  first : Nat := 0
  count : Nat := 1
  c0 : Nat := 0
  c1 : Nat := 31
  r0 : Nat := 0
  r1 : Nat := 15
  acc : Bool := false
  owner : Nat := 0
  block : Bool := false
  banked : Bool := false
deriving DecidableEq, Repr, Inhabited

/-- What the configuration section of a hearth image holds (R516): the manual names its contents and not their
bytes, so the section is held decoded. -/
structure ImgCfg where
  regions : List (Nat × ImgRgn) := []
  /-- Reserved units r (R51). -/
  r : Nat := 1
  /-- Context slots, twin log, smoke log and ash bin bytes (R51). -/
  slots : Nat := 64
  twinLog : Nat := 0x10000000
  smokeLog : Nat := 0x20000000
  ashBytes : Nat := 0x8000000
  /-- Carve-outs in MiB (R35). -/
  general : Nat := 27
  soot : Nat := 8
  tpose : Nat := 8
  sampler : Nat := 4
  norm : Nat := 1
  /-- SCH_TIM_ROW, GRP, COL, TURN, DIE, SCH_REF, SCH_CAL and SCH_ENERGY word 0 (R268). -/
  timRow : W64 := 0x000000002C1E0E0E
  timGrp : W64 := 0x0000000000000204
  timCol : W64 := 0x000000000A100201
  timTurn : W64 := 0x0000000004040610
  timDie : W64 := 0x0000000000001010
  ref : W64 := 0x000000551E840064
  cal : W64 := 0x000000640064005A
  energy : W64 := 0x0FA003E8012C006E
  parts : List ImgPart := []
  peerId : Nat := 1
  peers : List ImgPeer := []
  /-- FL_SESS_CFG and TWN_CFG fields that R396 and R419 check. -/
  sess : W64 := 0x000A000A0A0A000A
  twn : W64 := 0x00000A0006400A80
deriving DecidableEq, Repr, Inhabited

/-- What a Bremaosh package or the licensee programs section holds (R516, R528). -/
structure ImgPkg where
  sigOk : Bool := false
  version : Nat := 0
  fits : Bool := true
  tested : List (Nat × Nat × Nat) := []
  progs : List Prog := []
deriving DecidableEq, Repr, Inhabited

/-- What the sections of the image being checked say, and whether its signature verifies: the manual names the contents of
the sections and not their bytes, and the signature check is ECDSA P-384 of FIPS 186-5 (R516, R517, R528). The command
that checks an image carries it, so that nothing is assumed of it. -/
structure ImageIn where
  sigOk : Bool := false
  cfg : ImgCfg := {}
  fw : ImgPkg := {}
  lib : ImgPkg := {}
  /-- Registration records of the licensee programs section. -/
  lic : List Prog := []
  /-- Partition keys: partition and wrapped key (R472). -/
  keys : List (Nat × List Byte) := []
deriving DecidableEq, Repr, Inhabited

/-- Who makes a register access (R590): a hearth agent, a flue peer by its peer-table entry, or the management port;
the first two with the partition they present. -/
inductive Requester where
  | hearth (module src part : Nat)
  | flue (peer part : Nat)
  | mgmt
deriving DecidableEq, Repr

/-- A flit (R349). -/
structure Flit where
  /-- Slots 0 to 6. -/
  slots : List (BitVec 256)
  /-- Bytes 224 to 251: weft bit n covers byte n. -/
  weft : BitVec 224
  /-- Byte 252: poison flags P0 to P6. -/
  pois : BitVec 8
  /-- Byte 253. -/
  seq : BitVec 8
  /-- Bytes 254 to 255. -/
  crc : BitVec 16
deriving DecidableEq, Repr

/-- The parameter message of the partner (R361, R370): its release, whether its role is the one the port expects, the
SRC values it binds, and its initial credits by credit index. -/
structure ParamMsg where
  release : Nat
  role : Bool
  srcs : List Nat
  credits : List (Nat × Nat)
deriving DecidableEq, Repr

/-- What a unit on a TSV channel or weft bus carries (R78, R306). The first five travel on the TSV channel, the last three on
the weft bus. -/
inductive TsvUnit where
  /-- Memory data of a request: transaction number. -/
  | txn (n : Nat)
  /-- Payload of an accumulate write: entry number. -/
  | accw (n : Nat)
  /-- A granule that a tap has copied and its stream has not yet taken: stream kind 0 fan-out, 1 twin, 2 smoke; hob; offset from
  the operand base. -/
  | stream (kind hob off : Nat)
  /-- A partial on its way to the cross-reducer: its first output element. -/
  | reduce (elem : Nat)
  /-- Any other content of a TSV channel. -/
  | other
  /-- An access of a requester to the hob registers: offset in the register window. -/
  | register (rq : Requester) (off : Nat)
  /-- A context record of the firing in transfer: hob number, and number of the 64-byte part of the record. -/
  | context (hob part : Nat)
  /-- A program, or a broadcast segment, at launch: hob number, and number of the 64-byte part of it. -/
  | launch (hob : Nat) (segment : Bool) (part : Nat)
  /-- A hob's sum of squares under collection. -/
  | sums (hob : Nat)
  /-- A pattern of the in-field test. -/
  | pattern
deriving DecidableEq, Repr

/-- The power-good inputs (R508). -/
inductive PgInput where
  | fb | base | io
  | tile (die : Nat)
deriving DecidableEq, Repr

/-- The commands the block takes: one constructor per row of the command table, in its order, those without operands
last. -/
inductive Instr where
  /-- REGISTER_WRITE (R10). -/
  | registerWrite (rq : Requester) (off len : Nat) (val : W64)
  /-- LOW_HALF_READ (R504). -/
  | lowHalfRead (rq : Requester) (off : Nat)
  /-- STREAMED_READ (R589). -/
  | streamedRead (rq : Requester) (off : Nat)
  /-- CAPTURE_READ (R600). -/
  | captureRead (rq : Requester) (off : Nat)
  /-- HOB_REGISTER_READ (R606). -/
  | hobRegisterRead (rq : Requester) (off len : Nat)
  /-- HED_SEED_WRITE (R242). -/
  | hedSeedWrite (rq : Requester) (off len : Nat) (val : W64)
  /-- RD (R355). -/
  | rd (flue : Bool) (module : Nat) (hdr : BitVec 256) (data : List Datum)
  /-- WR (R355). -/
  | wr (flue : Bool) (module : Nat) (hdr : BitVec 256) (data : List Datum)
  /-- WRBE (R355). -/
  | wrbe (flue : Bool) (module : Nat) (hdr : BitVec 256) (data : List Datum)
  /-- ACCW (R26). -/
  | accw (flue : Bool) (module : Nat) (hdr : BitVec 256) (data : List Datum)
  /-- CFENCE (R193). -/
  | cfence (flue : Bool) (module : Nat) (hdr : BitVec 256) (data : List Datum)
  /-- TREAD (R230). -/
  | tread (flue : Bool) (module : Nat) (hdr : BitVec 256) (data : List Datum)
  /-- FENCE (R329). -/
  | fence (flue : Bool) (module : Nat) (hdr : BitVec 256) (data : List Datum)
  /-- FENCE_COMPLETE (R329). -/
  | fenceComplete (fence : Nat)
  /-- DB (R355). -/
  | db (flue : Bool) (module : Nat) (hdr : BitVec 256) (data : List Datum)
  /-- DAMPER_ADMIT (R366). -/
  | damperAdmit (chan : Nat)
  /-- FLIT_RECEIVED (R352). -/
  | flitReceived (flue : Bool) (module : Nat) (flit : Flit)
  /-- ACK (R352). -/
  | ack (flue : Bool) (module : Nat) (hdr : BitVec 256)
  /-- NAK (R352). -/
  | nak (flue : Bool) (module : Nat) (hdr : BitVec 256)
  /-- CREDIT (R359). -/
  | credit (flue : Bool) (module : Nat) (hdr : BitVec 256)
  /-- LINK_RETRY_TIMER (R364). -/
  | linkRetryTimer (flue : Bool) (module : Nat)
  /-- TRAIN_TIMEOUT (R364). -/
  | trainTimeout (flue : Bool) (module : Nat)
  /-- UCIE_LINK_ACTIVE (R364). -/
  | ucieLinkActive (flue : Bool) (module : Nat) (half : Bool) (repaired : Nat)
  /-- PARAMETER_MESSAGE (R361). -/
  | parameterMessage (flue : Bool) (module : Nat) (msg : ParamMsg)
  /-- PARAM_TIMEOUT (R364). -/
  | paramTimeout (flue : Bool) (module : Nat)
  /-- INITIAL_CREDIT_TIMEOUT (R364). -/
  | initialCreditTimeout (flue : Bool) (module : Nat)
  /-- LANE_FAILURE (R364). -/
  | laneFailure (flue : Bool) (module : Nat)
  /-- RETRAIN_TIMEOUT (R364). -/
  | retrainTimeout (flue : Bool) (module : Nat)
  /-- MODULE_RETRY (R364). -/
  | moduleRetry (rq : Requester) (flue : Bool)
  /-- RESPONSE_CREDIT_STALL (R367). -/
  | responseCreditStall (flue : Bool) (module : Nat)
  /-- LIGHT_INPUT_CHANGE (R382). -/
  | lightInputChange (module : Nat) (lol att : Bool)
  /-- ATTACH_SETTLED (R382). -/
  | attachSettled (module : Nat)
  /-- FL_MARK_PULSE (R543). -/
  | flMarkPulse (good : Bool)
  /-- ANCHOR_GAINED (R383). -/
  | anchorGained (peer : Nat)
  /-- HELLO (R384). -/
  | hello (module : Nat) (hdr : BitVec 256) (data : List Datum)
  /-- HELLO_ACK (R384). -/
  | helloAck (module : Nat) (hdr : BitVec 256) (data : List Datum)
  /-- BYE (R383). -/
  | bye (module : Nat) (hdr : BitVec 256) (data : List Datum)
  /-- PING (R385). -/
  | ping (module : Nat) (hdr : BitVec 256) (data : List Datum)
  /-- PONG (R385). -/
  | pong (module : Nat) (hdr : BitVec 256) (data : List Datum)
  /-- HELLO_TIMEOUT (R383). -/
  | helloTimeout (peer : Nat)
  /-- UNREACHABLE_RETRY (R383). -/
  | unreachableRetry (peer : Nat)
  /-- KEEPALIVE_IDLE (R385). -/
  | keepaliveIdle (peer : Nat)
  /-- SESSION_EXPIRY (R385). -/
  | sessionExpiry (peer : Nat)
  /-- NORM (R204). -/
  | norm (module : Nat) (hdr : BitVec 256) (data : List Datum)
  /-- FAN_OPEN (R392). -/
  | fanOpen (module : Nat) (hdr : BitVec 256) (data : List Datum)
  /-- FAN_DATA (R392). -/
  | fanData (module : Nat) (hdr : BitVec 256) (data : List Datum)
  /-- FAN_END (R392). -/
  | fanEnd (module : Nat) (hdr : BitVec 256) (data : List Datum)
  /-- FAN_FINAL (R392). -/
  | fanFinal (module : Nat) (hdr : BitVec 256) (data : List Datum)
  /-- RECANT (R392). -/
  | recant (module : Nat) (hdr : BitVec 256) (data : List Datum)
  /-- FAN_STATE (R392). -/
  | fanState (module : Nat) (hdr : BitVec 256) (data : List Datum)
  /-- STREAM_END_WAIT (R392). -/
  | streamEndWait (stream : Nat)
  /-- TWIN_HDR (R404). -/
  | twinHdr (module : Nat) (hdr : BitVec 256) (data : List Datum)
  /-- TWIN_DATA (R405). -/
  | twinData (module : Nat) (hdr : BitVec 256) (data : List Datum)
  /-- TWIN_DIGEST (R408). -/
  | twinDigest (module : Nat) (hdr : BitVec 256) (data : List Datum)
  /-- SMOKE_DATA (R417). -/
  | smokeData (module : Nat) (hdr : BitVec 256) (data : List Datum)
  /-- SMOKE_MARK (R417). -/
  | smokeMark (module : Nat) (hdr : BitVec 256) (data : List Datum)
  /-- TWIN_PAIR_TIMEOUT (R409). -/
  | twinPairTimeout (record : Nat)
  /-- DIGEST_WAIT_TIMEOUT (R409). -/
  | digestWaitTimeout (record : Nat)
  /-- TWIN_DATA_END_WAIT (R409). -/
  | twinDataEndWait (record : Nat)
  /-- REPLAY_LAUNCH (R435). -/
  | replayLaunch (record : Nat)
  /-- REPLAY_GATE_PASS (R406). -/
  | replayGatePass (hob : Nat)
  /-- NONSPEC_FANOUT_READ_DONE (R391). -/
  | nonspecFanoutReadDone (stream : Nat)
  /-- SNAPSHOT_READ_DONE (R416). -/
  | snapshotReadDone (stream : Nat)
  /-- PUSH (R425). -/
  | push (rq : Requester) (spool tail : Nat)
  /-- CONSUME (R434). -/
  | consume (rq : Requester) (spool count : Nat)
  /-- ABORT (R442). -/
  | abort (rq : Requester) (spool seq : Nat)
  /-- CREEL_DESCRIPTOR_READ (R424). -/
  | creelDescriptorRead (spool : Nat)
  /-- PICK_FETCH (R430). -/
  | pickFetch (spool : Nat)
  /-- COMPLETION_RECORD (R433). -/
  | completionRecord (pick : Nat)
  /-- NOP_PICK (R436). -/
  | nopPick (pick : Nat)
  /-- FIRE (R128). -/
  | fire (pick : Nat)
  /-- REGION_MODE (R58). -/
  | regionMode (pick : Nat)
  /-- REGION_INIT (R62). -/
  | regionInit (pick : Nat)
  /-- REGISTER_PROGRAM (R175). -/
  | registerProgram (pick : Nat)
  /-- UNREGISTER_PROGRAM (R177). -/
  | unregisterProgram (pick : Nat)
  /-- STEP_CONFIG (R180). -/
  | stepConfig (pick : Nat)
  /-- STEP_RETIRE (R181). -/
  | stepRetire (pick : Nat)
  /-- STEP_CLOSE (R195). -/
  | stepClose (pick : Nat)
  /-- SAMPLE (R260). -/
  | sample (pick : Nat)
  /-- FAN_CONFIG (R436). -/
  | fanConfig (pick : Nat)
  /-- RX_CONFIG (R436). -/
  | rxConfig (pick : Nat)
  /-- TWIN_PAIR (R409). -/
  | twinPair (pick : Nat)
  /-- TWIN_UNPAIR (R409). -/
  | twinUnpair (pick : Nat)
  /-- TWIN_RESYNC (R412). -/
  | twinResync (pick : Nat)
  /-- SMOKE_CONFIG (R413). -/
  | smokeConfig (pick : Nat)
  /-- SMOKE_SNAPSHOT (R416). -/
  | smokeSnapshot (pick : Nat)
  /-- ENABLE (R421). -/
  | enable (rq : Requester) (part : Nat)
  /-- DISABLE (R443). -/
  | disable (rq : Requester) (part : Nat)
  /-- RESUME (R443). -/
  | resume (rq : Requester) (part : Nat)
  /-- REGION_MODE_DOORBELL (R58). -/
  | regionModeDoorbell (rq : Requester) (region len : Nat)
  /-- MODE_TIMER_EXPIRES (R58). -/
  | modeTimerExpires (region : Nat)
  /-- MODE_DRAIN_DONE (R58). -/
  | modeDrainDone (region : Nat)
  /-- SAVE_COMPLETE (R131). -/
  | saveComplete (ns : Nat)
  /-- FIRING_COMMIT (R140). -/
  | firingCommit (ns : Nat)
  /-- HOB_LOAD_LANDS (R68). -/
  | hobLoadLands (hob vreg : Nat)
  /-- NOP (R100). -/
  | nop (hob : Nat)
  /-- LD (R103). -/
  | ld (hob : Nat)
  /-- ST (R103). -/
  | st (hob : Nat)
  /-- LDHB (R104). -/
  | ldhb (hob : Nat)
  /-- LDHS (R104). -/
  | ldhs (hob : Nat)
  /-- STHS (R104). -/
  | sths (hob : Nat)
  /-- AINIT (R100). -/
  | ainit (hob : Nat)
  /-- RPUSH (R119). -/
  | rpush (hob : Nat)
  /-- SMOVI (R100). -/
  | smovi (hob : Nat)
  /-- SADD (R100). -/
  | sadd (hob : Nat)
  /-- SADDI (R100). -/
  | saddi (hob : Nat)
  /-- SSUB (R100). -/
  | ssub (hob : Nat)
  /-- SMUL (R100). -/
  | smul (hob : Nat)
  /-- SAND (R100). -/
  | sand (hob : Nat)
  /-- SOR (R100). -/
  | sor (hob : Nat)
  /-- SXOR (R100). -/
  | sxor (hob : Nat)
  /-- SSHL (R100). -/
  | sshl (hob : Nat)
  /-- SSHR (R100). -/
  | sshr (hob : Nat)
  /-- SCMP (R121). -/
  | scmp (hob : Nat)
  /-- SCMPI (R121). -/
  | scmpi (hob : Nat)
  /-- SRDP (R102). -/
  | srdp (hob : Nat)
  /-- SADDW (R100). -/
  | saddw (hob : Nat)
  /-- BR (R121). -/
  | br (hob : Nat)
  /-- LOOP (R122). -/
  | loop (hob : Nat)
  /-- ENDL (R122). -/
  | endl (hob : Nat)
  /-- CKPT (R123). -/
  | ckpt (hob : Nat)
  /-- HALT (R100). -/
  | halt (hob : Nat)
  /-- SETRM (R99). -/
  | setrm (hob : Nat)
  /-- SETP (R100). -/
  | setp (hob : Nat)
  /-- RDX (R108). -/
  | rdx (hob : Nat)
  /-- CLRX (R108). -/
  | clrx (hob : Nat)
  /-- VADD (R100). -/
  | vadd (hob : Nat)
  /-- VSUB (R100). -/
  | vsub (hob : Nat)
  /-- VMUL (R100). -/
  | vmul (hob : Nat)
  /-- VFMA (R100). -/
  | vfma (hob : Nat)
  /-- VFNMA (R100). -/
  | vfnma (hob : Nat)
  /-- VMAX (R106). -/
  | vmax (hob : Nat)
  /-- VMIN (R106). -/
  | vmin (hob : Nat)
  /-- VABS (R100). -/
  | vabs (hob : Nat)
  /-- VNEG (R100). -/
  | vneg (hob : Nat)
  /-- VSIGN (R106). -/
  | vsign (hob : Nat)
  /-- VCMP (R120). -/
  | vcmp (hob : Nat)
  /-- VSEL (R120). -/
  | vsel (hob : Nat)
  /-- VAND (R100). -/
  | vand (hob : Nat)
  /-- VOR (R100). -/
  | vor (hob : Nat)
  /-- VXOR (R100). -/
  | vxor (hob : Nat)
  /-- VSPLAT (R100). -/
  | vsplat (hob : Nat)
  /-- VPERM (R100). -/
  | vperm (hob : Nat)
  /-- VEXT (R109). -/
  | vext (hob : Nat)
  /-- VREDSUM (R100). -/
  | vredsum (hob : Nat)
  /-- VARGMAX (R100). -/
  | vargmax (hob : Nat)
  /-- VLERP (R107). -/
  | vlerp (hob : Nat)
  /-- VEMA2 (R107). -/
  | vema2 (hob : Nat)
  /-- VDIVSQ (R107). -/
  | vdivsq (hob : Nat)
  /-- VAXPBY (R107). -/
  | vaxpby (hob : Nat)
  /-- VDIV (R116). -/
  | vdiv (hob : Nat)
  /-- VSQRT (R116). -/
  | vsqrt (hob : Nat)
  /-- VRSQRT (R116). -/
  | vrsqrt (hob : Nat)
  /-- VLOG2 (R116). -/
  | vlog2 (hob : Nat)
  /-- VEXP2 (R116). -/
  | vexp2 (hob : Nat)
  /-- VCVT (R111). -/
  | vcvt (hob : Nat)
  /-- VCVTS16 (R114). -/
  | vcvts16 (hob : Nat)
  /-- VMXSC (R115). -/
  | vmxsc (hob : Nat)
  /-- HRND (R117). -/
  | hrnd (hob : Nat)
  /-- HGUMB (R118). -/
  | hgumb (hob : Nat)
  /-- ACCW_APPLY (R186). -/
  | accwApply (entry : Nat)
  /-- FENCE_COUNTED (R194). -/
  | fenceCounted (entry : Nat)
  /-- CLOSE_DEADLINE_EXPIRES (R195). -/
  | closeDeadlineExpires (ctx : Nat)
  /-- CLOSE_POINT (R195). -/
  | closePoint (ctx : Nat)
  /-- RETAG_SWEEP_DONE (R197). -/
  | retagSweepDone (ctx : Nat)
  /-- SUMS_COLLECTED (R198). -/
  | sumsCollected (ctx : Nat)
  /-- NORM_TIMEOUT (R205). -/
  | normTimeout (ctx : Nat)
  /-- ASH_DRAIN_RECORD (R201). -/
  | ashDrainRecord (ctx : Nat)
  /-- TREAD_BUFFER_ALLOCATED (R234). -/
  | treadBufferAllocated (tread : Nat)
  /-- TREAD_RESPONSE (R358). -/
  | treadResponse (tread : Nat)
  /-- SAMPLER_START (R264). -/
  | samplerStart (ctx : Nat)
  /-- REFRESH_INTERVAL (R273). -/
  | refreshInterval (die pos grp : Nat)
  /-- THERMAL_SENSOR_STROBE (R622). -/
  | thermalSensorStrobe (die : Nat) (val : BitVec 13)
  /-- RAMP_BOUNDARY (R289). -/
  | rampBoundary (ns : Nat)
  /-- REQUEST_AGED (R279). -/
  | requestAged (die pos idx : Nat)
  /-- CALIBRATION_DUE (R292). -/
  | calibrationDue (die pos : Nat)
  /-- CALIBRATION_DEFERRAL_BOUND (R292). -/
  | calibrationDeferralBound (die pos : Nat)
  /-- TSV_RETRAIN_DUE (R625). -/
  | tsvRetrainDue (die grp : Nat)
  /-- TSV_RETRAIN_DONE (R293). -/
  | tsvRetrainDone (die : Nat)
  /-- TSV_NAK (R306): whether a weft bus carries the unit, and the address that its first part folds. -/
  | tsvNak (die grp : Nat) (weftBus : Bool) (unit : TsvUnit) (fold : Nat)
  /-- SCRUB_QUEUE_SERVICE (R307). -/
  | scrubQueueService (die pos : Nat)
  /-- SCRUB_VERIFY_READ (R572). -/
  | scrubVerifyRead (die pos : Nat)
  /-- REINIT_REQUESTS_SETTLED (R465). -/
  | reinitRequestsSettled (part : Nat)
  /-- REINIT_FILL_DONE (R465). -/
  | reinitFillDone (part : Nat)
  /-- FB_MBOX_GO (R475). -/
  | fbMboxGo (rq : Requester) (mbox : Nat)
  /-- RWF_WRITE (R481). -/
  | rwfWrite (mbox : Nat)
  /-- PART_REINIT (R465). -/
  | partReinit (mbox : Nat)
  /-- REGION_ASSIGN (R451). -/
  | regionAssign (mbox : Nat)
  /-- SPARE_PAIR (R317). -/
  | sparePair (mbox : Nat)
  /-- TSV_RETRAIN (R293). -/
  | tsvRetrain (mbox : Nat)
  /-- GOV_LIMIT (R488). -/
  | govLimit (mbox : Nat)
  /-- CAL_SET (R485). -/
  | calSet (mbox : Nat)
  /-- FAULT_CLEAR (R490). -/
  | faultClear (mbox : Nat)
  /-- RECOVER (R581). -/
  | recover (mbox : Nat)
  /-- TEST_NOW (R575). -/
  | testNow (mbox : Nat)
  /-- PKEY_SET (R472). -/
  | pkeySet (mbox : Nat)
  /-- KEY_SET (R481). -/
  | keySet (mbox : Nat)
  /-- VERSION_OVERRIDE (R533). -/
  | versionOverride (mbox : Nat)
  /-- LOCKOUT_END (R478). -/
  | lockoutEnd (mbox : Nat)
  /-- COUNTER_RESERVATION_WRITE (R477). -/
  | counterReservationWrite (ok : Bool)
  /-- REFCLK_WINDOW (R496). -/
  | refclkWindow (count : Nat) (gap : Bool)
  /-- PORT_PLL_UNLOCK (R497). -/
  | portPllUnlock (flue : Bool)
  /-- FOSC_TRIM_WINDOW (R501). -/
  | foscTrimWindow (count : Nat)
  /-- POWER_GOOD_FALL (R508). -/
  | powerGoodFall (input : PgInput)
  /-- POWER_GOOD_RISE (R508). -/
  | powerGoodRise (input : PgInput)
  /-- COLD_RESET (R506). -/
  | coldReset (low : Bool) (mgAddr : Nat) (testMode : Bool)
  /-- STACK_TRAINED (R523). -/
  | stackTrained (answer : Nat) (releases : List (Nat × Nat)) (baseOk : Bool)
  /-- FLASH_PROBE (R513). -/
  | flashProbe (ok : Bool)
  /-- IMAGE_CHECKS (R517). -/
  | imageChecks (img : ImageIn)
  /-- ERASE (R522). -/
  | erase (rq : Requester)
  /-- PROGRAM (R522). -/
  | program (rq : Requester) (off : Nat)
  /-- MARK_TRIAL (R522). -/
  | markTrial (rq : Requester)
  /-- FLASH_OPERATION_DONE (R514). -/
  | flashOperationDone (ok : Bool)
  /-- NEXT_SLOT (R521). -/
  | nextSlot (slotB : Bool)
  /-- LIB_LOAD_EDGE (R536). -/
  | libLoadEdge (img : ImageIn)
  /-- OBS_TIME_PROBE (R544). -/
  | obsTimeProbe (rq : Requester)
  /-- ARM (R545). -/
  | arm (rq : Requester)
  /-- CLR_MAX (R541). -/
  | clrMax (rq : Requester)
  /-- FREEZE (R542). -/
  | freeze (rq : Requester)
  /-- RUN (R542). -/
  | run (rq : Requester)
  /-- OBS_PMC_CFG_WRITE (R542). -/
  | obsPmcCfgWrite (rq : Requester) (len : Nat) (hi : Bool) (val : W64)
  /-- OBS_SOOT_CFG_WRITE (R547). -/
  | obsSootCfgWrite (rq : Requester) (len : Nat) (hi : Bool) (val : W64)
  /-- OBS_SOOT_RD_WRITE (R600). -/
  | obsSootRdWrite (rq : Requester) (len : Nat) (hi : Bool) (val : W64)
  /-- PRT_MARK (R551). -/
  | prtMark (rq : Requester) (part len : Nat) (val : W64)
  /-- NOW (R552). -/
  | now (rq : Requester)
  /-- SOOT_DRAIN (R552). -/
  | sootDrain (ring : Nat) (timer : Bool)
  /-- BUILD (R553). -/
  | build (rq : Requester)
  /-- WFG_BUILD_DONE (R553). -/
  | wfgBuildDone (us : Nat)
  /-- RELEASE (R556). -/
  | release (rq : Requester)
  /-- TAKE (R343). -/
  | take (rq : Requester)
  /-- FAULT_EVENT_REPORT (R559). -/
  | faultEventReport (chan : Nat)
  /-- FAULT_RECORD_COMMIT (R567). -/
  | faultRecordCommit (ok : Bool)
  /-- FALLBACK_RETRY (R569). -/
  | fallbackRetry (ok : Bool)
  /-- SCAN_PATTERN_READ (R576). -/
  | scanPatternRead (ok : Bool)
  /-- SCAN_TEST_DONE (R578). -/
  | scanTestDone (mask : Nat) (checker : Bool) (us : Nat)
  /-- MGMT_ACCESS (R627). -/
  | mgmtAccess (op : Byte) (off : Nat) (val : W64)
  /-- SETDASA (R626). -/
  | setdasa (addr : Nat)
  /-- ENTDAA (R626). -/
  | entdaa (addr : Nat)
  /-- SAMPLE_PRELOAD (R629). -/
  | samplePreload (val : Nat)
  /-- COLUMN_SLOT_GRANT (R278). -/
  | columnSlotGrant (die pos : Nat) (pullIn : Bool)
  /-- FLIT_SENT (R349). -/
  | flitSent (flue : Bool) (module : Nat)
  /-- RESYNC_READ_DONE (R412). -/
  | resyncReadDone (record : Nat)
  /-- TSV_RETRAIN_WAIT_END (R293). -/
  | tsvRetrainWaitEnd (die : Nat)
  /-- VIOL_PERIOD_BOUNDARY (R594). -/
  | violPeriodBoundary
  /-- MARK_LOST (R373). -/
  | markLost
  /-- FIRING_SELECT (R141). -/
  | firingSelect
  /-- LAUNCH_COMPLETE (R130). -/
  | launchComplete
  /-- HELD_STOP_SIGNAL (R137). -/
  | heldStopSignal
  /-- STOP_COMPLETE (R134). -/
  | stopComplete
  /-- STOP_WATCHDOG_EXPIRES (R146). -/
  | stopWatchdogExpires
  /-- RESTORE_COMPLETE (R135). -/
  | restoreComplete
  /-- QUANTUM_EXPIRES (R142). -/
  | quantumExpires
  /-- TEST_DEFERRAL_BOUND (R145). -/
  | testDeferralBound
  /-- SAMPLER_DONE (R261). -/
  | samplerDone
  /-- REFRESH_HOT_EXIT (R272). -/
  | refreshHotExit
  /-- DRAUGHT_RELEASE (R284). -/
  | draughtRelease
  /-- SWEEP_VISIT (R315). -/
  | sweepVisit
  /-- CHUNK_COPIED (R318). -/
  | chunkCopied
  /-- FORCED_CHUNK (R319). -/
  | forcedChunk
  /-- SWITCHOVER (R320). -/
  | switchover
  /-- SOOT_RECORD_WRITE (R550). -/
  | sootRecordWrite
  /-- DAMPER_TICK (R454). -/
  | damperTick
  /-- MAILBOX_EVALUATION (R476). -/
  | mailboxEvaluation
  /-- CALENDAR_TICK (R484). -/
  | calendarTick
  /-- GOVERNOR_STEP (R486). -/
  | governorStep
  /-- THERMAL_HOLD_END (R487). -/
  | thermalHoldEnd
  /-- FIREBACK_SRAM_UE (R480). -/
  | firebackSramUe
  /-- LOCKSTEP_MISMATCH (R490). -/
  | lockstepMismatch
  /-- REFCLK_MISSING (R497). -/
  | refclkMissing
  /-- ROOT_PLL_UNLOCK (R497). -/
  | rootPllUnlock
  /-- ROOT_RELOCK_ATTEMPT (R497). -/
  | rootRelockAttempt
  /-- ROOT_PLL_LOCK (R499). -/
  | rootPllLock
  /-- RETAIN_REQUEST (R509). -/
  | retainRequest
  /-- SERVICE_REQUEST (R509). -/
  | serviceRequest
  /-- RETAIN_ENTER (R510). -/
  | retainEnter
  /-- RETAIN_ENTRY_TIMEOUT (R509). -/
  | retainEntryTimeout
  /-- TILES_READY (R509). -/
  | tilesReady
  /-- SIGNED_PART_READ (R518). -/
  | signedPartRead
  /-- STOKERS_READY (R523). -/
  | stokersReady
  /-- STOKER_LOAD_TIMEOUT (R523). -/
  | stokerLoadTimeout
  /-- ARRAY_INIT_DONE (R525). -/
  | arrayInitDone
  /-- TABLES_LOADED (R523). -/
  | tablesLoaded
  /-- FLASH_ARM_EXPIRES (R599). -/
  | flashArmExpires
  /-- CONFIRM (R521). -/
  | confirm
  /-- LIB_LOAD (R536). -/
  | libLoad
  /-- HISTORY_HOURLY_WRITE (R574). -/
  | historyHourlyWrite
  /-- SCAN_TEST_DUE (R575). -/
  | scanTestDue
  /-- SCAN_TEST_START (R577). -/
  | scanTestStart
  /-- SCAN_SEGMENT_DONE (R577). -/
  | scanSegmentDone
  /-- RSTDAA (R626). -/
  | rstdaa
  /-- ENEC (R626). -/
  | enec
  /-- DISEC (R626). -/
  | disec
  /-- GETSTATUS (R626). -/
  | getstatus
  /-- ALERT_RESPONSE (R626). -/
  | alertResponse
  /-- BYPASS (R629). -/
  | bypass
  /-- IDCODE (R628). -/
  | idcode
  /-- SELF_CHECK_PASSED (R470). -/
  | selfCheckPassed
deriving DecidableEq, Repr

end Sys2Proof
end

