-- ==== Sys2Proof/Decode.lean ====
section
/-! DEFINITION. The decoder of the command table. -/

namespace Sys2Proof

/-- The command that a word spells by the table's bits: the table gives no row any bits, so a word spells none. -/
def decodeTableWord (_nbits _w : Nat) : Option Instr := none

end Sys2Proof
end

