-- ==== Sys2Proof/Machine/SMap.lean ====
section
/-! DEFINITION. Sparse maps held as plain data: lists of (key, value) pairs with strictly rising keys. -/

namespace Sys2Proof.Machine

/-- A sparse map from numbers, as plain data. Keys rise strictly in every map the model builds. -/
abbrev SMap (α : Type) := List (Nat × α)

/-- The value at key `k`, or `d` where the map lists none. -/
def smGet {α : Type} (d : α) : SMap α → Nat → α
  | [], _ => d
  | (k', v) :: m, k => if k' = k then v else smGet d m k

/-- The value at key `k`, if the map lists one. -/
def smFind {α : Type} : SMap α → Nat → Option α
  | [], _ => none
  | (k', v) :: m, k => if k' = k then some v else smFind m k

/-- The map with `v` at key `k`. -/
def smSet {α : Type} : SMap α → Nat → α → SMap α
  | [], k, v => [(k, v)]
  | (k', v') :: m, k, v =>
    if k < k' then (k, v) :: (k', v') :: m
    else if k = k' then (k, v) :: m
    else (k', v') :: smSet m k v

/-- The map without key `k`. -/
def smDel {α : Type} : SMap α → Nat → SMap α
  | [], _ => []
  | (k', v') :: m, k => if k = k' then smDel m k else (k', v') :: smDel m k

/-- Apply `f` to the value at key `k`, starting from `d` where the map lists none. -/
def smMod {α : Type} (d : α) (m : SMap α) (k : Nat) (f : α → α) : SMap α :=
  smSet m k (f (smGet d m k))

/-- Apply `f` to every listed value. -/
def smMap {α : Type} (m : SMap α) (f : Nat → α → α) : SMap α :=
  m.map fun kv => (kv.1, f kv.1 kv.2)

/-- Keep the listed values that satisfy `p`. -/
def smFilter {α : Type} (m : SMap α) (p : Nat → α → Bool) : SMap α :=
  m.filter fun kv => p kv.1 kv.2

/-- The least key from `n` upward that the map does not list, searching at most `fuel` keys. -/
def smFreeKey {α : Type} (m : SMap α) : Nat → Nat → Option Nat
  | 0, _ => none
  | fuel + 1, n => match smFind m n with
    | none => some n
    | some _ => smFreeKey m fuel (n + 1)

/-- Count the listed values that satisfy `p`. -/
def smCount {α : Type} (m : SMap α) (p : Nat → α → Bool) : Nat :=
  (smFilter m p).length

/-- Replace the element at position `i` of a list, if there is one. -/
def listSet {α : Type} : List α → Nat → α → List α
  | [], _, _ => []
  | _ :: xs, 0, v => v :: xs
  | x :: xs, n + 1, v => x :: listSet xs n v

/-- Drop the element at position `i`, if there is one. -/
def listDel {α : Type} : List α → Nat → List α
  | [], _ => []
  | _ :: xs, 0 => xs
  | x :: xs, n + 1 => x :: listDel xs n

end Sys2Proof.Machine
end

