-- ==== Sys2Proof/Machine/Bits.lean ====
section
/-! DEFINITION. Bit fields, little-endian bytes and saturating counters. -/

namespace Sys2Proof.Machine

/-- The field of `w` bits at bit `lo` of a number. -/
def bitsAt (x lo w : Nat) : Nat := (x >>> lo) % 2 ^ w

/-- Bit `i` of a number. -/
def bitAt (x i : Nat) : Bool := x.testBit i

/-- A Bool as a bit. -/
def b2n (b : Bool) : Nat := if b then 1 else 0

/-- A register field of a 64-bit word. -/
def fld (w : W64) (lo n : Nat) : Nat := bitsAt w.toNat lo n

/-- The 64-bit word that places `v` (cut to `n` bits) at bit `lo`. -/
def put (lo n v : Nat) : W64 := BitVec.ofNat 64 ((v % 2 ^ n) <<< lo)

/-- The word with the field of `n` bits at `lo` replaced by `v`. -/
def setFld (w : W64) (lo n v : Nat) : W64 :=
  (w &&& ~~~ (put lo n (2 ^ n - 1))) ||| put lo n v

/-- Add with saturation at `2 ^ w - 1`. -/
def satAdd (w x y : Nat) : Nat := if x + y < 2 ^ w then x + y else 2 ^ w - 1

/-- Two's-complement reading of the low `w` bits. -/
def toSigned (w x : Nat) : Int :=
  if x % 2 ^ w < 2 ^ (w - 1) then (x % 2 ^ w : Nat) else ((x % 2 ^ w : Nat) : Int) - (2 ^ w : Nat)

/-- The low `w` bits of an integer's two's complement. -/
def ofSigned (w : Nat) (x : Int) : Nat := (x % (2 ^ w : Nat)).toNat

/-- The number whose little-endian bytes are the list. -/
def leNat : List Byte → Nat
  | [] => 0
  | b :: bs => b.toNat + 256 * leNat bs

/-- The `n` little-endian bytes of a number. -/
def leBytes : Nat → Nat → List Byte
  | 0, _ => []
  | n + 1, x => BitVec.ofNat 8 x :: leBytes n (x / 256)

/-- The 32 bytes of a granule, byte 0 first. -/
def granBytes (g : Gran) : List Byte := leBytes 32 g.toNat

/-- The granule whose bytes are the list, byte 0 first; missing bytes are zero. -/
def bytesGran (bs : List Byte) : Gran := BitVec.ofNat 256 (leNat (bs.take 32))

/-- Byte `i` of a list, zero past its end. -/
def byteAt (bs : List Byte) (i : Nat) : Byte := bs.getD i 0

/-- The little-endian number of `n` bytes at offset `o` of a byte list. -/
def leAt (bs : List Byte) (o n : Nat) : Nat := leNat ((bs.drop o).take n)

/-- A list padded with zero bytes, or cut, to `n` bytes. -/
def padTo (n : Nat) (bs : List Byte) : List Byte :=
  (bs.take n) ++ List.replicate (n - bs.length) 0

/-- The floor of `k` times a non-negative FP32 value. -/
def f32Floor (b : W32) (k : Nat) : Nat :=
  let e := bitsAt b.toNat 23 8
  let m := bitsAt b.toNat 0 23
  if e = 0 then m * k / 2 ^ 149
  else if 150 ≤ e then (2 ^ 23 + m) * k * 2 ^ (e - 150)
  else (2 ^ 23 + m) * k / 2 ^ (150 - e)

/-- Cut a byte list into chunks of `n` (n > 0), with at most `fuel` chunks. -/
def chunksOf {α : Type} (n : Nat) : Nat → List α → List (List α)
  | 0, _ => []
  | fuel + 1, xs => match xs with
    | [] => []
    | _ :: _ => xs.take n :: chunksOf n fuel (xs.drop n)

/-- The granules of a byte list. -/
def bytesGrans (bs : List Byte) : List Gran :=
  (chunksOf 32 (bs.length / 32 + 1) bs).map bytesGran

/-- The natural numbers `a, a+1, …` of length `n`. -/
def rangeFrom (a n : Nat) : List Nat := (List.range n).map (a + ·)

end Sys2Proof.Machine
end

