-- ==== Sys2Proof/Machine/Crypto.lean ====
section
/-! DEFINITION. The algorithms that the manual names by their standards: SHA-256 (FIPS 180-4), HMAC-SHA-256 (FIPS 198-1), and
AES-256 key unwrapping, KW and KWP (FIPS 197, NIST SP 800-38F) (R471, R472, R474, R517). -/

namespace Sys2Proof.Machine

/-! ### SHA-256 -/

/-- The greatest `r` below 2 to the power `b` more than a start whose `k`-th power is at most `n`, found bit by bit from the top. -/
def rootBits (k n : Nat) : Nat → Nat → Nat
  | 0, r => r
  | b + 1, r => rootBits k n b (if (r + 2 ^ b) ^ k ≤ n then r + 2 ^ b else r)

/-- The first 32 bits of the fraction of the `k`-th root of a number below 512. -/
def rootFrac (k p : Nat) : Nat := rootBits k (p * 2 ^ (32 * k)) 37 0 % 2 ^ 32

/-- The first 64 primes. -/
def shaPrimes : List Nat := (List.range 312).filter fun n => 2 ≤ n && (List.range n).all fun d => d < 2 || n % d != 0

/-- The round constants: the fractions of the cube roots of the first 64 primes. -/
def shaK : List W32 := shaPrimes.map fun p => BitVec.ofNat 32 (rootFrac 3 p)

/-- The initial hash value: the fractions of the square roots of the first eight primes. -/
def shaH0 : List W32 := (shaPrimes.take 8).map fun p => BitVec.ofNat 32 (rootFrac 2 p)

/-- A word rotated right by each distance, the results added without carry. -/
def rotSum (x : W32) (ns : List Nat) : W32 := ns.foldl (fun t n => t ^^^ x.rotateRight n) 0

/-- The word that follows in the message schedule, held newest first. -/
def shaNext (w : List W32) : W32 :=
  let old := w.getD 14 0
  let new := w.getD 1 0
  w.getD 15 0 + (rotSum old [7, 18] ^^^ old >>> 3) + w.getD 6 0 + (rotSum new [17, 19] ^^^ new >>> 10)

/-- One round on the working variables a to h, listed in that order: every variable moves on by one place. -/
def shaRound (v : List W32) (kw : W32) : List W32 :=
  let at_ (i : Nat) : W32 := v.getD i 0
  let pick := at_ 6 ^^^ (at_ 4 &&& (at_ 5 ^^^ at_ 6))
  let most := (at_ 0 &&& at_ 1) ||| (at_ 2 &&& (at_ 0 ||| at_ 1))
  let t := at_ 7 + rotSum (at_ 4) [6, 11, 25] + pick + kw
  (t + rotSum (at_ 0) [2, 13, 22] + most) :: (listSet (v.take 7) 3 (at_ 3 + t))

/-- The big-endian number of a byte list. -/
def beNat (bs : List Byte) : Nat := bs.foldl (fun n b => 256 * n + b.toNat) 0

/-- The `n` big-endian bytes of a number. -/
def beBytes (n x : Nat) : List Byte := (leBytes n x).reverse

/-- Compress one block of 64 bytes. -/
def shaBlock (h : List W32) (blk : List Byte) : List W32 :=
  let first := (chunksOf 4 16 blk).map fun c => BitVec.ofNat 32 (beNat c)
  let words := ((List.range 48).foldl (fun w _ => shaNext w :: w) first.reverse).reverse
  List.zipWith (· + ·) h ((List.zipWith (· + ·) shaK words).foldl shaRound h)

/-- SHA-256 of a byte list: 32 bytes. -/
def sha256 (m : List Byte) : List Byte :=
  let n := m.length
  let z := (119 - n % 64) % 64
  let p := m ++ [0x80] ++ List.replicate z 0 ++ beBytes 8 (8 * n)
  ((chunksOf 64 (p.length / 64 + 1) p).foldl shaBlock shaH0).flatMap fun w => beBytes 4 w.toNat

/-- HMAC-SHA-256 under a key of 32 bytes. -/
def hmac (key m : List Byte) : List Byte :=
  let pad (x : Byte) : List Byte := (padTo 64 key).map fun b => b ^^^ x
  sha256 (pad 0x5C ++ sha256 (pad 0x36 ++ m))

/-- The 32 bytes of a 256-bit key, byte 0 first. -/
def keyBytes (k : BitVec 256) : List Byte := leBytes 32 k.toNat

/-- The 256-bit key whose bytes are the list. -/
def bytesKey (bs : List Byte) : BitVec 256 := BitVec.ofNat 256 (leNat (bs.take 32))

/-! ### AES-256 decryption -/

/-- Multiply by x in GF(2^8). -/
def aesX (a : Nat) : Nat := if 128 ≤ a then (2 * a) % 256 ^^^ 0x1B else 2 * a

/-- Product in GF(2^8): the low `f` bits of the second factor. -/
def aesMul : Nat → Nat → Nat → Nat
  | 0, _, _ => 0
  | f + 1, a, b => (if b % 2 = 1 then a else 0) ^^^ aesMul f (aesX a) (b / 2)

/-- The inverse in GF(2^8), as the power 254. -/
def aesInv (a : Nat) : Nat :=
  let m := aesMul 8
  let a2 := m a a
  let a4 := m a2 a2
  let a8 := m a4 a4
  let a16 := m a8 a8
  let a32 := m a16 a16
  let a64 := m a32 a32
  let a128 := m a64 a64
  m a128 (m a64 (m a32 (m a16 (m a8 (m a4 a2)))))

/-- Rotate a byte left. -/
def rol8 (x n : Nat) : Nat := (x <<< n ||| x >>> (8 - n)) % 256

/-- The AES S-box. -/
def sbox (x : Nat) : Nat :=
  let b := aesInv x
  b ^^^ rol8 b 1 ^^^ rol8 b 2 ^^^ rol8 b 3 ^^^ rol8 b 4 ^^^ 0x63

/-- The inverse S-box. -/
def sboxInv (x : Nat) : Nat := aesInv (rol8 x 1 ^^^ rol8 x 3 ^^^ rol8 x 6 ^^^ 0x05)

/-- The key schedule of AES-256, held newest first: words of four bytes. -/
def aesKeys : Nat → List (List Nat) → List (List Nat)
  | 0, w => w
  | n + 1, w =>
    let i := w.length
    let t := w.getD 0 []
    let u := if i % 8 = 0 then
        match (t.drop 1 ++ t.take 1).map sbox with
        | x :: xs => (x ^^^ 2 ^ (i / 8 - 1)) :: xs
        | [] => []
      else if i % 8 = 4 then t.map sbox else t
    aesKeys n ((List.zipWith (· ^^^ ·) (w.getD 7 []) u) :: w)

/-- Inverse ShiftRows of a state in column order. -/
def invShift (st : List Nat) : List Nat :=
  (List.range 16).map fun i => st.getD ((i / 4 + 4 - i % 4) % 4 * 4 + i % 4) 0

/-- Inverse MixColumns of one column. -/
def invMix (c : List Nat) : List Nat :=
  (List.range 4).map fun r =>
    aesMul 8 (c.getD r 0) 14 ^^^ aesMul 8 (c.getD ((r + 1) % 4) 0) 11 ^^^ aesMul 8 (c.getD ((r + 2) % 4) 0) 13
      ^^^ aesMul 8 (c.getD ((r + 3) % 4) 0) 9

/-- Decrypt one block of 16 bytes under a key of 32 bytes (FIPS 197). -/
def aesDec (key blk : List Byte) : List Byte :=
  let ks := (aesKeys 52 ((chunksOf 4 8 (key.map (·.toNat))).reverse)).reverse
  let rk (r : Nat) : List Nat := ((ks.drop (4 * r)).take 4).flatten
  let add (st : List Nat) (r : Nat) : List Nat := List.zipWith (· ^^^ ·) st (rk r)
  let s0 := add (blk.map (·.toNat)) 14
  let s1 := (List.range 13).foldl (fun st i =>
    ((chunksOf 4 4 (add ((invShift st).map sboxInv) (13 - i))).map invMix).flatten) s0
  (add ((invShift s1).map sboxInv) 0).map (BitVec.ofNat 8)

/-- The unwrapping steps of SP 800-38F over half-blocks: `t` counts down. -/
def unwrapSteps (key : List Byte) : Nat → List Byte × List (List Byte) → List Byte × List (List Byte)
  | 0, x => x
  | t + 1, (a, rs) =>
    let n := rs.length
    let i := t % n
    let d := aesDec key (List.zipWith (· ^^^ ·) a (beBytes 8 (t + 1)) ++ rs.getD i [])
    unwrapSteps key t (d.take 8, listSet rs i (d.drop 8))

/-- KW unwrapping: the plaintext, or none where the check value fails. -/
def kwUnwrap (key c : List Byte) : Option (List Byte) :=
  let hs := chunksOf 8 (c.length / 8 + 1) c
  let n := hs.length - 1
  let r := unwrapSteps key (6 * n) (hs.getD 0 [], hs.drop 1)
  if r.1 = List.replicate 8 (0xA6 : Byte) then some r.2.flatten else none

/-- KWP unwrapping of 16 bytes that hold a plaintext of 8: the plaintext, or none where the check fails. -/
def kwpUnwrap8 (key c : List Byte) : Option (List Byte) :=
  let d := aesDec key (c.take 16)
  if d.take 8 = [0xA6, 0x59, 0x59, 0xA6, 0, 0, 0, 8] then some (d.drop 8) else none

end Sys2Proof.Machine
end

