-- ==== Sys2Proof/Machine/Warp.lean ====
section
/-! DEFINITION. The warp code stored with each granule (R296 to R303) and the weft bits of transfers (R304). -/

namespace Sys2Proof.Machine

/-- Multiply by α in GF(16), α a root of x^4 + x + 1 (R296). -/
def gfX (a : Nat) : Nat := if a < 8 then 2 * a else (2 * a) % 16 ^^^ 3

/-- Multiplication in GF(16): bit k of an element is the coefficient of α^k (R296). -/
def gfMul (a b : Nat) : Nat :=
  (if bitAt b 0 then a else 0) ^^^ (if bitAt b 1 then gfX a else 0)
    ^^^ (if bitAt b 2 then gfX (gfX a) else 0) ^^^ (if bitAt b 3 then gfX (gfX (gfX a)) else 0)

/-- The inverse of a non-zero element: a^14. -/
def gfInv (a : Nat) : Nat :=
  let a2 := gfMul a a
  let a4 := gfMul a2 a2
  let a8 := gfMul a4 a4
  gfMul a2 (gfMul a4 a8)

/-- Q(x, y) = x² + x·y + 0x8·y² (R297). -/
def warpQ (x y : Nat) : Nat := gfMul x x ^^^ gfMul x y ^^^ gfMul 8 (gfMul y y)

/-- x_i of the table of columns (R297). -/
def warpX (i : Nat) : Nat :=
  if i < 64 then 2 + i / 16 else if i = 65 ∨ i = 67 then 1 else 0

/-- y_i of the table of columns (R297). -/
def warpY (i : Nat) : Nat :=
  if i < 64 then i % 16 else if i = 66 ∨ i = 67 then 1 else 0

/-- A vector of four GF(16) elements: a syndrome or a column. -/
structure Syn where
  s0 : Nat
  s1 : Nat
  s2 : Nat
  s3 : Nat
deriving DecidableEq, Repr

def synAdd (a b : Syn) : Syn := ⟨a.s0 ^^^ b.s0, a.s1 ^^^ b.s1, a.s2 ^^^ b.s2, a.s3 ^^^ b.s3⟩
def synScale (c : Nat) (a : Syn) : Syn := ⟨gfMul c a.s0, gfMul c a.s1, gfMul c a.s2, gfMul c a.s3⟩

/-- Column h_i = (1, x_i, y_i, Q(x_i, y_i)) (R297). -/
def warpCol (i : Nat) : Syn := ⟨1, warpX i, warpY i, warpQ (warpX i) (warpY i)⟩

/-- The 12-bit address signature σ(A) (R299), over the address bits listed. -/
def sigmaBits (a : Nat) : List Nat → Nat
  | [] => 0
  | k :: ks => (if bitAt a k then 0x800 ||| ((0x3A7 * k + 0x115) &&& 0x7FF) else 0) ^^^ sigmaBits a ks

def sigma (a : Nat) : Nat := sigmaBits a (List.range 32)

/-- The address term (0, σ(A)) of a syndrome (R300). -/
def sigmaSyn (a : Nat) : Syn := ⟨0, bitsAt (sigma a) 8 4, bitsAt (sigma a) 4 4, bitsAt (sigma a) 0 4⟩

/-- The sum of s_i·h_i over the symbols listed, of a word given as a number (R296: symbol i is bits [4i+3:4i]). -/
def synSum (w : Nat) : List Nat → Syn
  | [] => ⟨0, 0, 0, 0⟩
  | i :: is => synAdd (synScale (bitsAt w (4 * i) 4) (warpCol i)) (synSum w is)

/-- The 16 warp check bits of data `d` written at physical address `a` (R300); a poison mark has all data bits
zero and P added (R301). -/
def warpCheck (d a : Nat) (poison : Bool) : Nat :=
  let t := synAdd (synSum (if poison then 0 else d) (List.range 64)) (sigmaSyn a)
  let t3 := if poison then t.s3 ^^^ 1 else t.s3
  let c65 := t3 ^^^ gfMul 8 t.s2
  let c67 := t.s1 ^^^ c65
  let c66 := t.s2 ^^^ c67
  let c64 := t.s0 ^^^ c65 ^^^ t.s2
  c64 + 16 * c65 + 256 * c66 + 4096 * c67

/-- The 272-bit array word that holds a datum at physical address `a` (R296, R300, R301). -/
def warpEncode (x : Datum) (a : Nat) : Nat :=
  (if x.poison then 0 else x.bits.toNat) + 2 ^ 256 * warpCheck x.bits.toNat a x.poison

/-- The four results of a warp decode (R302, R307). -/
inductive WarpRes where
  | clean | correctable | uncorrectable | poison
deriving DecidableEq, Repr

/-- Decode the 272-bit word read at address `a`: the result, and the datum delivered (R302). -/
def warpDecode (w a : Nat) : WarpRes × Datum :=
  let sy := synAdd (synSum w (List.range 68)) (sigmaSyn a)
  let data := w % 2 ^ 256
  if sy = ⟨0, 0, 0, 0⟩ then (.clean, ⟨BitVec.ofNat 256 data, false⟩)
  else if sy = ⟨0, 0, 0, 1⟩ then (.poison, ⟨0, true⟩)
  else if sy.s0 ≠ 0 then
    let u := synScale (gfInv sy.s0) sy
    let pos := (2 ≤ u.s1 && u.s1 ≤ 5) || (u.s1 ≤ 1 && u.s2 ≤ 1)
    if u.s3 = warpQ u.s1 u.s2 ∧ pos = true then
      let i := if 2 ≤ u.s1 then 16 * (u.s1 - 2) + u.s2 else 64 + u.s1 + 2 * u.s2
      (.correctable, ⟨BitVec.ofNat 256 ((w ^^^ (sy.s0 <<< (4 * i))) % 2 ^ 256), false⟩)
    else (.uncorrectable, ⟨0, true⟩)
  else (.uncorrectable, ⟨0, true⟩)

/-- Byte `i` (0 to 33) of the array word of the poison mark at granule address `a`: what an array byte that nothing
has written reads as (R59 fills every granule at boot; DESIGN CHOICE before boot, log entry 2). -/
def poisonByte (a i : Nat) : Byte :=
  BitVec.ofNat 8 (bitsAt (warpEncode ⟨0, true⟩ a) (8 * i) 8)

/-- Parity of the low `n` bits of a number. -/
def parity : Nat → Nat → Bool
  | 0, _ => false
  | n + 1, x => xor (bitAt x n) (parity n x)

/-- The weft bit of byte `n` of a 32-byte part that folds address `l` (R304). -/
def weftBit (l : Nat) (p : Bool) (n : Nat) (b : Byte) : Bool :=
  xor (parity 8 b.toNat) (xor (xor (bitAt l (5 + n)) (bitAt l (37 + n % 11))) (n == 0 && p))

/-- The weft bits of a part of at most 32 bytes (R304), byte 0 in bit 0. -/
def weftBits (l : Nat) (p : Bool) (bs : List Byte) : Nat :=
  ((List.range (min 32 bs.length)).map fun n =>
    b2n (weftBit l p n (byteAt bs n)) <<< n).foldl (· ||| ·) 0

end Sys2Proof.Machine
end

