-- ==== Sys2Proof/Machine/StMem.lean ====
section
/-! DEFINITION. State of the memory side: regions, partitions, the scheduler with its column queues, warp counters,
sweep and sparing. Default field values are the values at cold reset. -/

namespace Sys2Proof.Machine

/-- The states of R58. `held b` is Doorbell held with the region banked iff `b`; `await b` is Awaiting doorbell, to
banked iff `b`. -/
inductive ModeSt where
  | idle
  | held (banked : Bool)
  | await (toBanked : Bool)
  | draining
  | awaitFirings
deriving DecidableEq, Repr

/-- One entry of the region table (R47). -/
structure Region where
  /-- Kind (R47). -/
  kind : RgnKind := .striped
  /-- Hearth base, in bytes, aligned to 2 MiB (R47). -/
  base : Nat := 0
  /-- First unit of 2 MiB in every bank pair used (R47). -/
  first : Nat := 0
  /-- Unit count (R47). -/
  count : Nat := 1
  /-- Pair set columns (R47). -/
  c0 : Nat := 0
  c1 : Nat := 31
  /-- Pair set rows (R47). -/
  r0 : Nat := 0
  r1 : Nat := 15
  /-- Accumulator attribute (R47). -/
  acc : Bool := false
  /-- Owning partition (R47). -/
  owner : Nat := 0
  /-- The block owns the region (R593 BLOCK). -/
  block : Bool := false
  /-- Mode: banked (R54). -/
  banked : Bool := false
  /-- Mode that the hearth image gives the region (R451, R465 step 8). -/
  imgBanked : Bool := false
  /-- Declared initialised (R62). -/
  init : Bool := false
  /-- State of the mode change (R58). -/
  st : ModeSt := .idle
  /-- Pick of the mode change under way: in-flight index (R58). -/
  pick : Option Nat := none
  /-- Ordered writes still to drain: transaction numbers (R57, R58 Draining). -/
  drain : List Nat := []
  /-- Both owners are refused while a reassignment fills the region (R451). -/
  reassign : Bool := false
deriving DecidableEq, Repr

/-- State of a partition (R445). -/
inductive PartSt where
  | free | active | reinit
deriving DecidableEq, Repr

/-- What a partition page holds beside its RW and RWF fields, which are in the register store (R610). -/
structure Part where
  /-- PRT_STATE.STATE (R446). -/
  st : PartSt := .free
  /-- DMP_LEVEL.HEARTH, signed 48 bits, saturating (R454). -/
  lvlHearth : Int := 0
  /-- DMP_LEVEL.HOB (R454). -/
  lvlHob : Int := 0
  /-- DMP_LEVEL.FLUE (R454). -/
  lvlFlue : Int := 0
  /-- PRT_ALERT.CAUSE, 7 bits (R611). -/
  alert : Nat := 0
  /-- PRT_STATUS.BULK: bulk writes under way (R338). -/
  bulk : Nat := 0
  /-- PRT_STATUS.REINIT_COUNT, saturating 16 bits (R610). -/
  reinits : Nat := 0
  /-- PRT_STATUS.STRAY_DB (R58, R426). -/
  strayDb : Nat := 0
  /-- PRT_STATUS.STRAY_PAGE (R448, R539). -/
  strayPage : Nat := 0
  /-- PRT_STATUS.PW_FAIL (R309, R340). -/
  pwFail : Nat := 0
  /-- PRT_STATUS.EMBER_DEMOTED (R363). -/
  emberDem : Nat := 0
  /-- PRT_REFUSED words 0 to 8, by status n from 1 (R610). -/
  refused : SMap Nat := []
  /-- PRT_REFUSED.POSTED (R610). -/
  posted : Nat := 0
  /-- OBS_PCNT charges: hearth bytes, hob-ns, flue bytes (R600). -/
  chHearth : Nat := 0
  chHob : Nat := 0
  chFlue : Nat := 0
  /-- SPL_CFG_STAT.RESULT and COUNT (R612). -/
  splResult : Nat := 0
  splCount : Nat := 0
  /-- A mailbox command waits for the re-initialisation to complete: mailbox number (R465 step 11). -/
  reinitBy : Option Nat := none
  /-- The fill of step 8 is under way, with the transactions that step 7 waits for before it (R465). -/
  reinitStep : Nat := 0
  reinitWait : List Nat := []
deriving DecidableEq, Repr

/-- The source of a scheduler request, in the rotation order of R278. -/
inductive Src where
  | hearth | flue | firing | accw | engine
deriving DecidableEq, Repr

/-- What a column request does when it is granted (R278, R325). -/
inductive ColOp where
  /-- Read granules; the data goes to transaction `txn` (R308). -/
  | read (txn : Nat)
  /-- Write whole granules of transaction `txn` (R308). -/
  | write (txn : Nat) (d : List Datum)
  /-- Write a burst with byte enables: merge under R309; per granule the datum and 32 enables. -/
  | merge (txn : Nat) (d : List (Datum × BitVec 32))
  /-- A hob load into vector register `v` of hob `n` (R68); the offset from the operand base at which the twin tap copies
  it, if it does (R161). -/
  | hobLd (n v : Nat) (tap : Option Nat)
  /-- A hob store (R103), with the taps that copy it: stream kind 0 fan-out or 2 smoke and offset (R161). -/
  | hobSt (n : Nat) (taps : List (Nat × Nat)) (d : Datum)
  /-- The read-add-write of accepted ACCW `entry`: the four granules of its S16 block, which the request covers, and the
  scale-and-tag granule at local offset `tag` (R76, R186, R190). -/
  | acc (entry tag : Nat)
deriving DecidableEq, Repr

/-- One request in a bank pair's queue: consecutive granules of one 64-byte burst from pair-local offset `off`. -/
structure ColReq where
  /-- Class 0 ember to 3 ash (R277). -/
  cls : Nat
  src : Src
  /-- Pair-local offset of the first granule (R39). -/
  off : Nat
  /-- Granules covered from there: 1 or 2 (R336), or the 4 of an S16 block (R186). -/
  n : Nat
  /-- Hearth address of the first granule, for the fault record (R562). -/
  addr : Nat
  /-- Partition whose work it is; none for the block's own (R453). -/
  part : Option Nat
  op : ColOp
  /-- Granted, with its granules held until the write (R186, R309). -/
  busy : Bool := false
deriving DecidableEq, Repr

/-- Scheduler state of one logical bank pair (R268 to R293). -/
structure PairS where
  /-- Requests in arrival order (R278, R326). -/
  q : List ColReq := []
  /-- Refresh debt of row groups 0 to 3, -8 to +8 (R273). -/
  debt0 : Int := 0
  debt1 : Int := 0
  debt2 : Int := 0
  debt3 : Int := 0
  /-- Open row of each row group, if one is open (R273 aligned). -/
  row0 : Option Nat := none
  row1 : Option Nat := none
  row2 : Option Nat := none
  row3 : Option Nat := none
  /-- Row groups whose row has just closed: an aligned refresh may be issued (R273). -/
  closed : List Nat := []
  /-- Row groups whose row the sequencer has activated ahead of its first column, so that the activate is not charged yet
  (R270, R286). -/
  ahead : List Nat := []
  /-- Column slots until the refresh or calibration slice in progress ends, and the row group that is refreshed; none for a
  calibration slice, which stops every column (R274, R292). -/
  opLeft : Nat := 0
  opGrp : Option Nat := none
  /-- Next source of the rotation, by class (R278). -/
  rot : SMap Nat := []
  /-- A write group is in progress, with this many columns granted (R281). -/
  wgrp : Nat := 0
  /-- A calibration slice is due (R292). -/
  calDue : Bool := false
  /-- It is past its deferral bound (R292). -/
  calOver : Bool := false
  /-- Die temperature at the pair's last calibration, in 1/16 °C (R292). -/
  calTemp : Int := 0
  /-- The pair is out of service for an in-field test (R577). -/
  test : Bool := false
  /-- Scrub queue: local offsets of granules found in error, and whether a rewrite awaits its verify read (R307, R572). -/
  scrub : List Nat := []
  /-- Verify reads waiting: (local offset, rewritten as poison) (R572). -/
  verify : List (Nat × Bool) := []
  /-- Granules of `verify` that something has written since their rewrite: they count as soft (R316, R572). -/
  overwritten : List Nat := []
  /-- Microseconds that the front entry of the scrub queue has waited (R315, tSQA). -/
  sqAge : Nat := 0
  /-- The offset that the pair's sweep visits next, where it is behind the walk of the other pairs (R314, R316). -/
  swLag : Option Nat := none
deriving DecidableEq, Repr

/-- A migration in progress (R318). -/
structure Migr where
  die : Nat
  pos : Nat
  spare : Nat
  /-- Watermark, pair-local bytes (R318). -/
  mark : Nat
  /-- SWITCHING (R318). -/
  switching : Bool
  /-- Placed by a tile that failed its test: raw word copy (R579). -/
  raw : Bool
  /-- Mailbox whose SPARE_PAIR command waits for it, if any. -/
  mbox : Option Nat
deriving DecidableEq, Repr

/-- A waiting migration request (R317). -/
structure MigReq where
  die : Nat
  pos : Nat
  mbox : Option Nat
  /-- Placed by a tile that failed its test (R579). -/
  raw : Bool
deriving DecidableEq, Repr

/-- TSV retraining state of one die (R293, R306, R625). -/
structure TsvDie where
  /-- Lane group in retraining (R293). -/
  busy : Option Nat := none
  /-- The 50 µs spacing since the last retraining runs (R293). -/
  spacing : Bool := false
  /-- Waiting requests: lane group (R293). -/
  wait : List Nat := []
  /-- Spare groups used by lane repair, 0 to 2 (R293). -/
  repaired : Nat := 0
  /-- WW_WEFT_RETRY of the die: TSV and weft bus (R306). -/
  tsvRetry : Nat := 0
  weftRetry : Nat := 0
  /-- Units refused and not yet accepted on the two paths, each with its retries so far (R306). -/
  naks : List (TsvUnit × Nat) := []
  /-- Governor steps since the die's sensor last reported, up to 100, which are 1 ms (R486). -/
  tsAge : Nat := 0
  /-- Thermal sensor value TS_VAL of the die's hub, signed, 1/16 °C (R622). -/
  temp : Int := 0
deriving DecidableEq, Repr

/-- The stack scheduler (R268 to R293). -/
structure Sched where
  /-- Per logical pair, key die × 32 + position. -/
  pairs : SMap PairS := []
  /-- Refresh counts at tREFI / 2 (R272). -/
  hot : Bool := false
  /-- Draught: budget released and unspent beyond the reserve, pJ, signed (R284, R287). -/
  avail : Int := 0
  /-- Draught: released ember reserve unspent, pJ (R285). -/
  reserve : Nat := 0
  /-- Energy of lane issues and Heddle evaluations not yet deducted, pJ (R286). -/
  arrears : Nat := 0
  /-- Slot of the window, 0 to 4 (R284). -/
  slot : Nat := 0
  /-- A request of this class or lower waits for the next release (R286); 4 when none. -/
  blocked : Nat := 4
  /-- Energy charged in the current ramp interval, pJ (R289). -/
  energy : Nat := 0
  /-- Ramp ceiling and floor target of the current interval, FP32 bits in W (R289); 20 W after cold reset. -/
  ceiling : W32 := 0x41A00000
  floorT : W32 := 0
  /-- Power of the last interval, FP32 bits in W (R289). -/
  lastP : W32 := 0
  /-- Draught budget and ramp fields in force in the current interval (R291): SCH_DRAUGHT and SCH_RAMP words. -/
  draught : W64 := 0x00000028002800C8
  ramp : W64 := 0x0000000000005014
  /-- Ballast is stopped until the governor limit is stable for 1 ms (R291). -/
  noBallast : Bool := false
  /-- Governor steps since the limit last fell (R291). -/
  govStable : Nat := 0
  /-- Ballast energy of the current interval, pJ (R290). -/
  ballastIv : Nat := 0
  /-- SCH_STAT counters, BALLAST in pJ (R276, R280, R292, R293, R290). -/
  refForced : Nat := 0
  refPulled : Nat := 0
  emberDem : Nat := 0
  calDef : Nat := 0
  tsvWait : Nat := 0
  ballast : Nat := 0
  /-- Ember bytes this microsecond: hearth ingress, flue ingress, hearth egress (R280). -/
  embIn : Nat := 0
  embFl : Nat := 0
  embEg : Nat := 0
  /-- Ember bytes this microsecond on each die's TSV channel, key 2 × die + direction (R280). -/
  embTsv : SMap Nat := []
  /-- Requests that wait at the port because their pair holds eight ember requests (R280). -/
  portWait : List (Nat × ColReq) := []
  /-- Data of granted hob loads that has not landed: hob, vector register, datum (R68). -/
  landing : List (Nat × Nat × Datum) := []
  /-- Granules that the taps of R161 have copied and the streams have not yet taken: stream kind 0 fan-out, 1 twin,
  2 smoke; hob; offset from the operand base; datum. -/
  tapped : List (Nat × Nat × Nat × Datum) := []
  /-- Lane-group retraining and sensors, per die. -/
  dies : SMap TsvDie := []
  /-- Last POWER soot record: governor limit in half watts, and ramp ceiling (R549). -/
  sootPow : Nat × W32 := (280, 0x41A00000)
deriving DecidableEq, Repr

/-- Warp counters, sweep, sparing (R296 to R323). -/
structure Warp where
  /-- WW_PAIR_CE, WW_PAIR_UE, WW_PAIR_POISON, key die × 34 + physical pair (R310). -/
  ce : SMap Nat := []
  ue : SMap Nat := []
  poison : SMap Nat := []
  /-- WW_SCRUBQ_DROP (R307). -/
  drop : Nat := 0
  /-- WW_SWEEP_POISON (R63). -/
  sweepPoison : Nat := 0
  /-- WW_SWEEP_POS, 27 bits (R315). -/
  sweepPos : Nat := 0
  /-- WW_SWEEP_PASS (R315). -/
  sweepPass : Nat := 0
  /-- Global time at which the pass began, ns (R315). -/
  sweepStart : Nat := 0
  /-- Tiles whose power differs from their rest: true for a spare tile powered, false for an active pair's tile power-gated;
  key die × 34 + physical pair (R93, R318, R320). -/
  tilePower : SMap Bool := []
  /-- Sparing map: physical pair of a logical pair, key die × 32 + position; unlisted positions are served by the
  pair of the same number (R36, R298). -/
  map : SMap Nat := []
  /-- Sparing map as last persisted in flash (R320, R570). -/
  mapFlash : SMap Nat := []
  /-- The migration in progress (R318). -/
  migr : Option Migr := none
  /-- Waiting requests (R317). -/
  queue : List MigReq := []
  /-- WW_SPARE_STAT.NO_SPARE (R318). -/
  noSpare : Bool := false
deriving DecidableEq, Repr

/-- Staging SRAM (R339, R340, R44). -/
structure Staging where
  /-- Bytes, offset in the window; unlisted bytes are zero (R45). -/
  bytes : SMap Byte := []
  /-- 32-byte words whose poison bit is set, by word index, rising (R340). -/
  poison : List Nat := []
  /-- 64-bit words that are uncorrectable under SEC-DED, by word index (R340, R312). -/
  ue : List Nat := []
  /-- Carve-out sizes in MiB: general, soot, transpose, sampler, norm (R35, R44). -/
  general : Nat := 27
  soot : Nat := 8
  tpose : Nat := 8
  sampler : Nat := 4
  norm : Nat := 1
deriving DecidableEq, Repr

end Sys2Proof.Machine
end

