-- ==== Sys2Proof/Machine/StPort.lean ====
section
/-! DEFINITION. State of the hearth and flue ports: modules, packets, transactions, fences, peers and sessions. -/

namespace Sys2Proof.Machine

/-- A packet or frame: its header (short headers in the low 128 bits, R353, R376) and its data slots (R354). -/
structure Pkt where
  hdr : BitVec 256
  data : List Datum
deriving DecidableEq, Repr

/-- Module states (R364), in the order of HP_MOD_STAT.STATE. -/
inductive ModS where
  | down | train | param | credit | up | retrain | failed
deriving DecidableEq, Repr

/-- Light states (R382), in the order of FL_MOD_STAT.LIGHT. -/
inductive Light where
  | dark | settling | lit
deriving DecidableEq, Repr

/-- A packet waiting in a module's egress (R362, R394). -/
structure EgPkt where
  pkt : Pkt
  cls : Nat
  /-- Partition whose flue or hearth egress carries it. -/
  part : Nat
  /-- Egress group: 0 hop, 1 strict, 2 response, 3 fan-out data, 4 twin data, 5 smoke data, 6 BWR (R394, R359). -/
  grp : Nat
  /-- Peer-table entry it goes to; none on the hearth. -/
  peer : Option Nat
deriving DecidableEq, Repr

/-- An entry of HP_VIOL_LOG or FL_VIOL_LOG (R594). -/
structure Viol where
  valid : Bool := false
  count : Nat := 0
  time : Nat := 0
  hdr : BitVec 256 := 0
deriving DecidableEq, Repr

/-- One module of a port (R345 to R365, R369 to R382). Credit indices: 0 to 3 REQ_H and 4 to 7 REQ_D of the request
channels, 8 RSP_H, 9 RSP_D, 10 CTL_H, 11 CTL_D, 12 STR_H, 13 STR_D, 14 BWR_H, 15 BWR_D. -/
structure PModule where
  /-- STATE (R364). -/
  st : ModS := .down
  /-- HALF (R346). -/
  half : Bool := false
  /-- FAILS, 0 to 8 (R364). -/
  fails : Nat := 0
  /-- REPAIRED lanes (R346). -/
  repaired : Nat := 0
  /-- Sequence number of the last flit accepted (R352). -/
  rxSeq : BitVec 8 := 255
  /-- Flits are being discarded until the replay arrives (R352). -/
  discarding : Bool := false
  /-- Flits accepted since the last ACK (R352). -/
  ackDue : Nat := 0
  /-- A NAK is to be sent (R352). -/
  nakDue : Bool := false
  /-- Headers of the packet or packets whose data slots are still arriving (R350): header and data slots so far, slots
  still needed, and whether a slot failed its weft check (R395). -/
  partialPkts : List (Pkt × Nat × Bool) := []
  /-- Credits the partner still holds, by credit index (R359, R381). -/
  rxCred : SMap Nat := []
  /-- Credits this block holds, by credit index (R359, R381). -/
  txCred : SMap Nat := []
  /-- Credit types for which initial credits have arrived (R364). -/
  credSeen : List Nat := []
  /-- Credits freed and not yet returned to the partner (R360). -/
  credDue : SMap Nat := []
  /-- Packets waiting to leave, in arrival order (R362, R394). -/
  egress : List EgPkt := []
  /-- Slots of packets already begun, which later flits continue (R350): slot, poison flag, folded address. -/
  txTail : List (BitVec 256 × Bool × Nat) := []
  /-- Room in the transpose carve-out that the packet being sent gives back with its last slot (R234). -/
  tposeTail : Nat := 0
  /-- Sequence number of the next flit to send (R349). -/
  txSeq : BitVec 8 := 0
  /-- The last flits sent, oldest first, at most 64 (R352). -/
  replay : List Flit := []
  /-- Replay under way: flits still to send again (R352). -/
  resend : List Flit := []
  /-- Times the oldest unacknowledged flit was replayed (R352). -/
  replays : Nat := 0
  /-- HP_ERR_CNT: CRC, WEFT, REPLAY, DISCARD (R352, R365). -/
  crcErr : Nat := 0
  weftErr : Nat := 0
  replayCnt : Nat := 0
  discard : Nat := 0
  /-- HP_VIOL_LOG entries by kind (R367, R594). -/
  viol : SMap Viol := []
  /-- LIGHT of a flue module (R382). -/
  light : Light := .dark
  /-- FL_LOL_N and FL_ATT_N levels: true is high (R371). -/
  lol : Bool := false
  att : Bool := true
  /-- CLK_HP_SSC as the module's forwarded clock follows it: taken at its last training (R347). -/
  ssc : W64 := 0
  /-- Deficit counters of fan-out, twin and smoke, bytes (R394). -/
  deficit : SMap Nat := []
  /-- Next stream kind of the deficit round robin (R394). -/
  drr : Nat := 0
deriving DecidableEq, Repr

/-- What a waiting request waits for: its damper (R366), its order (R328 to R330), or its turn on a weft bus (R79, R606). -/
inductive WaitWhy where
  | damper | order | weft
deriving DecidableEq, Repr

/-- A request in its channel buffer (R366). -/
structure WaitReq where
  flue : Bool
  module : Nat
  pkt : Pkt
  why : WaitWhy
  /-- Arrival number. -/
  no : Nat
  /-- Its completion is discarded, because its link or session was lost (R365, R386). -/
  mute : Bool := false
  /-- It still holds credits of its module (R360). -/
  cred : Bool := true
deriving DecidableEq, Repr

/-- A request accepted and not yet complete (R327, R357). -/
structure Txn where
  /-- Port and module it came from, and its header. -/
  flue : Bool
  module : Nat
  hdr : BitVec 256
  /-- Channel key: see `chanKey`. -/
  chan : Nat
  /-- It writes (R328). -/
  isWrite : Bool
  /-- Column requests still to be granted. -/
  left : Nat
  /-- Granules read so far: hearth address of the granule and datum. -/
  data : List (Nat × Datum)
  /-- A partial write failed (R309). -/
  failed : Bool
  /-- Completion is discarded, because the module's link was lost (R365). -/
  mute : Bool
deriving DecidableEq, Repr

/-- A fence under way (R329). -/
structure FenceR where
  flue : Bool
  module : Nat
  hdr : BitVec 256
  /-- Channel keys it holds. -/
  chans : List Nat
  /-- Arrival number: later requests of its agent on its channels wait. -/
  no : Nat
  /-- Its completion is discarded (R365, R386). -/
  mute : Bool := false
deriving DecidableEq, Repr

/-- Binding of a hearth agent (R348): bit 7 of the byte and the module. -/
structure Agent where
  bound : Bool := false
  module : Nat := 0
deriving DecidableEq, Repr

/-- Session states (R383), in the order of FL_PEER_STAT.SESSION. -/
inductive Sess where
  | closed | helloSent | open | unreachable | refused
deriving DecidableEq, Repr

/-- A peer-table entry and its session (R374, R383). -/
structure Peer where
  /-- Peer ID (R374). -/
  id : Nat := 0
  /-- Module set, 16 bits (R374). -/
  mods : Nat := 0
  /-- Roles, bit 0 CONTRIB to bit 6 SMOKE_SINK (R595). -/
  roles : Nat := 0
  /-- Entry enabled (R595). -/
  enabled : Bool := false
  /-- Partition its frames may address (R374). -/
  part : Nat := 0
  /-- SESSION (R383). -/
  sess : Sess := .closed
  /-- UNREACHABLE (R383). -/
  unreach : Bool := false
  /-- HELLO attempts n (R383). -/
  n : Nat := 0
  /-- Boot instance the peer last presented (R377, R383). -/
  boot : Option Nat := none
  /-- Next SSEQ to send, per channel 0 to 6: requests 0 to 3, responses, control, stream control (R378). -/
  txSseq : SMap Nat := []
  /-- Next SSEQ expected, per channel (R378). -/
  rxSseq : SMap Nat := []
  /-- FL_VIOL_LOG entries by kind (R395). -/
  viol : SMap Viol := []
deriving DecidableEq, Repr

/-- Both ports (R345 to R396). -/
structure Ports where
  /-- Hearth modules 0 to 15. -/
  hp : SMap PModule := []
  /-- Flue modules 0 to 15. -/
  fl : SMap PModule := []
  /-- HP_AGENT_MAP by SRC (R348). -/
  agents : SMap Agent := []
  /-- Channel buffers with waiting requests, by channel key, in order (R366). -/
  waitQ : SMap (List WaitReq) := []
  /-- Requests under way, by number (R327). -/
  txns : SMap Txn := []
  /-- Next transaction number. -/
  nextTxn : Nat := 1
  /-- Fences under way (R329). -/
  fences : List FenceR := []
  /-- Hearth requests refused with the header of the first per period (kind 8), kept per module in `viol`. -/
  tposeStalls : Nat := 0
  /-- Own peer ID, FL_PEER_ID (R374). -/
  peerId : Nat := 0
  /-- Peer table by entry 0 to 4095; 4096 holds frames of no known peer (R374, R595). -/
  peers : SMap Peer := []
  /-- Boot instance of this block, which increases at every block reset (R377). -/
  bootInst : Nat := 0
  /-- FL_LOSS_CNT: DARK, SESSION, RX, BYTES (R595). -/
  lossDark : Nat := 0
  lossSess : Nat := 0
  lossRx : Nat := 0
  lossBytes : Nat := 0
  /-- Bytes sent and discarded on the flue, by egress group (R342). -/
  egSent : SMap Nat := []
  egDisc : SMap Nat := []
  /-- FL_MARK_STAT.LOST and GOOD (R373). -/
  markLost : Bool := true
  markGood : Nat := 0
  /-- HED_STAT.MASK_WAIT: mask reads that waited for an evaluator (R252, R608); a wait is timing, so the model makes none (log entry 88). -/
  hedMaskWait : Nat := 0
  /-- HED_STAT.MASK_BYTES (R608). -/
  maskBytes : Nat := 0
deriving DecidableEq, Repr

end Sys2Proof.Machine
end

