-- ==== Sys2Proof/Machine/StObs.lean ====
section
/-! DEFINITION. State of observation (R539 to R557) and of faults, in-field test and recovery (R558 to R586). -/

namespace Sys2Proof.Machine

/-- A soot record before it is laid out in 32 bytes (R548). -/
structure SootRec where
  /-- Aligned time of the event. -/
  time : W64
  /-- Type (R549). -/
  type : Nat
  /-- Block event: partition 0 and class 0, taken by every partition filter. -/
  block : Bool
  /-- Low four bits of OBS_TIME_STAT.EPOCH. -/
  epoch : Nat
  part : Nat
  cls : Nat
  /-- The 16 payload bytes, little-endian. -/
  payload : BitVec 128
deriving DecidableEq, Repr

/-- Who configured an item of the observation block last (R539). -/
inductive Owner where
  | none | mgmt
  | part (p : Nat)
deriving DecidableEq, Repr

/-- A soot ring (R547 to R552). -/
structure SootRing where
  /-- OBS_SOOT_CFG; PART_ANY is 1 at reset (R600). -/
  cfg : W64 := 0x0000040000000000
  /-- OBS_SOOT_WR: records written (R550). -/
  wr : Nat := 0
  /-- OBS_SOOT_RD (R552). -/
  rd : Nat := 0
  /-- Records lost and not yet reported by a LOSS record (R550). -/
  lostNow : Nat := 0
  /-- OBS_SOOT_STAT.LOST (R550). -/
  lost : Nat := 0
  /-- OBS_SOOT_STAT.CFG_REFUSED, DRAIN_STALL (R547, R552). -/
  cfgRefused : Bool := false
  stall : Bool := false
  /-- OBS_SOOT_DRAIN words 0 and 1 (R600): SIZE 12, WATERMARK 1, TIMER 100 at reset. -/
  drain0 : W64 := 0x00640001000C0000
  drain1 : W64 := 0
  /-- Total of records drained, which the trailer holds (R552). -/
  drained : Nat := 0
  /-- A drain is requested by NOW (R552). -/
  now : Bool := false
  /-- Its owner field (R539). -/
  owner : Owner := .none
deriving DecidableEq, Repr

/-- A programmable counter (R542). -/
structure Pmc where
  /-- OBS_PMC_CFG: PART_ANY 1, CLASSES 0xF, UNIT_ANY 1 at reset (R600). -/
  cfg : W64 := 0x0000000400F40000
  /-- OBS_PMC_VAL. -/
  val : Nat := 0
  /-- Its owner field (R539). -/
  owner : Owner := .none
deriving DecidableEq, Repr

/-- A breakpoint (R555). -/
structure Brk where
  /-- OBS_BRK_CFG word 0: PROG_ANY, PART_ANY, EPOCH_ANY 1 and COUNT 1 at reset (R600). -/
  cfg : W64 := 0x0001000018010000
  /-- OBS_BRK_CFG word 1: EPOCH. -/
  epoch : W32 := 0
  /-- The written hit count, reloaded by TRACE (R555). -/
  count : Nat := 1
  /-- Firing suspended at it, by firing number; OBS_BRK_CTL.SUSPENDED (R556). -/
  held : Option Nat := none
  /-- Its owner field (R539). -/
  owner : Owner := .none
deriving DecidableEq, Repr

/-- An observed queue (R541). -/
structure QObs where
  max : Nat := 0
  sum : Nat := 0
deriving DecidableEq, Repr

/-- An edge of the wait-for graph (R554). -/
structure WfgEdge where
  waiter : Nat
  holder : Nat
  reason : Nat
  flags : Nat
  age : Nat
deriving DecidableEq, Repr

/-- Observation (R539 to R557). -/
structure Obs where
  /-- OBS_TIME_OFS, signed (R545). -/
  ofs : W64 := 0
  /-- OBS_TIME_SET.VALUE and MARK as loaded by the last accepted ARM, while armed (R545). -/
  armed : Option (W64 × W64) := none
  /-- OBS_TIME_STAT.EPOCH, ARM_LATE, SLIP, LOCKED (R545, R546). -/
  epoch : Nat := 0
  armLate : Bool := false
  slip : Bool := false
  locked : Bool := false
  /-- Discipline after a load: V and M (R546). -/
  disc : Option (W64 × W64) := none
  /-- Consecutive pulses within 4 ns (R546). -/
  good : Nat := 0
  /-- Slew in force until the next pulse: -1, 0 or 1 steps of 2 ns per µs (R546). -/
  slew : Int := 0
  /-- OBS_MARK_CNT, OBS_MARK_GTC (R543). -/
  markCnt : W64 := 0
  markGtc : W64 := 0
  /-- Programmable counters 0 to 15, and OBS_PMC_CTL.RUNNING (R542). -/
  pmc : SMap Pmc := []
  running : Bool := true
  /-- Soot rings 0 to 15 (R547). -/
  rings : SMap SootRing := []
  /-- The shared queue of soot records, with their ring, at most 64 (R550). -/
  sootQ : List (Nat × SootRec) := []
  /-- Breakpoints 0 to 7 (R555). -/
  brk : SMap Brk := []
  /-- Observed queues by key (R541). -/
  queues : SMap QObs := []
  /-- OBS_WFG_STAT and the graph (R553, R554). -/
  wfgDone : Bool := false
  wfgBuilding : Bool := false
  wfgTrunc : Bool := false
  wfgCycles : Nat := 0
  wfgWalk : Nat := 0
  wfgEdges : List WfgEdge := []
  /-- Edges that the first walk of a build found (R553). -/
  wfgFirst : List WfgEdge := []
  /-- OBS_SNAP.DONE per requester key (R343, R590). -/
  snapDone : List Nat := []
deriving DecidableEq, Repr

/-- Classes of events (R558). -/
inductive FClass where
  | info | corrected | data | block | stack
deriving DecidableEq, Repr

/-- An event on its way to the fireback (R559, R562). All-ones where the event does not concern a field. -/
structure FEvent where
  /-- Event code (R564). -/
  code : Nat
  cls : FClass
  /-- FAULT_N causes it sets (R490 bits). -/
  causes : Nat
  /-- ALERT_N causes it sets (R601 bits). -/
  alerts : Nat
  part : Option Nat
  die : Nat
  pos : Nat
  pair : Nat
  module : Nat
  peer : Nat
  rule : Nat
  gtc : Nat
  addr : Nat
  detA : Nat
  detB : Nat
  /-- It changes a history state and is never suppressed (R560). -/
  keep : Bool
deriving DecidableEq, Repr

/-- A fault record as built (R561, R562): the event with what the fireback adds. -/
structure FRec where
  ev : FEvent
  id : Nat
  rung : Nat
  /-- FB_FAULT.CAUSE and FB_ALERT.CAUSE after the event. -/
  faultCause : Nat
  alertCause : Nat
  /-- Calendar value and FB_CAL_STAT.VALID at the event (R561). -/
  cal : Nat
  calValid : Bool
  suppressed : Nat
deriving DecidableEq, Repr

/-- History state of a pair (R571). -/
inductive HistS where
  | active | watch | spareDue | retired | spare | spareUnusable | exhausted
deriving DecidableEq, Repr

/-- Pair history entry (R571). -/
structure PairHist where
  st : HistS := .active
  hard : Nat := 0
  ceTotal : Nat := 0
  ueTotal : Nat := 0
  /-- Soft correctable results per hour of the calendar, buckets 0 to 23. -/
  hours : SMap Nat := []
  /-- Hard list: address bits [21:0] and the uncorrectable bit 22, first 16. -/
  hardList : List Nat := []
  /-- Hard granules that were uncorrectable (R573). -/
  hardUe : Nat := 0
deriving DecidableEq, Repr

/-- Tile history entry (R571). -/
structure TileHist where
  /-- 0 OK, 1 TEST_DUE, 2 FAILED. -/
  st : Nat := 0
  mask : Nat := 0
  /-- Calendar times of the hob halts of the last 24 h (R571, R573). -/
  halts : List Nat := []
  haltTotal : Nat := 0
  wdTotal : Nat := 0
  ceTotal : Nat := 0
  lastPass : Nat := 0
  passed : Nat := 0
  failed : Nat := 0
deriving DecidableEq, Repr

/-- A tile test in progress (R577). -/
structure ScanT where
  die : Nat
  pair : Nat
  /-- Logical position served, if any. -/
  pos : Option Nat
  /-- 0 waiting for patterns, 1 patterns ready and waiting for the firing, 2 segments running. -/
  phase : Nat
  segs : Nat
  /-- The deferral bound has passed: no firing over the tile is selected (R145). -/
  bound : Bool := false
  /-- Retained state of the tile saved over the weft bus (R577 step 3): HOB_ERR.CE, HALTS and FIRINGS. -/
  saved : Nat × Nat × Nat := (0, 0, 0)
deriving DecidableEq, Repr

/-- A fault log slot (R566, R567). -/
structure LogSlot where
  fr : FRec
  committed : Bool
deriving DecidableEq, Repr

/-- Rate window of an event code and unit (R560). -/
structure RateW where
  /-- Calendar time at which the window began. -/
  start : Nat
  suppressed : Nat
deriving DecidableEq, Repr

/-- A word of a control structure in base SRAM or staging SRAM (R312): the creel cache line of a spool, a damper table entry, a
partition table entry, a word of a stoker's memories, a step context, a region of the stokers' table copy, a sampler context. -/
inductive CtlWord where
  | creel (spool : Nat)
  | damper (part : Nat)
  | partition (part : Nat)
  | stoker (core : Nat)
  | stepCtx (ctx : Nat)
  | region (rgn : Nat)
  | sampler (ctx : Nat)
deriving DecidableEq, Repr

/-- Fault log, history, in-field test and ladder (R558 to R586). -/
structure Flt where
  /-- Words of control structures that hold an uncorrectable error (R312). -/
  ctl : List CtlWord := []
  /-- Such an error has been met: the block accepts no further request until the block reset (R313). -/
  ctlStop : Bool := false
  /-- Report channels, by subsystem number, 64 events each (R559). -/
  chans : SMap (List FEvent) := []
  /-- Events lost per channel and not yet reported in a record (R559). -/
  chanLost : SMap Nat := []
  /-- FLT_LOG_STAT.CHAN_LOST (R559). -/
  lost : Nat := 0
  /-- Rate windows by code × 2^20 + unit (R560). -/
  rate : SMap RateW := []
  /-- The recent-record list, newest first, at most 256 (R565). -/
  recent : List FRec := []
  /-- FLT_LOG_STAT.NEWEST and COMMITTED (R565). -/
  newest : Nat := 0
  committed : Nat := 0
  /-- Sequence of the next record (R563). -/
  seq : Nat := 1
  /-- Records waiting for flash, oldest first (R567, R568). -/
  commitQ : List FRec := []
  /-- The flash log by slot, and the next slot (R566, R567). -/
  log : SMap LogSlot := []
  logPos : Nat := 0
  /-- FALLBACK, FLASH_OK, FLASH of FLT_LOG_STAT (R568, R569). -/
  fallback : Bool := false
  flashOk : Bool := true
  flash : Nat := 0
  /-- The register ring, entries 0 to 63 (R568): the record summarised. -/
  ring : SMap FRec := []
  ringNext : Nat := 1
  overwritten : Nat := 0
  /-- History by die × 34 + physical pair, in fireback SRAM (R571). -/
  pairs : SMap PairHist := []
  tiles : SMap TileHist := []
  /-- History copies in flash: sequence, pairs, tiles (R566, R574). -/
  histSeq : Nat := 0
  histPairs : SMap PairHist := []
  histTiles : SMap TileHist := []
  /-- A history write waits for flash (R574). -/
  histDue : Bool := false
  /-- FLT_SCAN_STAT.NOT_RUN and LAST_US (R576). -/
  notRun : Nat := 0
  lastUs : Nat := 0
  /-- Next tile of the test order (R575). -/
  scanNext : Nat := 0
  /-- Tiles due out of turn, die × 34 + physical pair (R575). -/
  scanDue : List Nat := []
  /-- The test in progress (R577). -/
  scan : Option ScanT := none
  /-- The tile patterns of the next test are read and verified before it falls due (R576). -/
  patReady : Bool := false
  /-- POWER_CYCLE_REQ and the rungs taken since cold reset (R583, R601). -/
  powerCycle : Bool := false
  rung2 : Nat := 0
  rung3 : Nat := 0
  rung4 : Nat := 0
  /-- Calendar times of the automatic block resets (R584). -/
  autoResets : List Nat := []
  /-- Rung 4 has halted the block (R583). -/
  halted : Bool := false
  /-- FAULT_N causes of the event that led to the halt (R583). -/
  haltCauses : Nat := 0
deriving DecidableEq, Repr

end Sys2Proof.Machine
end

