-- ==== Sys2Proof/Machine/StSys.lean ====
section
/-! DEFINITION. State of the fireback, the clocks and power states, boot and its flash, and the management and test
ports (R468 to R538, R615 to R629). -/

namespace Sys2Proof.Machine

/-- Mailbox states (R473), in the order of FB_MBOX_STAT.STATE. -/
inductive MbSt where
  | idle | pending | evaluating | running | done
deriving DecidableEq, Repr

/-- A command mailbox (R473 to R478). -/
structure Mbox where
  /-- Bytes 0x00 to 0xEF as written (R473). -/
  bytes : SMap Byte := []
  /-- The copy that GO took (R475). -/
  copy : List Byte := []
  st : MbSt := .idle
  /-- STATUS, DETAIL, COUNTER, IGNORED (R601). -/
  status : Nat := 0
  detail : Nat := 0
  counter : Nat := 0
  ignored : Nat := 0
  /-- Calendar-free times, in µs since cold reset, of BAD_TAG results within the last second (R478). -/
  badTags : List Nat := []
  /-- Locked out (R478). -/
  locked : Bool := false
  /-- Check 5 has passed for the command under way, and its opcode (R480). -/
  counted : Bool := false
  opcode : Nat := 0
deriving DecidableEq, Repr

/-- A version override (R533): triple and expiry day. -/
structure Override where
  fw : Nat
  lib : Nat
  release : Nat
  expiry : Nat
deriving DecidableEq, Repr

/-- An RWF value the fireback has accepted: offset, mask, value (R507). -/
structure RwfEntry where
  off : Nat
  mask : W64
  val : W64
deriving DecidableEq, Repr

/-- The fireback (R468 to R492). -/
structure Fireback where
  /-- Mailbox n: 0 the management port's, p + 1 of partition p (R601). -/
  mbox : SMap Mbox := []
  /-- Partition mailbox served last (R475). -/
  lastMbox : Nat := 0
  /-- FB_CMD_CTR, FB_CMD_RESV and the previous reservation (R476, R477). -/
  ctr : Nat := 0
  resv : Nat := 0
  resvPrev : Nat := 0
  /-- A reservation write is under way: its value (R477). -/
  resvWrite : Option Nat := none
  /-- FB_CMD_STAT.RESV_FAIL (R477). -/
  resvFail : Bool := false
  /-- Command keys of slots 0 and 1, key-encryption key, image verification key digest (R471); none: no key held. -/
  key0 : Option (BitVec 256) := none
  key1 : Option (BitVec 256) := none
  kek : Option (BitVec 256) := none
  imgDigest : Option (BitVec 256) := none
  /-- Partition keys that the image provisions or PKEY_SET sets; any other is derived (R471, R472). -/
  pkeys : SMap W64 := []
  /-- The calendar, microseconds since 2000-01-01 00:00:00 (R482, R484). -/
  cal : Nat := 0
  /-- FB_CAL_STAT.VALID, END, BAD_SET (R482 to R485). -/
  calValid : Bool := false
  calEnd : Bool := false
  calBad : Bool := false
  /-- Microseconds of trimmed FOSC since cold reset, which time the lockouts and rate windows (R478, R560). -/
  uptime : Nat := 0
  /-- Governor limit G, in half watts (R486). -/
  gov : Nat := 280
  /-- GOV_LIMIT value in half watts; 0 for none (R488). -/
  govExt : Nat := 0
  /-- FB_GOV_T.T: the last reading taken, signed, 1/16 °C (R486). -/
  temp : Int := 0
  /-- Base-die sensor (R486, R622). No command of the table brings a reading of it, so that it keeps the value of the state the model
starts from (log entry 47). -/
  baseTemp : Int := 0
  /-- THERMAL_CRIT steps are in progress; a record was written at the first (R486). -/
  inCrit : Bool := false
  /-- Thermal hold, and the governor steps it has lasted (R487, R584). -/
  hold : Bool := false
  holdSteps : Nat := 0
  /-- FB_FAULT.CAUSE, 9 bits (R490). -/
  faultCause : Nat := 0
  /-- FB_ALERT.CAUSE, 8 bits (R601). -/
  alertCause : Nat := 0
  /-- Version overrides held (R533). -/
  overrides : List Override := []
  /-- The security floor of the fireback store (R517). -/
  secFloor : Nat := 0
  /-- The cold-boot count of the fireback store (R563). -/
  coldBoots : Nat := 0
  /-- Accepted RWF values since cold reset, oldest first (R507). -/
  accepted : List RwfEntry := []
  /-- The self-check has passed and the persisted state is loaded (R470, R489). -/
  ready : Bool := false
  /-- The lockstep cores have halted (R490). -/
  lockstep : Bool := false
  /-- What the boot flash persists for the fireback (R470): counter reservation, keys, overrides, floor, boot count. -/
  flResv : Nat := 0
  flKey0 : Option (BitVec 256) := none
  flKey1 : Option (BitVec 256) := none
  flKek : Option (BitVec 256) := none
  flDigest : Option (BitVec 256) := none
  flOverrides : List Override := []
  flFloor : Nat := 0
  flBoots : Nat := 0
deriving DecidableEq, Repr

/-- Power states (R509), in the order of CLK_PSTATE.STATE. -/
inductive PwrSt where
  | service | retainEntry | retain | retainExit
deriving DecidableEq, Repr

/-- Clocks, power-good inputs and power states (R493 to R511). -/
structure Clk where
  /-- OBS_GTC: the global time counter, ns (R502). -/
  gtc : W64 := 0
  /-- CLK_STAT.REF_READY, ROOT_READY, COAST, HP_LOCK, FL_LOCK, FOSC_FAULT (R598). -/
  refReady : Bool := false
  rootReady : Bool := false
  coast : Bool := false
  hpLock : Bool := false
  flLock : Bool := false
  foscFault : Bool := false
  /-- SW_REFUSED (R500). -/
  swRefused : Nat := 0
  /-- PS_REFUSED (R509). -/
  psRefused : Bool := false
  /-- Consecutive good windows, up to 16, and consecutive bad windows (R496, R497). -/
  goodWin : Nat := 0
  badWin : Nat := 0
  /-- The first trim has ended (R496, R501). -/
  trimmed : Bool := false
  /-- Fireback clock in use: FOSC or MCLK ÷ 2 (R500). -/
  fbMclk : Bool := false
  /-- CLK_FOSC.REF_ACTIVE, TRIM, and the counts of the last windows for RATIO (R501). -/
  refActive : Nat := 3
  trim : Nat := 256
  counts : List Nat := []
  ratio : Nat := 0xC3500000
  /-- CLK_PSTATE.STATE (R509). -/
  pst : PwrSt := .service
  /-- A write of RETAIN waits for SERVICE (R598). -/
  reqLater : Bool := false
  /-- Power-good inputs (R508): PG_FB, PG_BASE, PG_IO and PG_TILE[15:0] as a mask. -/
  pgFb : Bool := false
  pgBase : Bool := false
  pgIo : Bool := false
  pgTile : Nat := 0
  /-- Dies whose PG_TILE fell since the block last entered SERVICE (R620). -/
  fellTile : Nat := 0
  /-- COLD_RST_N is low (R506). -/
  coldLow : Bool := true
  /-- Straps sampled at release: MG_ADDR and TEST_MODE (R615, R629). -/
  mgAddr : Nat := 0
  testMode : Bool := false
deriving DecidableEq, Repr

/-- Boot states (R523), in the order of BT_STATUS.STATE. -/
inductive BootSt where
  | clocks | stack | flash | read | check | load | arrays | tables | service
  | haltStack | haltFlash | haltImage | haltVersion
deriving DecidableEq, Repr

/-- Slot states (R520). -/
inductive SlotSt where
  | empty | valid | trial | bad
deriving DecidableEq, Repr

/-- One copy of the flash directory (R520). -/
structure FlashDir where
  good : Bool := false
  seq : Nat := 0
  prefB : Bool := false
  modeLimit : Nat := 0
  slotSize : Nat := 0x1000000
  stA : SlotSt := .empty
  stB : SlotSt := .empty
  attA : Bool := false
  attB : Bool := false
deriving DecidableEq, Repr

/-- Flash operations that wait or run (R514). -/
inductive FlashOp where
  | histWrite
  | dirWrite (d : FlashDir)
  | erase (slotB : Bool)
  | program (slotB : Bool) (off : Nat) (data : List Byte)
deriving DecidableEq, Repr

/-- Boot, flash and firmware (R512 to R538). -/
structure Boot where
  /-- BT_STATUS.STATE (R523). -/
  st : BootSt := .clocks
  /-- This boot follows a cold reset (R525). -/
  cold : Bool := true
  /-- GLB_STACK.DIES (R523). -/
  dies : Nat := 0
  /-- BT_STATUS SLOT, FALLBACK, OVERRIDDEN, REFUSAL (R599). -/
  slotB : Bool := false
  fallback : Bool := false
  overridden : Bool := false
  refusal : Nat := 0
  /-- BT_STATUS LIB_LOAD and LIB_FAIL (R599). -/
  libLoad : Nat := 0
  libFail : Nat := 0
  /-- The slot being tried, and the slots that failed in this boot (R521). -/
  trying : Bool := false
  failedA : Bool := false
  failedB : Bool := false
  verRefused : Bool := false
  /-- BT_IMAGE_ID, BT_SEC_FLOOR, GLB_FW_VER, GLB_LIB_VER (R599, R593). -/
  imageId : W64 := 0
  secFloorReg : Nat := 0
  fwVer : Nat := 0
  libVer : Nat := 0
  /-- The running library comes from the slot other than the booted one (R522, R536). -/
  libOther : Bool := false
  /-- The signed part as placed in staging by the reading (R518). -/
  signed : List Byte := []
  /-- The decoded configuration of the image being loaded and the one in force before (R525). -/
  cfg : ImgCfg := {}
  prevRegions : SMap Region := []
  /-- What the sections of the image that passed CHECK say (R516). -/
  img : ImageIn := {}
  /-- This boot follows a block reset that asked for the scan of R580. -/
  hubScan : Bool := false
  /-- BT_FLASH_STAT STATE and CMD (R599). -/
  flSt : Nat := 0
  flCmd : Nat := 0
  /-- Flash directory copies (R520). -/
  dir0 : FlashDir := {}
  dir1 : FlashDir := {}
  /-- Bytes of slots A and B; unlisted bytes are erased, 0xFF. -/
  slotAData : List Host.Cell := []
  slotBData : List Host.Cell := []
  /-- The device answers the probe (R513). -/
  flashOk : Bool := true
  /-- The flash operation running, and those waiting in arrival order (R514). -/
  op : Option FlashOp := none
  opQ : List FlashOp := []
deriving DecidableEq, Repr

/-- Management port (R626, R627) and TAP (R628, R629). -/
structure Mgmt where
  /-- Dynamic address; none until one is assigned (R626). -/
  dyn : Option Nat := none
  /-- In-band interrupts enabled (R626). -/
  ibi : Bool := false
  /-- In-band interrupt pending with its byte (R626). -/
  ibiPend : Option Nat := none
  /-- ALERT_N as last driven: true is low (R491). -/
  alertLow : Bool := false
  /-- Bytes that the port last returned (R627). -/
  out : List Byte := []
  /-- Status of the last write (R627). -/
  status : Nat := 0
  /-- TAP instruction selected: 0 BYPASS, 1 IDCODE, 2 SAMPLE/PRELOAD (R629). -/
  tapIr : Nat := 1
  /-- What the TAP's selected data register captured (R628). -/
  tapDr : Nat := 0
  /-- Boundary register preload (R629). -/
  boundary : Nat := 0
deriving DecidableEq, Repr

end Sys2Proof.Machine

namespace Sys2Proof.Config

/-- The ROM table of tested triples of the release (R531): release, firmware and library version (log entry 79). -/
opaque romTested : List (Nat × Nat × Nat)

end Sys2Proof.Config
end

