-- ==== Sys2Proof/Machine/StHob.lean ====
section
/-! DEFINITION. State of the hobs, firings, spools and picks (R65 to R148, R420 to R444, R605). -/

namespace Sys2Proof.Machine

/-! ### Hobs -/

/-- Launch parameters of a hob (R88, R89, R91, R102, R103). -/
structure LaunchP where
  rank : Nat := 0
  /-- Operand bases OB0 to OB7, and the end of each operand's slice or half slice; 0 where the pick defines none. -/
  ob : List Nat := []
  obEnd : List Nat := []
  /-- Index base IX. -/
  ix : Nat := 0
  epoch : Nat := 0
  col : Nat := 0
  row : Nat := 0
  nPer : Nat := 0
  /-- Broadcast segment size in bytes. -/
  bseg : Nat := 0
deriving DecidableEq, Repr

/-- What a hob is doing: idle, executing, waiting at a checkpoint where it stopped, waiting at a replay gate (R406), or
ended. -/
inductive HobSt where
  | idle | run | stopped | gated | ended
deriving DecidableEq, Repr

/-- Words of a hob's storage that hold an error which SEC-DED corrects: vector and scalar registers, words of the hob store,
instructions (R72). -/
structure HobSoft where
  vr : List Nat := []
  sr : List Nat := []
  st : List Nat := []
  im : List Nat := []
deriving DecidableEq, Repr

/-- One hob (R65, R72, R74, R605), by its logical number. -/
structure Hob where
  /-- V0 to V31 with their poison bits. -/
  vr : SMap Datum := []
  /-- S0 to S15. -/
  sr : SMap W32 := []
  /-- L0 to L3. -/
  loops : SMap W32 := []
  /-- Condition flags Z, N, C, V, A, E from bit 0 (R121). -/
  flags : Nat := 0
  /-- Sticky flags (R108). -/
  sticky : W32 := 0
  /-- Predicate mask (R120). -/
  pred : W64 := BitVec.allOnes 64
  /-- Rounding and format control; SAT is 1 at reset (R99). -/
  ctl : W32 := 0x4
  /-- Program counter, in instructions. -/
  pc : Nat := 0
  /-- Number of the last checkpoint reached (R123). -/
  ckpt : Nat := 0
  /-- Checkpoints passed since launch, which counts as checkpoint 0 (R406). -/
  passed : Nat := 0
  /-- Hob store by 32-byte word, with poison bits (R72, R73). -/
  store : SMap Datum := []
  /-- Free values from which hob-store words not listed hold their contents (the model's own; R73, R510; log entry 57). -/
  scr : Nat := 0
  /-- Instruction memory (R65). -/
  imem : List W64 := []
  /-- Launch parameters (R88). -/
  lp : LaunchP := {}
  st : HobSt := .idle
  /-- Scalar registers, instruction words, vector registers and hob-store words that are uncorrectable under SEC-DED (R72). -/
  srUe : List Nat := []
  imemUe : List Nat := []
  vrUe : List Nat := []
  stUe : List Nat := []
  /-- Words that SEC-DED corrects (R72). -/
  soft : HobSoft := {}
  /-- HOB_ERR.CE and HALTS (R605). -/
  ce : Nat := 0
  halts : Nat := 0
  /-- HOB_RUN.END: 0 none, then the statuses of R110 from 1; and FIRINGS (R605). -/
  endSt : Nat := 0
  firings : Nat := 0
  /-- Digest of the stores to digested operands, and granules stored (R407). -/
  digest : BitVec 128 := 0
  stored : Nat := 0
deriving DecidableEq, Repr

/-- End statuses of R110, as HOB_RUN.END numbers them. -/
def hobDone : Nat := 1
def hobBounds : Nat := 2
def hobPoisonScalar : Nat := 3
def hobStateError : Nat := 4
def hobImemError : Nat := 5

/-! ### Firings -/

/-- An operand word (R437). -/
structure OpWord where
  rgn : Nat := 0
  d : Nat := 0
  /-- Storage type in the row order of R149 from 0, or 15 for raw bytes. -/
  type : Nat := 15
  used : Bool := false
deriving DecidableEq, Repr

/-- The fields of a FIRE pick (R127, R437). -/
structure FireF where
  prog : Nat := 0
  update : Bool := false
  tapTwin : Bool := false
  tapFan : Bool := false
  tapSmoke : Bool := false
  /-- Reduction mode: 0 NONE, 1 COL, 2 ROW, 3 ALL (R82). -/
  mode : Nat := 0
  c0 : Nat := 0
  c1 : Nat := 0
  r0 : Nat := 0
  r1 : Nat := 0
  epoch : Nat := 0
  nPer : Nat := 0
  origin : Nat := 0
  /-- Broadcast source address and size in 4 KiB steps. -/
  bsrc : Nat := 0
  bsize : Nat := 0
  /-- Reduction output address and length. -/
  out : Nat := 0
  outLen : Nat := 0
  /-- Tapped operands of twin, fan-out and smoke. -/
  opTwin : Nat := 0
  opFan : Nat := 0
  opSmoke : Nat := 0
  ctx : Nat := 0
  ops : List OpWord := []
deriving DecidableEq, Repr

/-- Firing states (R131); a COMPLETE firing is removed. -/
inductive FirSt where
  | held | queued | launching | running | stopping | saving | suspended | restoring | ending
deriving DecidableEq, Repr

/-- Causes of a stop (R137). -/
inductive StopCause where
  | ember | slice | hobTime | test
  | brk (k : Nat)
deriving DecidableEq, Repr

/-- What the block keeps of a hob beside its context record while its firing is suspended: the checkpoints it has passed, and its
digest, which R74 does not save (R406, R407; the model's own, log entry 7). -/
structure CtxKeep where
  passed : Nat
  digest : BitVec 128
  stored : Nat
deriving DecidableEq, Repr

/-- A firing in any state before COMPLETE (R127 to R148). -/
structure Firing where
  f : FireF := {}
  /-- In-flight pick; none for a replay firing (R404). -/
  pick : Option Nat := none
  /-- Mirror record of a replay firing (R404). -/
  replay : Option Nat := none
  part : Nat := 0
  cls : Nat := 0
  spool : Nat := 0
  seq : Nat := 0
  st : FirSt := .queued
  /-- The program, as read from its stored copy (R129, R177). -/
  code : Prog := {}
  /-- Bytes 0x000 to 0x3FF of an update firing's broadcast segment, kept from its release (R159); a replay's come from
  the twin header (R404). -/
  seg : List Datum := []
  /-- Heddle key taken at the start strobe of the launch (R242). -/
  key : BitVec 128 := 0
  /-- It has been launched once: the next selection restores it (R131). -/
  launched : Bool := false
  /-- Hobs that have ended: number, end status, accumulated sticky flags, digest, granules stored (R134, R143, R407). -/
  ended : List (Nat × Nat × W32 × BitVec 128 × Nat) := []
  /-- The stopped hobs, whose context records are in its context slot (R74, R134). -/
  saved : List (Nat × CtxKeep) := []
  /-- The context slot that it holds, and whether it holds a reducer context (R134, R138). -/
  slot : Option Nat := none
  red : Bool := false
  /-- Partials pushed: rank, index of the group of eight elements, granule (R119). -/
  partials : List (Nat × Nat × Datum) := []
  /-- Stop causes standing (R137). -/
  causes : List StopCause := []
  /-- Suspended by ember preemption (R141). -/
  preempted : Bool := false
  /-- Breakpoints whose phase point it has reached (R555), and the one it is held at (R556). -/
  brkSeen : List Nat := []
  brkHeld : Option Nat := none
  suspensions : Nat := 0
  /-- Hob time charged, hob-ns (R459), and the part of it in the current 1 µs interval not yet posted. -/
  hobTime : Nat := 0
  /-- Partition that the stop, save and restore are charged to, where it is another's (R459). -/
  payer : Option Nat := none
  /-- The quantum has expired and not been renewed (R142). -/
  slice : Bool := false
  /-- Status with which it ends, where it is not DONE or HOB_FAULT (R143). -/
  status : Option Nat := none
  /-- Sticky flags of its hobs that were halted before their end (R108, R143). -/
  halted : W32 := 0
  /-- Granules that the twin tap handed over (R400). -/
  tapCount : Nat := 0
  /-- 64-byte parts of a program or a broadcast segment that the weft bus could not carry to a hob: hob, of the segment, part
  (R306). -/
  badUnits : List (Nat × Bool × Nat) := []
  /-- 64-byte parts of a context record in transfer that the weft bus could not carry: hob, part (R136, R306). -/
  badCtx : List (Nat × Nat) := []
  /-- It was suspended for a test or a switchover of a tile, which has not run since (R145, R318). -/
  testWait : Bool := false
  /-- The owner record that becomes DIVERGED at its start strobe (R399). -/
  diverge : Option Nat := none
  /-- The owner record that mirrors it (R399). -/
  mirror : Option Nat := none
  /-- The block launches it to fill a region of a partition in re-initialisation: it has no pick (R465 step 8). -/
  fill : Bool := false
deriving DecidableEq, Repr

/-- Firings of the block. -/
structure Fir where
  /-- By admission number: the lower was admitted first (R141). -/
  all : SMap Firing := []
  next : Nat := 0
  /-- The firing that holds the hobs. -/
  cur : Option Nat := none
  /-- Partition that last ran in each class (R141). -/
  turn : SMap Nat := []
  /-- Hobs by logical number. -/
  hobs : SMap Hob := []
  /-- Free values that the hob stores of hobs not listed hold (the model's own, log entry 57). -/
  scrBase : Nat := 0
  /-- Programs registered (R177). -/
  progs : List Prog := []
  /-- Context slots of the image (R51, R605). -/
  slots : Nat := 64
  /-- Requesters whose hob register access under way the weft bus could not carry: its completion is an error (R306). -/
  weftLost : List Nat := []
deriving DecidableEq, Repr

/-! ### Spools and picks -/

/-- Spool states (R423). -/
inductive SplSt where
  | disabled | active | halted
deriving DecidableEq, Repr

/-- A creel entry (R423), with what the engine keeps beside it. -/
structure Spool where
  st : SplSt := .disabled
  cls : Nat := 0
  owner : Nat := 0
  /-- log2 of the ring sizes. -/
  pickLog : Nat := 0
  recLog : Nat := 4
  /-- Record target is DIE, and the agent that receives BWRs. -/
  die : Bool := false
  src : Nat := 0
  ring : Nat := 0
  cq : Nat := 0
  tail : Nat := 0
  head : Nat := 0
  retired : Nat := 0
  written : Nat := 0
  consumed : Nat := 0
  /-- Abort pending: sequence number (R423). -/
  abort : Option Nat := none
  haltCause : Nat := 0
  /-- Sequence numbers complete beyond the retired prefix (R423). -/
  doneSeqs : List Nat := []
  /-- Records that wait for RESUME, laid out but for their phase (R443). -/
  waitRec : List (List Byte) := []
  /-- Tags of the picks read, by ring position (R442). -/
  tags : SMap Nat := []
deriving DecidableEq, Repr

/-- How far a pick in flight has come (R431, R442). -/
inductive PickSt where
  /-- Fetched; it waits to start. -/
  | fetched
  /-- Started and not complete. -/
  | started
  /-- Complete, its record not yet written: status, reason, result bytes. -/
  | done (status reason : Nat) (result : List Byte)
deriving DecidableEq, Repr

/-- A pick in flight (R428 to R431). -/
structure PickR where
  spool : Nat
  seq : Nat
  part : Nat
  cls : Nat
  opc : Nat
  order : Bool
  alert : Bool
  tag : Nat
  /-- Its 128 bytes. -/
  bytes : List Byte
  st : PickSt
  /-- An abort of it has been accepted: the status of its record, which follows the pick's (R442). -/
  abortSt : Option Nat := none
  /-- Retired count after its completion (R432). -/
  ret : Nat := 0
deriving DecidableEq, Repr

/-- A doorbell that waits for its spool's creel entry (R424). -/
structure SplDb where
  part : Nat
  spool : Nat
  kind : Nat
  val : Nat
deriving DecidableEq, Repr

/-- Spool engine (R420 to R444). -/
structure Spl where
  /-- The creel (R423); an entry not listed is DISABLED with every counter zero. -/
  creel : SMap Spool := []
  /-- Cached spools, least recently used first (R424). -/
  cache : List Nat := []
  /-- Doorbells waiting for an entry, in order (R424). -/
  dbs : List SplDb := []
  /-- Picks in flight, and the next number. -/
  picks : SMap PickR := []
  next : Nat := 0
  /-- Last spool served per class (R430). -/
  turn : SMap Nat := []
  /-- SPL_STAT_GLB.MISSES, CACHE_WAIT (R609). -/
  misses : Nat := 0
  cacheWait : Nat := 0
  /-- Picks complete whose record is not written, in the order they completed (R433). -/
  doneQ : List Nat := []
deriving DecidableEq, Repr

end Sys2Proof.Machine
end

