-- ==== Sys2Proof/Machine/StWork.lean ====
section
/-! DEFINITION. State of the step engine, transposed reads, the sampler, and the flue streams (R179 to R213, R230 to R237,
R259 to R266, R388 to R393, R397 to R419). -/

namespace Sys2Proof.Machine

/-! ### Step engine -/

/-- An accumulator region of a context (R179, R439). -/
structure StepRgn where
  rgn : Nat
  nPer : Nat
  origin : Nat
deriving DecidableEq, Repr

/-- States of an epoch (R196); NOT_OPEN epochs and epochs DONE long ago are not held. -/
inductive EpSt where
  | open | closed | deciding | updating | done
deriving DecidableEq, Repr

/-- One epoch of a context (R193 to R211). -/
structure Epoch where
  e : Nat
  st : EpSt := .open
  /-- Contributors whose fences are counted (R193). -/
  fences : List Nat := []
  /-- The close deadline runs (R193). -/
  deadline : Bool := false
  /-- Close cause once the condition is met: 1 COUNT, 2 DEADLINE, 3 FORCED (R195, R211). -/
  cause : Nat := 0
  /-- Global time at the close point (R211). -/
  gtc : Nat := 0
  /-- Own partial, own overflow flag, hobs with the flag (R198, R211). -/
  part : W64 := 0
  ovf : Bool := false
  ovfHobs : Nat := 0
  /-- The norm timeout has expired (R205). -/
  timedOut : Bool := false
  /-- Decision: 1 CLIP, 2 SKIP_OVERFLOW, 3 SKIP_TIMEOUT; 0 before it is taken (R205, R211). -/
  decision : Nat := 0
  cf : W32 := 0
  mul : W32 := 0
  /-- log2 of the loss scale S_e (R207). -/
  scale : Nat := 0
  /-- Update firings completed (R196). -/
  upd : Nat := 0
  /-- Update firings released, by firing number (R131, R171). -/
  released : List Nat := []
  /-- Statistics phases that committed with DONE or HOB_FAULT (R171). -/
  stats : List FireF := []
  /-- ACCWs that failed (R191). -/
  fails : Nat := 0
  /-- Ash records of this epoch stored, ACCWs of it dropped, and contributors of it drained into the next (R211). -/
  stored : Nat := 0
  dropped : Nat := 0
  drained : List Nat := []
  /-- Contributors whose fence came after the close (R193, R201). -/
  late : List Nat := []
  /-- Global time at which the norm timeout expires, ns (R203, R205). -/
  tEnd : Nat := 0
deriving DecidableEq, Repr

/-- An ash record held: its slot in the ash-bin area, where its 96 bytes stand, and what the ledger keeps of it (R199, R200). -/
structure AshRec where
  slot : Nat
  epoch : Nat
  contrib : Nat
deriving DecidableEq, Repr

/-- The books of one epoch that nothing else counts: fences received, repeated and refused, ACCWs accepted and applied, and
records dropped once stored (R212). -/
structure Book where
  recv : Nat := 0
  rep : Nat := 0
  ref : Nat := 0
  acc : Nat := 0
  app : Nat := 0
  gone : Nat := 0
deriving DecidableEq, Repr

/-- A drain under way: contributor, epoch drained, weight (R201). -/
structure Drain where
  contrib : Nat
  epoch : Nat
  w : W32
deriving DecidableEq, Repr

/-- A norm message slot (R204, R387). -/
structure NormSlot where
  epoch : Nat
  idx : Nat
  ovf : Bool
  part : W64
deriving DecidableEq, Repr

/-- A step context (R179). -/
structure StepCtx where
  owner : Nat := 0
  rgns : List StepRgn := []
  u : Nat := 1
  first : Nat := 0
  expect : Nat := 1
  /-- STP_CTX_DEADLINE.DEADLINE and STP_CTX_NORM.TIMEOUT in µs (R607). -/
  tcd : Nat := 2000
  tnt : Nat := 200
  group : Nat := 0
  n : Nat := 1
  own : Nat := 0
  q : Nat := 1
  /-- Clip threshold C (R179). -/
  clip : W32 := 0x7F800000
  dynamic : Bool := false
  sMin : Nat := 0
  sMax : Nat := 24
  g : Nat := 1
  /-- Ash policy is ADD_NEXT; quota; weight (R179). -/
  ashAdd : Bool := false
  quota : Nat := 0
  ashW : W32 := 0x3F800000
  /-- Step record ring: base, log2 of records, records written. -/
  ring : Nat := 0
  ringLog : Nat := 4
  recs : Nat := 0
  /-- Peer IDs of the owners (R439). -/
  peers : List Nat := []
  /-- Epochs held. -/
  eps : List Epoch := []
  /-- Open epoch, or the next to open (R607). -/
  openEpoch : Nat := 0
  isOpen : Bool := true
  /-- LAST_EPOCH (R211). -/
  last : Nat := 0
  /-- The next epoch to be decided (R205). -/
  dec : Nat := 0
  /-- A retag sweep runs for the half of this epoch (R197). -/
  retag : Option Nat := none
  /-- log2 of the loss scale of the next epoch to be decided, and the clean-epoch counter (R207). -/
  scaleNext : Nat := 0
  clean : Nat := 0
  /-- Ash bin (R199 to R202). -/
  ash : List AshRec := []
  drains : List Drain := []
  /-- Fences of closed epochs whose drain waits: contributor, epoch (R193, R201). -/
  drainWait : List (Nat × Nat) := []
  /-- Contributors and epochs whose every later ACCW is dropped on entry (R199). -/
  dropLater : List (Nat × Nat) := []
  /-- Message slots held (R204). -/
  slots : List NormSlot := []
  /-- STP_CTX counters: DUP_FENCE, ACC_FAIL, DISCARD, DROPPED (R607). -/
  dupFence : Nat := 0
  accFail : Nat := 0
  discard : Nat := 0
  dropped : Nat := 0
  /-- Heard set of LAST_EPOCH's decision (R209, R607). -/
  heard : List Nat := []
  /-- The ledger, by epoch (R212). -/
  books : SMap Book := []
  /-- Running sums of squares and overflow flags of the hobs, key hob × 2 + parity (R189). -/
  ss : SMap W32 := []
  ovf : List Nat := []
deriving DecidableEq, Repr

/-- An ACCW accepted and not yet applied (R184, R194). -/
structure AccReq where
  ctx : Nat
  epoch : Nat
  rgn : Nat
  /-- Place of its FP16 slot, in the half of its epoch's parity. -/
  die : Nat
  pos : Nat
  loc : Nat
  fmt : Nat
  contrib : Nat
  rtag : Nat
  data : List Datum
  /-- Parameter index of element 0 of the hob's slice (R186). -/
  pbase : Nat
  /-- Heddle key taken at acceptance (R242). -/
  key : BitVec 128
  /-- Weight and stream base: 0x0001, or 0x0003 in a drain (R186, R201). -/
  w : W32
  stream : Nat
  /-- Where it came from; none in a drain. -/
  from_ : Option (Bool × Nat × BitVec 256)
  chan : Nat
  part : Nat
deriving DecidableEq, Repr

/-- A contribution fence that waits to be counted (R194). -/
structure FenceReq where
  ctx : Nat
  epoch : Nat
  contrib : Nat
  flue : Bool
  module : Nat
  hdr : BitVec 256
  chan : Nat
  /-- ACCWs it waits for. -/
  wait : List Nat
  /-- Its completion is discarded (R365, R386). -/
  mute : Bool := false
deriving DecidableEq, Repr

/-- The step engine. -/
structure Step where
  ctxs : SMap StepCtx := []
  /-- Accepted ACCWs and waiting fences, by entry number. -/
  acc : SMap AccReq := []
  fences : SMap FenceReq := []
  next : Nat := 0
  /-- STP_NORM_STRAY (R607). -/
  stray : Nat := 0
deriving DecidableEq, Repr

/-! ### Transposed reads and the sampler -/

/-- A TREAD accepted (R230 to R237). -/
structure Tread where
  module : Nat
  hdr : BitVec 256
  cls : Nat
  part : Nat
  /-- It holds its room in the carve-out (R234). -/
  alloc : Bool := false
  /-- It has found no room, and is counted in HP_TPOSE_STAT.STALLS (R234). -/
  stalled : Bool := false
  /-- Transaction that reads its source, once allocated. -/
  txn : Nat := 0
  /-- Its completion is discarded (R365). -/
  mute : Bool := false
deriving DecidableEq, Repr

/-- A SAMPLE pick accepted (R260, R264). -/
structure SampleW where
  pick : Nat
  ctx : Nat
  cls : Nat
  part : Nat
  fmt : Nat
  src : Nat
  v : Nat
  t : W32
  k : Nat
  p : W32
  stream : Nat
  position : Nat
  epoch : Nat
  /-- Key taken at fetch (R242). -/
  key : BitVec 128
deriving DecidableEq, Repr

/-- The sampler (R259 to R266). -/
structure Sampler where
  /-- Picks that wait for their context or the sampler, in fetch order. -/
  wait : List SampleW := []
  /-- SAMPLE picks fetched: the status that the fetch found, and the fields and key that it took (R242, R260). -/
  fetched : SMap (Nat × SampleW) := []
  /-- Contexts that serve a pick: the pick, and the assignment in force (R259). -/
  serve : SMap (Nat × Option Nat) := []
  /-- The pick running, and how long it takes (R266). -/
  run : Option SampleW := none
  lastNs : Nat := 0
  picks : Nat := 0
  lastCtx : Nat := 0
deriving DecidableEq, Repr

/-! ### Streams -/

/-- A destination of a fan-out stream or a sink of a smoke stream (R388, R413, R436). -/
structure Dest where
  peer : Nat
  rx : Nat
  /-- The next FAN_OPEN to it carries the restart bit (R389). -/
  restart : Bool := true
  /-- It takes part in the epoch in progress; a lost session takes it out (R386, R388). -/
  inEpoch : Bool := false
deriving DecidableEq, Repr

/-- What a fan-out epoch waits for (R388 to R391). -/
inductive FanPh where
  | idle
  /-- Frames of the epoch are being sent as the tap copies. -/
  | sending
  /-- FAN_END is sent; the digest is awaited. -/
  | awaiting
  /-- Not speculative: the epoch's digest is awaited before anything is sent. -/
  | holding
  /-- Not speculative: the banks are being read (R391). -/
  | reading
deriving DecidableEq, Repr

/-- A fan-out stream (R388 to R391). -/
structure Fan where
  ctx : Nat := 0
  owner : Nat := 0
  dests : List Dest := []
  spec : Bool := false
  ph : FanPh := .idle
  epoch : Nat := 0
  /-- Its context's owner record was IN_STEP when the epoch began, so that a digest is awaited (R388, R391). -/
  digest : Bool := false
  /-- Slice bytes of the tapped operand, short format code, and class of the epoch's firing. -/
  slice : Nat := 0
  fmt : Nat := 0
  cls : Nat := 0
  /-- The firing's fields, for the bank reads of a non-speculative stream (R391). -/
  fire : FireF := {}
  /-- Granules written by the epoch's firing: hob, offset (R391). -/
  wrote : List (Nat × Nat) := []
  sent : Nat := 0
  /-- FL_FAN_STAT: last epoch sent, made final, recanted (R390). -/
  lastSent : Nat := 0
  lastFinal : Nat := 0
  lastRecant : Nat := 0
deriving DecidableEq, Repr

/-- Receive stream states (R392), in the order of FL_FANRX_STAT. -/
inductive RxSt where
  | idle | receiving | complete | final | recanted | incomplete
deriving DecidableEq, Repr

/-- A receive stream of fan-out or smoke (R392, R417). -/
structure Rx where
  src : Nat := 0
  rgn : Nat := 0
  half : Nat := 0
  owner : Nat := 0
  st : RxSt := .idle
  epoch : Nat := 0
  /-- Granules received; the count that the end frame gave, and its final bit, while granules are missing (R392). -/
  got : Nat := 0
  want : Option Nat := none
  wantFinal : Bool := false
  lastFinal : Nat := 0
  complete : Nat := 0
  validHalf : Nat := 0
  /-- The mark that ended a smoke epoch carried GAP (R414). -/
  gap : Bool := false
  /-- Bytes of a hob's slice, as FAN_OPEN or SMOKE_MARK gave the granules (R377, R379). -/
  slice : Nat := 0
deriving DecidableEq, Repr

/-- Mirror record states (R409), in the order of TWN_REC_STAT. -/
inductive TwSt where
  | unpaired | pairing | inStep | degraded | diverged | resync
deriving DecidableEq, Repr

/-- A TWIN_DIGEST slot (R400). -/
structure Digest where
  epoch : Nat
  status : Nat
  digest : BitVec 128
  stored : Nat
  count : Nat
  bad : Nat
deriving DecidableEq, Repr

/-- A mirror record (R397). -/
structure Twin where
  replay : Bool := false
  peer : Nat := 0
  partnerRec : Nat := 0
  owner : Nat := 0
  ctx : Nat := 0
  prog : Nat := 0
  c0 : Nat := 0
  c1 : Nat := 0
  r0 : Nat := 0
  r1 : Nat := 0
  origin : Nat := 0
  nPer : Nat := 0
  first : Nat := 0
  /-- Digested operands (R397). -/
  mask : Nat := 0
  hold : Bool := false
  ruleSrc : Nat := 0
  spool : Nat := 0
  gate : Nat := 2080
  ops : List OpWord := []
  st : TwSt := .unpaired
  /-- Pick that pairs or resyncs. -/
  pick : Option Nat := none
  /-- Next epoch to send a header for, or to replay (R404, R412). -/
  next : Nat := 0
  lastHdr : Nat := 0
  lastMatch : Nat := 0
  /-- The owner has sent a TWIN_HDR since the last match (R409). -/
  since : Bool := false
  unverified : Nat := 0
  /-- The owner's and the replay side's digests not yet compared (R408). -/
  own : List Digest := []
  other : List Digest := []
  /-- Epochs whose replay is not yet launched, each with its header's data (R404, R435). -/
  hdrs : List (Nat × List Datum) := []
  /-- Granules of the gradient operand received per rank: epoch, rank, offsets (R405). -/
  recv : List (Nat × Nat × Nat) := []
  /-- Granules the owner's digest counts, by epoch (R406). -/
  counted : List (Nat × Nat) := []
  /-- Resync: granules written at the receiver, the count that RESYNC_END carried and its epoch (R412). -/
  written : Nat := 0
  want : Option (Nat × Nat) := none
  /-- It is the source of the resync under way (R412). -/
  source : Bool := false
deriving DecidableEq, Repr

/-- A frame kept in the twin or smoke log: the record it belongs to, or the sink of its stream; its 64-byte slot of the log; and its
header. Its data granule is in the slot (R51, R403, R415). -/
structure LogEnt where
  who : Nat
  slot : Nat
  hdr : BitVec 256
deriving DecidableEq, Repr

/-- A smoke stream (R413 to R416). -/
structure Smoke where
  ctx : Nat := 0
  owner : Nat := 0
  sinks : List Dest := []
  d : Nat := 1
  /-- Log share in bytes, bytes used and the highest (R415). -/
  share : Nat := 0
  used : Nat := 0
  high : Nat := 0
  /-- Frames in the log, for the sinks. -/
  log : List LogEnt := []
  /-- An exported epoch is open, and it has a gap (R414, R415). -/
  active : Bool := false
  epoch : Nat := 0
  gap : Bool := false
  sent : Nat := 0
  slice : Nat := 0
  /-- SNAP: 0 none, 1 pending, 2 sending; its epoch and pick; the firings whose masters it reads, and the granules of them
  sent so far (R416). -/
  snap : Nat := 0
  snapEpoch : Nat := 0
  snapPick : Option Nat := none
  snapFires : List FireF := []
  snapPos : Nat := 0
  /-- LAST_COMPLETE, LAST_GAP, GAPS, GRANULES (R608). -/
  lastComplete : Nat := 0
  lastGap : Nat := 0
  gaps : Nat := 0
  granules : Nat := 0
deriving DecidableEq, Repr

/-- The flue streams and the twin. -/
structure Streams where
  fans : SMap Fan := []
  rxFan : SMap Rx := []
  rxSmoke : SMap Rx := []
  twins : SMap Twin := []
  smokes : SMap Smoke := []
  /-- Twin frames queued in the twin log: mirror record, frame (R403); bytes queued and the highest. -/
  twinLog : List LogEnt := []
  twinBytes : Nat := 0
  twinHigh : Nat := 0
  /-- Audit part of the twin log: record, epoch, header data, own and other digest (R403). -/
  audit : List (Nat × Nat × List Datum × Option Digest × Option Digest) := []
deriving DecidableEq, Repr

end Sys2Proof.Machine
end

