-- ==== Sys2Proof/Machine/State.lean ====
section
/-! DEFINITION. The state of the block, its reset value, and the reasons a step can stop. -/

namespace Sys2Proof.Machine

/-- Why a step faults. No meaning of this model faults: every command of the table has an effect that the manual
gives, in every state. Safe: the constructor is never raised. -/
inductive Fault where
  | never
deriving DecidableEq, Repr

/-- Why a command is refused. -/
inductive Refusal where
  /-- Raised by a dispatch arm whose command has no meaning yet. Safe: nothing is said of the command. -/
  | notModelled (mnemonic : String)
deriving DecidableEq, Repr

/-- The block. Default field values are the values at cold reset, with COLD_RST_N low and nothing powered. -/
structure State where
  /-- The commands that are waiting, first in, first out (the model's own, log entry 7). -/
  pending : List Instr := []
  /-- The next free value to take (the model's own, log entry 57; R73 and every other open value). The first 2^20 are what the hob stores
  hold before anything is written. -/
  freeCtr : Nat := 1048576
  /-- The arrays: byte i of the 272-bit word of physical granule address A at key 64 × A + i (R296, R298). -/
  mem : List Host.Cell := []
  /-- The units that the block reserves (R51), keyed as the arrays are. -/
  rmem : List Host.Cell := []
  /-- Staging SRAM (R339). -/
  staging : Staging := {}
  /-- Region table by index (R47). -/
  regions : SMap Region := []
  /-- Partitions (R445). -/
  parts : SMap Part := []
  /-- Pools of the hearth, hob-time and flue dampers: bytes, hob-ns, bytes (R457). -/
  poolHearth : Nat := 0
  poolHob : Nat := 0
  poolFlue : Nat := 0
  /-- Stack scheduler (R268). -/
  sched : Sched := {}
  /-- Warp counters, sweep and sparing (R296). -/
  warp : Warp := {}
  /-- Hearth and flue ports (R345, R369). -/
  ports : Ports := {}
  /-- Firings, hobs and programs (R65, R127, R177). -/
  fir : Fir := {}
  /-- Spools and picks (R420). -/
  spl : Spl := {}
  /-- Step engine (R179). -/
  stp : Step := {}
  /-- Transposed reads accepted, by number (R230). -/
  treads : SMap Tread := []
  /-- Transpose carve-out bytes held (R234). -/
  tposeUsed : Nat := 0
  /-- Sampler (R259). -/
  smp : Sampler := {}
  /-- Flue streams and the twin (R388, R397, R413). -/
  str : Streams := {}
  /-- Observation (R539). -/
  obs : Obs := {}
  /-- Faults, test and recovery (R558). -/
  flt : Flt := {}
  /-- The fireback (R468). -/
  fb : Fireback := {}
  /-- Clocks and power states (R493). -/
  clk : Clk := {}
  /-- Boot and flash (R512). -/
  boot : Boot := {}
  /-- Management port and TAP (R626). -/
  mgmt : Mgmt := {}
  /-- RW and RWF fields of the register window by word offset (R587 to R614); a word not listed holds its reset value. -/
  regs : SMap W64 := []
  /-- Per-requester selects: key requester × 2^32 + offset (R590). -/
  sel : SMap W64 := []
  /-- Per-requester shadows of the half reads: key requester, value (offset, word) (R504). -/
  shadow : SMap (Nat × W64) := []
  /-- Per-requester copies of captured blocks: key requester × 2^32 + offset of the word (R600, R607, R610). -/
  capt : SMap W64 := []
  /-- Per-requester read positions of streamed registers: key requester × 2^32 + offset (R589). -/
  strm : SMap Nat := []
  /-- What the last register read command of a requester returned, by requester key (the model's own, log entry 7: the data of its
  completion, R504; a read that travels as an RD packet returns it in its response instead). -/
  rdata : SMap Nat := []
deriving DecidableEq, Repr

/-- The machine right after reset: cold reset held, every field at its reset value. -/
def State.reset : State := {}

end Sys2Proof.Machine
end

