-- ==== Sys2Proof/Machine/Mem.lean ====
section
/-! DEFINITION. The named operations over the arrays and the staging SRAM, and where an address lies
(R39, R49 to R51, R298, R308 to R310, R319, R340). -/

namespace Sys2Proof.Machine

/-! ### Updates of one subsystem -/

def modSched (s : State) (f : Sched → Sched) : State := { s with sched := f s.sched }
def modWarp (s : State) (f : Warp → Warp) : State := { s with warp := f s.warp }
def modPorts (s : State) (f : Ports → Ports) : State := { s with ports := f s.ports }
def modObs (s : State) (f : Obs → Obs) : State := { s with obs := f s.obs }
def modFlt (s : State) (f : Flt → Flt) : State := { s with flt := f s.flt }
def modFb (s : State) (f : Fireback → Fireback) : State := { s with fb := f s.fb }
def modClk (s : State) (f : Clk → Clk) : State := { s with clk := f s.clk }
def modBoot (s : State) (f : Boot → Boot) : State := { s with boot := f s.boot }
def modFir (s : State) (f : Fir → Fir) : State := { s with fir := f s.fir }
def modSpl (s : State) (f : Spl → Spl) : State := { s with spl := f s.spl }
def modStp (s : State) (f : Step → Step) : State := { s with stp := f s.stp }
def modSmp (s : State) (f : Sampler → Sampler) : State := { s with smp := f s.smp }
def modStr (s : State) (f : Streams → Streams) : State := { s with str := f s.str }
def modMgmt (s : State) (f : Mgmt → Mgmt) : State := { s with mgmt := f s.mgmt }

/-- Carry out a command's effect `f`: every command has one, and none touches the queue of the commands behind it. -/
def act (s : State) (f : State → State) : Host.Outcome State Fault Refusal := .next { f s with pending := s.pending }

/-! ### Byte memories in canonical form -/

/-- The byte at `a`, where an unlisted address reads as `d a`. -/
def cellGet (d : Nat → Byte) (m : List Host.Cell) (a : Nat) : Byte :=
  match smFind m a with
  | some b => b
  | none => d a

/-- Write byte `b` at `a`, keeping the canonical form: a byte equal to what an unlisted address reads as is removed. -/
def cellSet (d : Nat → Byte) (m : List Host.Cell) (a : Nat) (b : Byte) : List Host.Cell :=
  if b = d a then smDel m a else smSet m a b

/-- Write consecutive bytes from `a` upward. -/
def cellSetMany (d : Nat → Byte) (m : List Host.Cell) (a : Nat) : List Byte → List Host.Cell
  | [] => m
  | b :: bs => cellSetMany d (cellSet d m a b) (a + 1) bs

/-- Strictly rising addresses, none listed at its default value. -/
def cellsWf (d : Nat → Byte) : List Host.Cell → Bool
  | [] => true
  | [(a, b)] => b != d a
  | (a, b) :: (a', b') :: m => (b != d a) && (a < a') && cellsWf d ((a', b') :: m)

/-- What an array byte that nothing has written reads as: byte i of the poison mark of its granule (R59). -/
def memDefault (k : Nat) : Byte := poisonByte (k / 64) (k % 64)

/-- What a byte of the reserved units that nothing has written reads as: byte i of the granule of zeros, which R526 gives the
reserved areas before service (R51). -/
def resDefault (k : Nat) : Byte := BitVec.ofNat 8 (bitsAt (warpEncode ⟨0, false⟩ (k / 64)) (8 * (k % 64)) 8)

/-- What an unlisted staging byte reads as (R45). -/
def stgDefault (_ : Nat) : Byte := 0

/-- What an unlisted flash byte reads as: an erased NOR cell (PRESUMED, log entry 3). -/
def flashDefault (_ : Nat) : Byte := 0xFF

/-- The array memory is in canonical form. -/
def Memory.wf (m : List Host.Cell) : Bool := cellsWf memDefault m

/-- The reserved units are in canonical form. -/
def Memory.wfRes (m : List Host.Cell) : Bool := cellsWf resDefault m

/-- The 34 bytes of the array word at granule address `a`. -/
def memBytes (m : List Host.Cell) (a : Nat) : List Byte :=
  (List.range 34).map fun i => cellGet memDefault m (64 * a + i)

/-- The 272-bit array word at granule address `a` (R296). -/
def memWord (m : List Host.Cell) (a : Nat) : Nat := leNat (memBytes m a)

/-- Write a 272-bit array word at granule address `a`. -/
def memPutWord (m : List Host.Cell) (a w : Nat) : List Host.Cell :=
  cellSetMany memDefault m (64 * a) (leBytes 34 w)

/-- Write a datum at granule address `a`: encoded afresh (R300, R301). -/
def memPut (m : List Host.Cell) (a : Nat) (x : Datum) : List Host.Cell :=
  memPutWord m a (warpEncode x a)

/-- Read and decode the granule at address `a` (R302). -/
def memGet (m : List Host.Cell) (a : Nat) : WarpRes × Datum := warpDecode (memWord m a) a

/-- The 272-bit word of the reserved units at granule address `a` (R296). -/
def resWord (m : List Host.Cell) (a : Nat) : Nat := leNat ((List.range 34).map fun i => cellGet resDefault m (64 * a + i))

/-- Write a datum into the reserved units at granule address `a` (R300, R301). -/
def resPut (m : List Host.Cell) (a : Nat) (x : Datum) : List Host.Cell :=
  cellSetMany resDefault m (64 * a) (leBytes 34 (warpEncode x a))

/-! ### Where things lie -/

/-- Active pairs: 32 per populated die (R37). -/
def pairCount (s : State) : Nat := 32 * s.boot.dies

/-- Key of a logical pair. -/
def pairKey (die pos : Nat) : Nat := die * 32 + pos

/-- The physical pair that serves a logical position (R36, R298). -/
def physPair (s : State) (die pos : Nat) : Nat := smGet pos s.warp.map (pairKey die pos)

/-- Physical address A of a pair-local offset (R39, R298). -/
def physAddr (die pair loc : Nat) : Nat :=
  bitsAt loc 6 6 + bitsAt loc 5 1 * 2 ^ 6 + bitsAt loc 12 15 * 2 ^ 7 + pair % 64 * 2 ^ 22 + die % 16 * 2 ^ 28

/-- Physical address of a logical pair's local offset. -/
def locAddr (s : State) (die pos loc : Nat) : Nat := physAddr die (physPair s die pos) loc

/-- A place in the arrays: die, logical position, pair-local offset. -/
structure Place where
  die : Nat
  pos : Nat
  loc : Nat
deriving DecidableEq, Repr

/-- 2 MiB, the size of a unit in one pair (R39). -/
def unitBytes : Nat := 2097152

/-- Size of a region in bytes (R49, R50). -/
def rgnSize (s : State) (r : Region) : Nat :=
  match r.kind with
  | .bankLocal => (r.c1 - r.c0 + 1) * (r.r1 - r.r0 + 1) * (r.count * unitBytes)
  | _ => pairCount s * (r.count * unitBytes)

/-- The striped map: offset `o` of an area whose first unit is `first` (R49). -/
def stripedPlace (s : State) (first o : Nat) : Place :=
  let g := o / 1024
  let p := g % pairCount s
  ⟨p % s.boot.dies, p / s.boot.dies, first * unitBytes + g / pairCount s * 1024 + o % 1024⟩

/-- The bank-local map (R50). -/
def localPlace (r : Region) (o : Nat) : Place :=
  let sz := r.count * unitBytes
  let w := r.c1 - r.c0 + 1
  let i := o / sz
  ⟨r.r0 + i / w, r.c0 + i % w, r.first * unitBytes + o % sz⟩

/-- Where offset `o` of region `r` lies. -/
def rgnPlace (s : State) (r : Region) (o : Nat) : Place :=
  match r.kind with
  | .bankLocal => localPlace r o
  | _ => stripedPlace s r.first o

/-- The region whose hearth range holds `addr`: its index and entry (R47). -/
def findRegion (s : State) (addr : Nat) : Option (Nat × Region) :=
  s.regions.find? fun kr => kr.2.base ≤ addr && addr < kr.2.base + rgnSize s kr.2

/-- The address lies in the area that the block reserves at the top of the populated capacity (R51). -/
def inReserved (s : State) (addr : Nat) : Bool :=
  let top := pairCount s * 0x8000000
  top - pairCount s * (s.boot.cfg.r * unitBytes) ≤ addr && addr < top

/-- Where a hearth address of a region lies. -/
def addrPlace (s : State) (addr : Nat) : Option Place :=
  match findRegion s addr with
  | some (_, r) => some (rgnPlace s r (addr - r.base))
  | none => none

/-! ### Reading and writing granules of a pair, with counts and the scrub queue -/

/-- Note the occupancy of an observed queue in its MAX (R541). -/
def qNote (s : State) (key cur : Nat) : State :=
  let q := smGet {} s.obs.queues key
  if q.max < cur then { s with obs := { s.obs with queues := smSet s.obs.queues key { q with max := cur } } } else s

/-- Key of an observed queue: the layout of OBS_Q_SEL (R600). -/
def qKey (queue die pos sub dir : Nat) : Nat :=
  queue + die * 2 ^ 8 + pos * 2 ^ 12 + sub * 2 ^ 17 + dir * 2 ^ 19

/-- The scheduler state of a logical pair. -/
def pairAt (s : State) (die pos : Nat) : PairS := smGet {} s.sched.pairs (pairKey die pos)

def setPair (s : State) (die pos : Nat) (p : PairS) : State :=
  { s with sched := { s.sched with pairs := smSet s.sched.pairs (pairKey die pos) p } }

/-- Count a decode result against the physical pair (R310), and in its history (R571). -/
def noteDecode (s : State) (die pair : Nat) (r : WarpRes) : State :=
  let k := die * 34 + pair
  match r with
  | .clean => s
  | .correctable =>
    { s with warp := { s.warp with ce := smMod 0 s.warp.ce k (· + 1) },
             flt := { s.flt with pairs := smMod {} s.flt.pairs k fun h => { h with ceTotal := satAdd 32 h.ceTotal 1 } } }
  | .uncorrectable =>
    { s with warp := { s.warp with ue := smMod 0 s.warp.ue k (· + 1) },
             flt := { s.flt with pairs := smMod {} s.flt.pairs k fun h => { h with ueTotal := satAdd 32 h.ueTotal 1 } } }
  | .poison => { s with warp := { s.warp with poison := smMod 0 s.warp.poison k (· + 1) } }

/-- Place a granule found correctable or uncorrectable in its tile's scrub queue of 8 entries; a full queue drops it
and counts it in WW_SCRUBQ_DROP (R307). -/
def scrubPush (s : State) (die pos loc : Nat) (r : WarpRes) : State :=
  if r = .correctable ∨ r = .uncorrectable then
    let p := pairAt s die pos
    if p.scrub.length < 8 then
      qNote (setPair s die pos { p with scrub := p.scrub ++ [loc] }) (qKey 13 die pos 0 0) (p.scrub.length + 1)
    else { s with warp := { s.warp with drop := s.warp.drop + 1 } }
  else s

/-- The offset lies in the reserved units of its pair (R51). -/
def locReserved (s : State) (loc : Nat) : Bool := 64 ≤ loc / unitBytes + s.boot.cfg.r

/-- Decode the granule at physical address `a`, which local offset `loc` of its pair names (R302). -/
def granAt (s : State) (loc a : Nat) : WarpRes × Datum :=
  if locReserved s loc then warpDecode (resWord s.rmem a) a else memGet s.mem a

/-- Encode a granule afresh at physical address `a`, which local offset `loc` of its pair names (R300, R301). -/
def granPut (s : State) (loc a : Nat) (x : Datum) : State :=
  if locReserved s loc then { s with rmem := resPut s.rmem a x } else { s with mem := memPut s.mem a x }

/-- Read a granule of a pair and count the decode, without queueing it (R302, R310). -/
def readRaw (s : State) (die pos loc : Nat) : WarpRes × Datum × State :=
  let r := granAt s loc (locAddr s die pos loc)
  (r.1, r.2, noteDecode s die (physPair s die pos) r.1)

/-- A demand read of a granule: the datum delivered, with the error queued for the sweep (R307, R308). -/
def readGran (s : State) (die pos loc : Nat) : Datum × State :=
  let r := readRaw s die pos loc
  (r.2.1, scrubPush r.2.2 die pos loc r.1)

/-- A write below the watermark of a COPYING pair goes to the spare too (R319): the spare, if so. -/
def copyTarget (s : State) (die pos loc : Nat) : Option Nat :=
  match s.warp.migr with
  | some g => if g.die = die ∧ g.pos = pos ∧ g.switching = false ∧ loc < g.mark then some g.spare else
      if g.die = die ∧ g.pos = pos ∧ g.switching = true then some g.spare else none
  | none => none

/-- Write a whole granule of a pair, and of the spare below the watermark of its migration (R308, R319). A granule that waits
in the scrub queue stays there, since its service reads it again (R307); one that waits for its verify read is noted as written
(R316, R572). -/
def writeGran (s : State) (die pos loc : Nat) (x : Datum) : State :=
  let s1 := granPut s loc (locAddr s die pos loc) x
  let s2 := match copyTarget s die pos loc with
    | some sp => granPut s1 loc (physAddr die sp loc) x
    | none => s1
  let p := pairAt s die pos
  if p.verify.any (fun v => v.1 == loc) then setPair s2 die pos { p with overwritten := p.overwritten ++ [loc] } else s2

/-- Bytes of `new` where `en` enables them, of `old` elsewhere (R309 step 2). -/
def mergeBytes (old new : Gran) (en : BitVec 32) : Gran :=
  bytesGran ((List.range 32).map fun i =>
    if en.getLsbD i then byteAt (granBytes new) i else byteAt (granBytes old) i)

/-- The enables cover the whole granule. -/
def enFull (en : BitVec 32) : Bool := en == BitVec.allOnes 32

/-- A burst with byte enables, one entry per granule from `loc` upward (R309). Whether it failed, and the state. -/
def mergeBurst (s : State) (die pos loc : Nat) (ds : List (Datum × BitVec 32)) : Bool × State :=
  let idx := (List.range ds.length).zip ds
  -- step 1: read every partially covered granule
  let rd := idx.map fun e => (e, if enFull e.2.2 || e.2.2 == 0 then none
    else some (granAt s (loc + 32 * e.1) (locAddr s die pos (loc + 32 * e.1))))
  let s1 := rd.foldl (fun t e => match e.2 with
    | some r => noteDecode t die (physPair s die pos) r.1
    | none => t) s
  let bad := rd.any fun e => match e.2 with
    | some r => r.1 == .uncorrectable || r.1 == .poison
    | none => false
  if bad then
    (true, rd.foldl (fun t e => match e.2 with
      | some r => if r.1 == .uncorrectable then writeGran t die pos (loc + 32 * e.1.1) ⟨0, true⟩ else t
      | none => t) s1)
  else
    (false, rd.foldl (fun t e =>
      let l := loc + 32 * e.1.1
      match e.2 with
      | some r => writeGran t die pos l
          (if e.1.2.1.poison then ⟨0, true⟩ else ⟨mergeBytes r.2.bits e.1.2.1.bits e.1.2.2, false⟩)
      | none => if e.1.2.2 == 0 then t else writeGran t die pos l e.1.2.1) s1)

/-! ### Staging (R340) -/

/-- Read the 32-byte staging word `w`: poisoned by its poison bit or by an uncorrectable 64-bit word (R340, R312). -/
def stgRead (g : Staging) (w : Nat) : Datum :=
  ⟨bytesGran ((List.range 32).map fun i => cellGet stgDefault g.bytes (32 * w + i)),
   g.poison.contains w || (List.range 4).any fun k => g.ue.contains (4 * w + k)⟩

/-- Insert into a rising list without repeats. -/
def insN : List Nat → Nat → List Nat
  | [], k => [k]
  | x :: xs, k => if k < x then k :: x :: xs else if k = x then x :: xs else x :: insN xs k

/-- A staging write to word `w` would fail: part of a poisoned word, or a merge into an uncorrectable 64-bit word
(R340). -/
def stgFails (g : Staging) (w : Nat) (x : Datum) (en : BitVec 32) : Bool :=
  !enFull en && (g.poison.contains w || (!x.poison && (List.range 4).any fun k =>
    g.ue.contains (4 * w + k) && (let e := (en >>> (8 * k)) &&& 0xFF; e != 0 && e != 0xFF)))

/-- Write the enabled bytes of staging word `w` (R340). -/
def stgPut (g : Staging) (w : Nat) (x : Datum) (en : BitVec 32) : Staging :=
  let bs := granBytes x.bits
  let bytes := (List.range 32).foldl (fun m i =>
    if en.getLsbD i then cellSet stgDefault m (32 * w + i) (byteAt bs i) else m) g.bytes
  { g with bytes := bytes,
           ue := g.ue.filter fun q => !(q / 4 == w && (let e := (en >>> (8 * (q % 4))) &&& 0xFF; e == 0xFF)),
           poison := if x.poison then insN g.poison w
                     else if enFull en then g.poison.filter (· != w) else g.poison }

/-- Write a staging access of one or two words from word `w` (R340); whether it failed, and the staging after. A failed
merge into an uncorrectable word sets its poison bit. -/
def stgWrite (g : Staging) (w : Nat) (ds : List (Datum × BitVec 32)) : Bool × Staging :=
  let idx := (List.range ds.length).zip ds
  if idx.any (fun e => stgFails g (w + e.1) e.2.1 e.2.2) then
    (true, idx.foldl (fun h e => if stgFails g (w + e.1) e.2.1 e.2.2 then
      { h with poison := insN h.poison (w + e.1) } else h) g)
  else (false, idx.foldl (fun h e => if e.2.2 == 0 then h else stgPut h (w + e.1) e.2.1 e.2.2) g)

/-- Write clean bytes to staging from byte offset `o`, by the block's own engines. -/
def stgPutBytes (g : Staging) (o : Nat) (bs : List Byte) : Staging :=
  { g with bytes := cellSetMany stgDefault g.bytes o bs }

/-- Read `n` staging bytes from byte offset `o`. -/
def stgBytes (g : Staging) (o n : Nat) : List Byte :=
  (List.range n).map fun i => cellGet stgDefault g.bytes (o + i)

/-- Some word of the range is poisoned. -/
def stgPoison (g : Staging) (o n : Nat) : Bool :=
  (List.range ((o + n + 31) / 32 - o / 32)).any fun i => (stgRead g (o / 32 + i)).poison

/-- Zero `n` staging bytes from `o` (R45, R465 step 9). -/
def stgZero (g : Staging) (o n : Nat) : Staging :=
  { g with bytes := g.bytes.filter fun c => !(o ≤ c.1 && c.1 < o + n),
           poison := g.poison.filter fun w => !(o ≤ 32 * w && 32 * w < o + n),
           ue := g.ue.filter fun q => !(o ≤ 8 * q && 8 * q < o + n) }

/-- First byte of each carve-out, in address order (R44). -/
def stgSootBase (g : Staging) : Nat := g.general * 0x100000
def stgTposeBase (g : Staging) : Nat := stgSootBase g + g.soot * 0x100000
def stgSamplerBase (g : Staging) : Nat := stgTposeBase g + g.tpose * 0x100000
def stgNormBase (g : Staging) : Nat := stgSamplerBase g + g.sampler * 0x100000
def stgEnd (g : Staging) : Nat := stgNormBase g + g.norm * 0x100000

end Sys2Proof.Machine
end

