-- ==== Sys2Proof/Machine/RegStore.lean ====
section
/-! DEFINITION. The stored fields of the register window: offsets, bit ranges, access types, reset values and ranges of
every RW, RWF and image-loaded field (R593 to R614), and the per-requester selects (R590). -/

namespace Sys2Proof.Machine

/-- Access types of stored fields (R10). -/
inductive Acc where
  | rw | rwf | ro
deriving DecidableEq, Repr

/-- One stored field: word offset, low bit, width, access, reset value, range. -/
structure FieldSpec where
  off : Nat
  lo : Nat
  w : Nat
  acc : Acc
  rst : Nat
  min : Nat
  max : Nat
deriving DecidableEq, Repr

/-- Hearth and flue link configuration (R594, R595). -/
def fieldsLink (b : Nat) : List FieldSpec :=
  [⟨b, 0, 7, .rwf, 10, 1, 100⟩, ⟨b, 8, 7, .rwf, 10, 1, 100⟩, ⟨b, 16, 7, .rwf, 10, 1, 100⟩,
   ⟨b, 24, 7, .rwf, 10, 1, 100⟩, ⟨b, 32, 10, .rwf, 100, 1, 1000⟩, ⟨b, 42, 14, .rwf, 100, 1, 10000⟩]

def fieldsPorts : List FieldSpec :=
  fieldsLink 0x10018 ++ fieldsLink 0x20018 ++
  [⟨0x20018, 56, 7, .rwf, 10, 1, 100⟩,
   ⟨0x10040, 0, 16, .rw, 1000, 1, 65535⟩,
   ⟨0x20060, 8, 8, .rwf, 5, 2, 50⟩,
   ⟨0x20080, 0, 10, .rwf, 10, 5, 1000⟩, ⟨0x20080, 16, 7, .rwf, 10, 1, 100⟩, ⟨0x20080, 24, 7, .rwf, 10, 1, 100⟩,
   ⟨0x20080, 32, 10, .rwf, 10, 1, 1000⟩, ⟨0x20080, 48, 10, .rwf, 10, 1, 1000⟩]

/-- Scheduler fields (R596); the timing and energy words are RO and loaded by boot. -/
def fieldsSched : List FieldSpec :=
  [⟨0x30000, 0, 32, .ro, 0x2C1E0E0E, 0, 0xFFFFFFFF⟩, ⟨0x30008, 0, 12, .ro, 0x204, 0, 0xFFF⟩,
   ⟨0x30010, 0, 29, .ro, 0x0A100201, 0, 0x1FFFFFFF⟩, ⟨0x30018, 0, 28, .ro, 0x04040610, 0, 0xFFFFFFF⟩,
   ⟨0x30020, 0, 15, .ro, 0x1010, 0, 0x7FFF⟩, ⟨0x30028, 0, 40, .ro, 0x551E840064, 0, 0xFFFFFFFFFF⟩,
   ⟨0x30030, 0, 42, .ro, 0x640064005A, 0, 0x3FFFFFFFFFF⟩, ⟨0x30050, 0, 64, .ro, 0x0FA003E8012C006E, 0, 2 ^ 64 - 1⟩,
   ⟨0x30058, 0, 16, .ro, 54, 54, 54⟩, ⟨0x30058, 16, 16, .ro, 4, 4, 4⟩,
   ⟨0x30040, 0, 16, .rwf, 100, 0, 65535⟩, ⟨0x30040, 32, 16, .rwf, 100, 0, 65535⟩,
   ⟨0x30048, 0, 8, .rwf, 16, 1, 64⟩,
   ⟨0x30060, 0, 9, .rwf, 200, 40, 280⟩, ⟨0x30060, 16, 8, .rwf, 40, 0, 255⟩, ⟨0x30060, 32, 9, .ro, 40, 40, 40⟩,
   ⟨0x30068, 0, 8, .rwf, 20, 1, 160⟩, ⟨0x30068, 8, 8, .rwf, 80, 1, 160⟩, ⟨0x30068, 16, 9, .rwf, 0, 0, 280⟩,
   ⟨0x30068, 32, 10, .rwf, 0, 0, 999⟩]

/-- Warp, clock and boot fields (R597 to R599). -/
def fieldsWarpClk : List FieldSpec :=
  [⟨0x40038, 0, 8, .rwf, 8, 1, 168⟩, ⟨0x40038, 16, 8, .rwf, 10, 1, 100⟩, ⟨0x40058, 0, 8, .rwf, 4, 1, 200⟩,
   ⟨0x50008, 0, 1, .rwf, 0, 0, 1⟩, ⟨0x50010, 0, 2, .rwf, 0, 0, 3⟩,
   ⟨0x50018, 0, 4, .rwf, 0, 0, 10⟩, ⟨0x50018, 8, 3, .rwf, 0, 0, 6⟩, ⟨0x50020, 0, 1, .rwf, 0, 0, 1⟩,
   ⟨0x50028, 0, 1, .rwf, 0, 0, 1⟩, ⟨0x50028, 8, 12, .rwf, 10, 1, 1000⟩,
   ⟨0x60018, 0, 1, .rwf, 0, 0, 1⟩, ⟨0x60018, 1, 1, .rwf, 0, 0, 1⟩, ⟨0x60018, 8, 1, .rwf, 0, 0, 1⟩,
   ⟨0x60020, 0, 1, .rwf, 0, 0, 1⟩, ⟨0x60020, 1, 1, .rwf, 0, 0, 1⟩, ⟨0x60020, 2, 1, .rwf, 1, 0, 1⟩,
   ⟨0x60020, 12, 10, .rwf, 0, 0, 1023⟩, ⟨0x60030, 0, 48, .rw, 0, 0, 2 ^ 48 - 1⟩]

/-- Observation, fireback and fault fields (R600, R601). -/
def fieldsObsFb : List FieldSpec :=
  [⟨0xE00018, 0, 64, .rw, 0, 0, 2 ^ 64 - 1⟩, ⟨0xE00020, 0, 64, .rw, 0, 0, 2 ^ 64 - 1⟩,
   ⟨0xF00030, 16, 7, .rwf, 90, 70, 125⟩, ⟨0xF00030, 24, 7, .rwf, 95, 70, 125⟩,
   ⟨0xF00030, 32, 7, .rwf, 105, 70, 125⟩, ⟨0xF00030, 40, 7, .rwf, 115, 70, 125⟩,
   ⟨0xF00100, 32, 8, .rwf, 0xFF, 0, 0xFF⟩,
   ⟨0xF10020, 0, 12, .rwf, 60, 1, 3600⟩, ⟨0xF10060, 0, 5, .rwf, 1, 1, 16⟩, ⟨0xF10060, 8, 5, .rwf, 8, 1, 16⟩,
   ⟨0xF10060, 16, 16, .rwf, 4096, 16, 65535⟩, ⟨0xF10068, 0, 10, .rwf, 24, 1, 720⟩,
   ⟨0xF10080, 8, 4, .rwf, 3, 1, 15⟩, ⟨0xF10080, 16, 6, .rwf, 10, 1, 60⟩, ⟨0xF10080, 32, 10, .rwf, 10, 1, 600⟩]

/-- Firing, sampler, twin and damper pool fields (R605, R608, R609). -/
def fieldsWork : List FieldSpec :=
  [⟨0x100020, 0, 17, .rwf, 500, 50, 100000⟩, ⟨0x100028, 0, 9, .rwf, 20, 1, 500⟩, ⟨0x100030, 0, 10, .rwf, 20, 5, 1000⟩,
   ⟨0x83020, 0, 8, .rwf, 128, 1, 255⟩, ⟨0x83020, 8, 10, .rwf, 10, 1, 1000⟩, ⟨0x83020, 20, 14, .rwf, 100, 1, 10000⟩,
   ⟨0x83020, 40, 10, .rwf, 10, 1, 1000⟩,
   ⟨0x86018, 0, 20, .rwf, 65536, 0, 2 ^ 20 - 1⟩, ⟨0x86020, 0, 32, .rwf, 10240000, 0, 2 ^ 32 - 1⟩,
   ⟨0x86028, 0, 20, .rwf, 65536, 0, 2 ^ 20 - 1⟩] ++
  ([0x82000, 0x82008, 0x82010, 0x82018] : List Nat).flatMap fun o => (List.range 4).flatMap fun j =>
    [⟨o, 16 * j, 10, .rwf, 0, 0, 1023⟩, ⟨o, 16 * j + 15, 1, .rwf, 0, 0, 1⟩]

/-- Fields of the page of partition `p`, at offsets within the page (R610). -/
def fieldsPage (p : Nat) : List FieldSpec :=
  [⟨0x008, 0, 1, .rwf, 0, 0, 1⟩, ⟨0x008, 1, 1, .rwf, 0, 0, 1⟩, ⟨0x008, 2, 1, .rwf, 0, 0, 1⟩, ⟨0x008, 3, 1, .rwf, 0, 0, 1⟩,
   ⟨0x010, 0, 10, .rwf, 0, 0, 1023⟩, ⟨0x010, 16, 10, .rwf, 0, 0, 1023⟩,
   ⟨0x018, 0, 20, .rwf, p * 1024, 0, 2 ^ 20 - 1⟩, ⟨0x018, 32, 21, .rwf, 1024, 0, 1048576⟩,
   ⟨0x020, 0, 64, .rwf, 0, 0, 2 ^ 64 - 1⟩, ⟨0x028, 0, 64, .rwf, 0, 0, 2 ^ 64 - 1⟩,
   ⟨0x030, 0, 64, .rwf, 0, 0, 2 ^ 64 - 1⟩, ⟨0x038, 0, 64, .rwf, 0, 0, 2 ^ 64 - 1⟩,
   ⟨0x040, 32, 7, .rw, 0, 0, 127⟩, ⟨0x048, 0, 1, .rwf, 0, 0, 1⟩,
   ⟨0x100, 0, 16, .rwf, 0, 0, 65535⟩, ⟨0x100, 16, 16, .rwf, 0, 0, 65535⟩, ⟨0x100, 32, 19, .rwf, 0, 0, 512000⟩,
   ⟨0x108, 0, 20, .rwf, 0, 1, 1048575⟩, ⟨0x108, 32, 20, .rwf, 0, 1, 1048575⟩,
   ⟨0x110, 0, 32, .rwf, 0, 1024, 2 ^ 32 - 1⟩,
   ⟨0x118, 0, 1, .rwf, 0, 0, 1⟩, ⟨0x118, 16, 16, .rwf, 4096, 0, 65535⟩, ⟨0x118, 32, 20, .rwf, 0, 0, 1048575⟩,
   ⟨0x200, 0, 64, .rw, 0, 0, 2 ^ 64 - 1⟩, ⟨0x208, 0, 32, .rw, 0, 0, 2 ^ 32 - 1⟩,
   ⟨0x308, 0, 48, .rw, 0, 0, 2 ^ 48 - 1⟩, ⟨0x308, 48, 5, .rw, 0, 0, 16⟩,
   ⟨0x310, 0, 64, .rw, 0, 0, 2 ^ 64 - 1⟩, ⟨0x318, 0, 5, .rw, 4, 4, 16⟩, ⟨0x318, 8, 1, .rw, 0, 0, 1⟩,
   ⟨0x318, 16, 8, .rw, 0, 0, 255⟩, ⟨0x320, 0, 2, .rw, 3, 0, 3⟩] ++
  (List.range 8).flatMap fun i =>
    [⟨0x240 + 8 * i, 0, 17, .rw, 0, 0, 131071⟩, ⟨0x240 + 8 * i, 32, 17, .rw, 0, 0, 131071⟩]

/-- The page of partition `p` begins here (R445). -/
def pageBase (p : Nat) : Nat := 0x200000 + 4096 * p

/-- An offset within the partition pages. -/
def inPages (off : Nat) : Bool := 0x200000 ≤ off && off < 0x600000

/-- The stored fields of the word at offset `off`. -/
def fieldsAt (off : Nat) : List FieldSpec :=
  if inPages off then
    (fieldsPage ((off - 0x200000) / 4096)).filter fun f => f.off == (off - 0x200000) % 4096
  else if off < 0x30000 then fieldsPorts.filter fun f => f.off == off
  else if off < 0x40000 then fieldsSched.filter fun f => f.off == off
  else if off < 0x80000 then fieldsWarpClk.filter fun f => f.off == off
  else if off < 0x200000 then fieldsWork.filter fun f => f.off == off
  else fieldsObsFb.filter fun f => f.off == off

/-- Reset value of the stored fields of a word (R12). -/
def regReset (off : Nat) : W64 :=
  (fieldsAt off).foldl (fun w f => w ||| put f.lo f.w f.rst) 0

/-- The stored word at an offset. -/
def regRd (s : State) (off : Nat) : W64 := smGet (regReset off) s.regs off

/-- A stored field. -/
def regF (s : State) (off lo w : Nat) : Nat := fld (regRd s off) lo w

def regSet (s : State) (off : Nat) (v : W64) : State := { s with regs := smSet s.regs off v }

/-- Replace one stored field. -/
def regSetF (s : State) (off lo w v : Nat) : State := regSet s off (setFld (regRd s off) lo w v)

/-- Write value `v` under bit mask `mask` to the fields of a word that have access `acc`: a field the mask touches takes
its masked value if that lies in the field's range, and is left unchanged otherwise (R592). -/
def applyFields (acc : Acc) (fs : List FieldSpec) (old mask v : W64) : W64 :=
  fs.foldl (fun w f =>
    let m := fld mask f.lo f.w
    if f.acc = acc ∧ m ≠ 0 then
      let nv := (fld old f.lo f.w &&& (2 ^ f.w - 1 - m)) ||| (fld v f.lo f.w &&& m)
      if f.min ≤ nv ∧ nv ≤ f.max then setFld w f.lo f.w nv else w
    else w) old

/-- The mask reaches a field of access `acc`. -/
def touches (acc : Acc) (fs : List FieldSpec) (mask : W64) : Bool :=
  fs.any fun f => f.acc == acc && fld mask f.lo f.w != 0

/-- A masked value lies outside the range of some field of access `acc` it touches (R592). -/
def outOfRange (acc : Acc) (fs : List FieldSpec) (old mask v : W64) : Bool :=
  fs.any fun f => f.acc == acc && fld mask f.lo f.w != 0 &&
    (let m := fld mask f.lo f.w
     let nv := (fld old f.lo f.w &&& (2 ^ f.w - 1 - m)) ||| (fld v f.lo f.w &&& m)
     nv < f.min || f.max < nv)

/-! ### Requesters -/

/-- Key of a requester (R590). -/
def rqKey : Requester → Nat
  | .hearth _ src _ => src
  | .flue peer _ => 0x10000 + peer
  | .mgmt => 0x20000

/-- The partition a requester presents; none for the management port. -/
def rqPart : Requester → Option Nat
  | .hearth _ _ p => some p
  | .flue _ p => some p
  | .mgmt => none

/-- Key of a requester's copy of the word at `off`. -/
def rqOff (rq : Requester) (off : Nat) : Nat := rqKey rq * 2 ^ 32 + off

/-- Bits of the select word at `off`: (low bit, width) of each field (R590, R593 to R610). -/
def selFields (off : Nat) : List (Nat × Nat) :=
  if inPages off then (if (off - 0x200000) % 4096 = 0x300 then [(0, 20)] else [])
  else match off with
    | 0x20 => [(0, 13)]
    | 0x10000 => [(0, 4)]
    | 0x20000 => [(0, 4)]
    | 0x20070 => [(0, 13)]
    | 0x20300 => [(0, 4)]
    | 0x20320 => [(0, 8)]
    | 0x30038 => [(0, 11)]
    | 0x40000 => [(0, 6), (8, 4)]
    | 0xE00100 => [(8, 16)]
    | 0xE00200 => [(0, 5), (8, 4), (12, 5), (17, 2), (19, 1)]
    | 0xE00300 => [(0, 10)]
    | 0xE00400 => [(0, 4)]
    | 0xE00500 => [(0, 4)]
    | 0xE00618 => [(0, 16)]
    | 0xE00700 => [(0, 3)]
    | 0xE00720 => [(0, 9), (16, 11)]
    | 0xF10028 => [(0, 8), (8, 1), (16, 16)]
    | 0xF10038 => [(0, 6)]
    | 0xF10050 => [(0, 1), (4, 10)]
    | 0x80000 => [(0, 6)]
    | 0x83000 => [(0, 6)]
    | 0x84000 => [(0, 4)]
    | 0x84040 => [(0, 8)]
    | _ => []

/-- The streamed register whose item the select at `off` names (R589). -/
def streamOf (off : Nat) : Option Nat :=
  match off with
  | 0xF10028 => some 0xF10030
  | 0xF10038 => some 0xF10040
  | 0xF10050 => some 0xF10058
  | 0x80000 => some 0x80060
  | _ => none

/-- The requester's copy of a select (R590); zero until written. -/
def selRd (s : State) (rq : Requester) (off : Nat) : W64 := smGet 0 s.sel (rqOff rq off)

def selF (s : State) (rq : Requester) (off lo w : Nat) : Nat := fld (selRd s rq off) lo w

/-- Write the requester's copy of a select under a mask; the read positions of the items it selects return to zero
(R589, R590). -/
def selWr (s : State) (rq : Requester) (off : Nat) (mask v : W64) : State :=
  let old := selRd s rq off
  let nw := (selFields off).foldl (fun w f =>
    setFld w f.1 f.2 ((fld old f.1 f.2 &&& (2 ^ f.2 - 1 - fld mask f.1 f.2)) ||| (fld v f.1 f.2 &&& fld mask f.1 f.2))) old
  { s with sel := smSet s.sel (rqOff rq off) nw,
           strm := match streamOf off with
             | some o => smDel s.strm (rqOff rq o)
             | none => s.strm }

/-! ### Partition fields -/

def part (s : State) (p : Nat) : Part := smGet {} s.parts p

def setPart (s : State) (p : Nat) (x : Part) : State := { s with parts := smSet s.parts p x }

def modPart (s : State) (p : Nat) (f : Part → Part) : State := setPart s p (f (part s p))

/-- A stored field of a partition's page. -/
def pageF (s : State) (p off lo w : Nat) : Nat := regF s (pageBase p + off) lo w

def rightEmber (s : State) (p : Nat) : Bool := pageF s p 0x008 0 1 == 1
def rightObserve (s : State) (p : Nat) : Bool := pageF s p 0x008 1 1 == 1
def rightRegister (s : State) (p : Nat) : Bool := pageF s p 0x008 2 1 == 1
def rightStep (s : State) (p : Nat) : Bool := pageF s p 0x008 3 1 == 1

/-- Bit `src` of PRT_SRC_MASK (R447). -/
def srcAllowed (s : State) (p src : Nat) : Bool := pageF s p (0x020 + 8 * (src / 64)) (src % 64) 1 == 1

/-- The partition is ACTIVE (R447). -/
def active (s : State) (p : Nat) : Bool := p < 1024 && (part s p).st == .active

/-- The requester may present partition `p` (R447, R448): an agent by the source mask, a peer by its table entry. -/
def mayPresent (s : State) (rq : Requester) (p : Nat) : Bool :=
  match rq with
  | .mgmt => true
  | .hearth _ src _ => srcAllowed s p src && (part s p).st != .free
  | .flue peer _ => (smGet ({} : Peer) s.ports.peers peer).part == p && (part s p).st != .free

/-- The staging bytes [a, a + n) of the window lie in the partition's staging grant (R44). -/
def inGrant (s : State) (p a n : Nat) : Bool :=
  let b := pageF s p 0x010 0 10 * 0x10000
  b ≤ a && a + n ≤ b + pageF s p 0x010 16 10 * 0x10000 && a + n ≤ stgSootBase s.staging

/-- Count a stray page access (R448, R539). -/
def strayPage (s : State) (rq : Requester) : State :=
  match rqPart rq with
  | some p => modPart s p fun x => { x with strayPage := x.strayPage + 1 }
  | none => s

/-- Count a stray doorbell against a partition (R58, R426). -/
def strayDb (s : State) (p : Nat) : State := modPart s p fun x => { x with strayDb := x.strayDb + 1 }

end Sys2Proof.Machine
end

