-- ==== Sys2Proof/Machine/Ops.lean ====
section
/-! DEFINITION. Operations shared by every subsystem: time, counters and trace (R541, R542, R545, R548 to R550), events
to the fireback and the pins (R491, R559), and the dampers (R452 to R457). -/

namespace Sys2Proof.Machine

/-! ### Time and observation -/

/-- Aligned time: the global time counter plus the offset (R545). -/
def atime (s : State) : W64 := s.clk.gtc + s.obs.ofs

/-- The unit an event belongs to, for the filter of a programmable counter (R542). -/
inductive PUnit where
  | none
  | pair (die pos : Nat)
  | module (flue : Bool) (m : Nat)
  | cause (c : Nat)
deriving DecidableEq, Repr

/-- A counter's filter takes the event (R542). -/
def pmcTakes (c : W64) (ev : Nat) (p cls : Option Nat) (u : PUnit) : Bool :=
  fld c 0 8 == ev
  && (fld c 18 1 == 1 || p == some (fld c 8 10))
  && (match cls with
      | some k => bitAt (fld c 20 4) k
      | none => true)
  && (fld c 34 1 == 1 || (match u with
      | .none => false
      | .pair d q => fld c 24 4 == d && fld c 28 5 == q
      | .module f m => fld c 33 1 == b2n f && fld c 28 5 == m
      | .cause k => fld c 24 4 == k))

/-- Count `n` of event `ev` in every running programmable counter whose filter takes it (R542). -/
def pmcEvent (s : State) (ev : Nat) (p cls : Option Nat) (u : PUnit) (n : Nat) : State :=
  if s.obs.running then
    modObs s fun o =>
      { o with
        pmc := o.pmc.map fun kv =>
          if pmcTakes kv.2.cfg ev p cls u then (kv.1, { kv.2 with val := (kv.2.val + n) % 2 ^ 64 }) else kv }
  else s

/-- A ring accepts a record: enabled, its type taken, its partition filter passed (R547, R548). -/
def ringTakes (r : SootRing) (x : SootRec) : Bool :=
  fld r.cfg 21 1 == 1 && bitAt (fld r.cfg 48 10) (x.type - 1)
  && (x.block || fld r.cfg 42 1 == 1 || fld r.cfg 32 10 == x.part)

/-- Write a record into the shared queue for every ring that takes it; a full queue of 64 loses it (R549, R550). -/
def soot (s : State) (type : Nat) (who : Option (Nat × Nat)) (payload : BitVec 128) : State :=
  let x : SootRec := { time := atime s, type := type, block := who.isNone, epoch := s.obs.epoch % 16,
                       part := (who.getD (0, 0)).1, cls := (who.getD (0, 0)).2, payload := payload }
  s.obs.rings.foldl (fun t kv =>
    if ringTakes kv.2 x then
      if t.obs.sootQ.length < 64 then modObs t fun o => { o with sootQ := o.sootQ ++ [(kv.1, x)] }
      else modObs t fun o =>
        { o with rings := smMod {} o.rings kv.1 fun r => { r with lostNow := r.lostNow + 1, lost := r.lost + 1 } }
    else t) s

/-- A payload from (bit offset, value) parts. -/
def payload (parts : List (Nat × Nat × Nat)) : BitVec 128 :=
  BitVec.ofNat 128 (parts.foldl (fun w p => w ||| ((p.2.2 % 2 ^ p.2.1) <<< p.1)) 0)

/-- FIRING record (R549): spool, sequence, program, new state, status, epoch (the state's number: DESIGN CHOICE, log entry 80). -/
def sootFiring (s : State) (p cls spool seq prog st status epoch : Nat) : State :=
  soot s 1 (some (p, cls)) (payload [(0, 32, spool), (32, 32, seq), (64, 16, prog), (80, 8, Config.openCode 0 st), (88, 8, status), (96, 32, epoch)])

/-- PICK record (R549). -/
def sootPick (s : State) (p cls spool seq opc done status tag : Nat) : State :=
  soot s 2 (some (p, cls)) (payload [(0, 32, spool), (32, 32, seq), (64, 8, opc), (72, 8, done), (80, 8, status), (96, 32, tag)])

/-- STEP record (R549). -/
def sootStep (s : State) (p ctx ev cause epoch clip fences : Nat) : State :=
  soot s 3 (some (p, 0)) (payload [(0, 8, ctx), (8, 8, ev), (16, 8, cause), (32, 32, epoch), (64, 32, clip), (96, 32, fences)])

/-- LINK record (R549). -/
def sootLink (s : State) (port module peer kind old new : Nat) : State :=
  soot s 4 none (payload [(0, 8, port), (8, 8, module), (16, 16, peer), (32, 8, kind), (40, 8, old), (48, 8, new)])

/-- TIME record (R549): offset after the event; `kind` 1 load, 2 LOCKED set, 3 LOCKED cleared, 4 SLIP, which the record
numbers as the implementation does (DESIGN CHOICE, log entry 80). -/
def sootTime (s : State) (kind : Nat) : State :=
  soot s 7 none (payload [(0, 64, s.obs.ofs.toNat), (64, 8, Config.openCode 1 kind)])

/-- BREAK record (R549). -/
def sootBreak (s : State) (brk ev ckpt spool seq epoch : Nat) : State :=
  soot s 9 none (payload [(0, 8, brk), (8, 8, ev), (16, 16, ckpt), (32, 32, spool), (64, 32, seq), (96, 32, epoch)])

/-! ### Pins and alerts -/

/-- A partition has an enabled and permitted cause set (R491). -/
def partAlertOn (s : State) (p : Nat) : Bool :=
  ((part s p).alert &&& pageF s p 0x040 32 7) != 0 && pageF s p 0x048 0 1 == 1

/-- The fireback has an enabled cause set (R491). -/
def fbAlertOn (s : State) : Bool := (s.fb.alertCause &&& regF s 0xF00100 32 8) != 0

/-- ALERT_N is low (R491). -/
def alertNLow (s : State) : Bool := fbAlertOn s || s.parts.any fun kv => partAlertOn s kv.1

/-- FAULT_N is low: a cause set, the start-up not complete after release, or the cores halted (R489, R490). -/
def faultNLow (s : State) : Bool :=
  s.fb.faultCause != 0 || s.fb.lockstep || (!s.clk.coldLow && s.clk.pgFb && !s.fb.ready)

/-- What an outward pin does (R615): low, high, high impedance, idle, or as its own chapter says of service. -/
inductive PinLvl where
  | low | high | highZ | idle | working
deriving DecidableEq, Repr

/-- The outward pins of R615: the transmitters of each hearth and flue module, the boot flash port, MG_SDA, TDO, FAULT_N and
ALERT_N, and the transmitters of the TSV channels. -/
structure Pins where
  hearthTx : Nat → PinLvl
  flueTx : Nat → PinLvl
  bfCk : PinLvl
  bfCsN : PinLvl
  bfRstN : PinLvl
  bfDq : PinLvl
  mgSda : PinLvl
  tdo : PinLvl
  faultN : PinLvl
  alertN : PinLvl
  tsvTx : PinLvl

/-- The block is unpowered or held in cold reset (R5, R508). -/
def heldReset (s : State) : Bool := s.clk.coldLow || !s.clk.pgFb || !s.clk.pgBase

/-- The outward pins of the block: in cold reset or unpowered each at its level of R615; after a rung-4 halt the same, but for those
of the boot flash port, the management port, the TAP, FAULT_N and ALERT_N, which work (R5, R489, R583, R615). A module that is DOWN
has its transmitters off. -/
def pinsOf (s : State) : Pins :=
  let cold := heldReset s
  let idle := cold || s.flt.halted
  let tx (p : SMap PModule) (m : Nat) : PinLvl := if idle || (smGet {} p m).st == ModS.down then .highZ else .working
  let od (low : Bool) : PinLvl := if !cold && low then .low else .highZ
  let live (lvl : PinLvl) : PinLvl := if cold then lvl else .working
  { hearthTx := tx s.ports.hp
    flueTx := tx s.ports.fl
    bfCk := live .low
    bfCsN := live .high
    bfRstN := live .low
    bfDq := live .highZ
    mgSda := live .highZ
    tdo := live .highZ
    faultN := od (faultNLow s)
    alertN := od (alertNLow s)
    tsvTx := if idle then .idle else .working }

/-- Drive ALERT_N; at a fall with in-band interrupts enabled, raise one with its byte (R492, R626). -/
def driveAlert (s : State) : State :=
  let low := alertNLow s
  if low && !s.mgmt.alertLow then
    let byte := b2n (fbAlertOn s) + 2 * b2n (s.parts.any fun kv => partAlertOn s kv.1)
    modMgmt s fun m =>
      { m with
        alertLow := true
        ibiPend := if m.ibi && m.dyn.isSome then some byte else m.ibiPend }
  else modMgmt s fun m => { m with alertLow := low }

/-- Set cause `bit` of a partition's PRT_ALERT (R611). -/
def partAlert (s : State) (p bit : Nat) : State :=
  driveAlert (modPart s p fun x => { x with alert := x.alert ||| 2 ^ bit })

/-- Set fireback ALERT_N causes (R491). -/
def fbAlert (s : State) (mask : Nat) : State :=
  driveAlert { s with fb := { s.fb with alertCause := s.fb.alertCause ||| mask } }

/-- Set FAULT_N causes (R490). -/
def fbFault (s : State) (mask : Nat) : State :=
  { s with fb := { s.fb with faultCause := s.fb.faultCause ||| mask } }

/-! ### Events to the fireback -/

/-- An event with nothing but its code, class and rule; every other field is all ones (R562). -/
def evt (s : State) (code : Nat) (cls : FClass) (rule : Nat) : FEvent :=
  { code := code, cls := cls, causes := 0, alerts := 0, part := none, die := 0xFF, pos := 0xFF, pair := 0xFF,
    module := 0xFF, peer := 0xFFFF, rule := rule, gtc := s.clk.gtc.toNat, addr := 2 ^ 64 - 1, detA := 2 ^ 32 - 1,
    detB := 2 ^ 64 - 1, keep := false }

/-- Report channels (R468, R559). -/
def chHearth : Nat := 0
def chFlue : Nat := 1
def chSched : Nat := 2
def chHob : Nat := 3
def chWarp : Nat := 4
def chStep : Nat := 5
def chSpool : Nat := 7
def chTwin : Nat := 9
def chBoot : Nat := 10
def chFb : Nat := 11

/-- Report an event on a channel of 64 events; a full channel counts it lost (R559). -/
def report (s : State) (ch : Nat) (e : FEvent) : State :=
  let q := smGet [] s.flt.chans ch
  if q.length < 64 then { s with flt := { s.flt with chans := smSet s.flt.chans ch (q ++ [e]) } }
  else { s with flt := { s.flt with lost := s.flt.lost + 1, chanLost := smMod 0 s.flt.chanLost ch (· + 1) } }

/-- Row of R312 that holds a control word, and its number in its structure. -/
def ctlRow : CtlWord → Nat × Nat
  | .creel k => (12, k)
  | .damper p => (12, p)
  | .partition p => (12, p)
  | .stoker c => (12, c)
  | .stepCtx k => (10, k)
  | .region i => (10, i)
  | .sampler k => (11, k)

/-- An uncorrectable error in a control structure: the block accepts no further request and records the structure, by its row of
R312, and the place; the fireback takes the block-reset rung when it handles the event (R313; the numbers are the model's, DESIGN
CHOICE, log entry 30). -/
def ctlFail (s : State) (row place : Nat) : State :=
  report { s with flt := { s.flt with ctlStop := true } } chWarp
    { evt s 0x0301 .block 313 with addr := place, detA := row, causes := 4, keep := true }

/-- Go on with control words read: the first that is uncorrectable stops the block (R312, R313). -/
def withCtl (s : State) (ws : List CtlWord) (f : State → State) : State :=
  match ws.find? s.flt.ctl.contains with
  | some w => ctlFail s (ctlRow w).1 (ctlRow w).2
  | none => f s

/-- An unauthenticated write of an RWF field, or a write to another address of the fireback sub-window: recorded with
its port and partition (R11, R469, R564 code 0x0801). The numbers of the ports, 0 hearth, 1 flue and 2 management, are the model's:
R564 says only that Detail A is the port (DESIGN CHOICE, log entry 26). -/
def reportRwf (s : State) (rq : Requester) (off : Nat) : State :=
  let port : Nat := match rq with
    | .hearth _ _ _ => 0
    | .flue _ _ => 1
    | .mgmt => 2
  report s chFb { evt s 0x0801 .info 11 with part := rqPart rq, addr := off, detA := port }

/-! ### Dampers -/

/-- The three metered resources (R452). -/
inductive Res where
  | hearth | hob | flue
deriving DecidableEq, Repr

def level (x : Part) : Res → Int
  | .hearth => x.lvlHearth
  | .hob => x.lvlHob
  | .flue => x.lvlFlue

/-- Saturate to a signed 48-bit level (R454). -/
def sat48 (v : Int) : Int := max (-(2 ^ 47 : Int)) (min (2 ^ 47 - 1) v)

def setLevel (x : Part) (r : Res) (v : Int) : Part :=
  match r with
  | .hearth => { x with lvlHearth := sat48 v }
  | .hob => { x with lvlHob := sat48 v }
  | .flue => { x with lvlFlue := sat48 v }

/-- Threshold of a class (R455). -/
def threshold (s : State) (p : Nat) (r : Res) (cls : Nat) : Int :=
  match r with
  | .hob => 0
  | _ => if cls = 0 then -(pageF s p 0x118 16 16 : Int) else if cls = 3 then (pageF s p 0x118 32 20 : Int) else 0

/-- The partition holds tokens for a class (R455). -/
def holdsTokens (s : State) (p : Nat) (r : Res) (cls : Nat) : Bool := threshold s p r cls < level (part s p) r

def pool (s : State) : Res → Nat
  | .hearth => s.poolHearth
  | .hob => s.poolHob
  | .flue => s.poolFlue

def setPool (s : State) (r : Res) (v : Nat) : State :=
  match r with
  | .hearth => { s with poolHearth := v }
  | .hob => { s with poolHob := v }
  | .flue => { s with poolFlue := v }

/-- Count a charge in the partition's totals (R600 OBS_PCNT). -/
def noteCharge (s : State) (p : Nat) (r : Res) (q : Nat) : State :=
  modPart s p fun x => match r with
    | .hearth => { x with chHearth := (x.chHearth + q) % 2 ^ 64 }
    | .hob => { x with chHob := (x.chHob + q) % 2 ^ 64 }
    | .flue => { x with chFlue := (x.chFlue + q) % 2 ^ 64 }

/-- Make a charge that is never held (R456). -/
def charge (s : State) (p : Nat) (r : Res) (q : Nat) : State :=
  noteCharge (modPart s p fun x => setLevel x r (level x r - q)) p r q

/-- Admit a request of class `cls` with charge `q`, or none where it waits (R454, R457). -/
def damperTake (s : State) (p : Nat) (r : Res) (cls q : Nat) : Option State :=
  if holdsTokens s p r cls then some (charge s p r q)
  else if pageF s p 0x118 0 1 = 1 ∧ q ≤ pool s r then some (noteCharge (setPool s r (pool s r - q)) p r q)
  else none

/-! ### RETAIN (R509 to R511) -/

/-- An exit cause of RETAIN: the tiles power up (R509, R511). -/
def retainExit (s : State) : State :=
  if s.clk.pst = .retain then modClk s fun c => { c with pst := .retainExit } else s

/-- The tiles sleep: RETAIN, until its exit ends (R509, R510). -/
def tilesSleep (s : State) : Bool := s.clk.pst == .retain || s.clk.pst == .retainExit

/-! ### Trim reference (R500) -/

/-- The trim reference that a setting of REF_SEL uses now: 1 REFCLK, 2 MARK, 3 HOLD (R500). -/
def refActiveFor (s : State) (sel : Nat) : Nat :=
  match sel with
  | 0 => if s.clk.refReady then 1 else if !s.ports.markLost then 2 else 3
  | 1 => 1
  | 2 => 2
  | _ => 3

/-- Follow the automatic rule of REF_SEL (R500, R501). -/
def refFollow (s : State) : State := modClk s fun c => { c with refActive := refActiveFor s (regF s 0x50010 0 2) }

/-! ### Free values -/

/-- Take a fresh free value (an open bit pattern), and the state that has taken it (log entry 57). -/
def takeFree (s : State) : BitVec 256 × State :=
  (Config.freeBits s.freeCtr, { s with freeCtr := s.freeCtr + 1 })

end Sys2Proof.Machine
end

