-- ==== Sys2Proof/Machine/Heddle.lean ====
section
/-! DEFINITION. Heddle, the counter-based random generator (R238 to R246, R250). -/

namespace Sys2Proof.Machine

/-- The four words of an evaluation under way. -/
structure HedX where
  x0 : W32
  x1 : W32
  x2 : W32
  x3 : W32
deriving DecidableEq, Repr

/-- Word i of a 128-bit value. -/
def hedWord (v : BitVec 128) (i : Nat) : W32 := v.extractLsb' (32 * i) 32

/-- The five key words (R240). -/
def hedKey (key : BitVec 128) (i : Nat) : W32 :=
  if i < 4 then hedWord key i
  else hedWord key 0 ^^^ hedWord key 1 ^^^ hedWord key 2 ^^^ hedWord key 3 ^^^ 0x5a3c96e1

/-- Inject the key, step `n` (R240). -/
def hedInject (key : BitVec 128) (n : Nat) (x : HedX) : HedX :=
  let k (i : Nat) : W32 := hedKey key ((n + 2 * i) % 5)
  let y : HedX := ⟨x.x0 + k 0, x.x1 + k 1, x.x2 + k 2, x.x3 + k 3⟩
  let c : W32 := 0x51d7348b * BitVec.ofNat 32 (n + 1)
  match n % 4 with
  | 0 => { y with x0 := y.x0 ^^^ c }
  | 1 => { y with x1 := y.x1 ^^^ c }
  | 2 => { y with x2 := y.x2 ^^^ c }
  | _ => { y with x3 := y.x3 ^^^ c }

/-- A straight and a crossed round, then an injection (R240). -/
def hedPair (key : BitVec 128) (a b c d n : Nat) (x : HedX) : HedX :=
  let p0 := x.x0 + x.x1
  let p1 := x.x1.rotateLeft a ^^^ p0
  let p2 := x.x2 + x.x3
  let p3 := x.x3.rotateLeft b ^^^ p2
  let q0 := p0 + p3
  let q3 := p3.rotateLeft c ^^^ q0
  let q2 := p2 + p1
  let q1 := p1.rotateLeft d ^^^ q2
  hedInject key n ⟨q0, q1, q2, q3⟩

/-- One evaluation (R240). -/
def heddle (key ctr : BitVec 128) : BitVec 128 :=
  let x0 := hedInject key 0 ⟨hedWord ctr 0, hedWord ctr 1, hedWord ctr 2, hedWord ctr 3⟩
  let x1 := hedPair key 9 22 28 5 1 x0
  let x2 := hedPair key 14 19 3 25 2 x1
  let x3 := hedPair key 20 11 6 27 3 x2
  let x4 := hedPair key 17 8 24 13 4 x3
  x4.x3 ++ x4.x2 ++ x4.x1 ++ x4.x0

/-- The counter of a position, stream, purpose and epoch (R239). -/
def hedCtr (position stream purpose epoch : Nat) : BitVec 128 :=
  BitVec.ofNat 128 (position % 2 ^ 64 + stream % 2 ^ 32 * 2 ^ 64 + epoch % 2 ^ 24 * 2 ^ 96 + purpose % 2 ^ 8 * 2 ^ 120)

/-- The 16-bit draw i of an evaluation (R240). -/
def hedDraw (h : BitVec 128) (i : Nat) : Nat := bitsAt h.toNat (16 * i) 16

/-- The draw of the element with parameter index `p` (R113, R187). -/
def paramDraw (key : BitVec 128) (p stream epoch : Nat) : Nat :=
  hedDraw (heddle key (hedCtr (p % 2 ^ 64 / 8) stream 1 epoch)) (p % 8)

/-- The partition key that the fireback derives where the hearth image provisions none: the leftmost 64 bits of HMAC-SHA-256
under the root secret over the bytes of "DSK-PKEY" and the partition (R472). -/
def derivedKey (p : Nat) : W64 :=
  BitVec.ofNat 64 (leNat ((hmac (keyBytes Config.rootSecret)
    ([0x44, 0x53, 0x4B, 0x2D, 0x50, 0x4B, 0x45, 0x59] ++ leBytes 2 p)).take 8))

/-- The partition key in force: provisioned or set by command, else derived (R472). -/
def pkeyOf (s : State) (p : Nat) : W64 := (smFind s.fb.pkeys p).getD (derivedKey p)

/-- The key of a partition: its seed and its partition key (R238). -/
def partKey (s : State) (p : Nat) : BitVec 128 := pkeyOf s p ++ regRd s (pageBase p + 0x200)

/-- Byte b of the mask (q, t) of a partition (R250). -/
def maskByte (s : State) (p q t b : Nat) : Byte :=
  let h := heddle (partKey s p) (hedCtr (q * 2 ^ 48 + b) t 2 (pageF s p 0x208 0 24))
  let thr := pageF s p (0x240 + 8 * (q / 2)) (32 * (q % 2)) 17
  BitVec.ofNat 8 ((List.range 8).foldl (fun v i => v + b2n (hedDraw h i < thr) * 2 ^ i) 0)

end Sys2Proof.Machine
end

