-- ==== Sys2Proof/Machine/PortOps.lean ====
section
/-! DEFINITION. Packets, modules, transactions, completions and violations of the two ports (R350 to R367, R376 to
R381, R395). -/

namespace Sys2Proof.Machine

/-! ### Header fields (R353, R355, R376) -/

def hdrF (h : BitVec 256) (lo w : Nat) : Nat := bitsAt h.toNat lo w
def hOpc (h : BitVec 256) : Nat := hdrF h 0 8
def hLong (h : BitVec 256) : Bool := hdrF h 8 1 == 1
def hPosted (h : BitVec 256) : Bool := hdrF h 9 1 == 1
def hCls (h : BitVec 256) : Nat := hdrF h 10 2
def hVc (h : BitVec 256) : Nat := hdrF h 12 2
def hPart (h : BitVec 256) : Nat := hdrF h 16 10
def hSrc (h : BitVec 256) : Nat := hdrF h 32 8
def hTag (h : BitVec 256) : Nat := hdrF h 40 16
def hLen (h : BitVec 256) : Nat := hdrF h 56 8
def hAddr (h : BitVec 256) : Nat := hdrF h 64 48
def hStatus (h : BitVec 256) : Nat := hdrF h 112 8
def hSpeer (h : BitVec 256) : Nat := hdrF h 208 16
def hDpeer (h : BitVec 256) : Nat := hdrF h 224 16
def hSseq (h : BitVec 256) : Nat := hdrF h 240 16

/-- A header from (low bit, width, value) parts. -/
def mkHdr (parts : List (Nat × Nat × Nat)) : BitVec 256 :=
  BitVec.ofNat 256 (parts.foldl (fun w p => w ||| ((p.2.2 % 2 ^ p.2.1) <<< p.1)) 0)

/-- Granules covered by `len` bytes at `addr` (R354). -/
def granulesOf (addr len : Nat) : Nat := if len = 0 then 0 else (addr + len - 1) / 32 - addr / 32 + 1

/-! ### Modules -/

def modOf (s : State) (flue : Bool) (m : Nat) : PModule :=
  smGet {} (if flue then s.ports.fl else s.ports.hp) m

def setModule (s : State) (flue : Bool) (m : Nat) (x : PModule) : State :=
  if flue then modPorts s fun p => { p with fl := smSet p.fl m x }
  else modPorts s fun p => { p with hp := smSet p.hp m x }

def modModule (s : State) (flue : Bool) (m : Nat) (f : PModule → PModule) : State :=
  setModule s flue m (f (modOf s flue m))

/-- Number of a module state in HP_MOD_STAT.STATE (R594). -/
def modSNum : ModS → Nat
  | .down => 0 | .train => 1 | .param => 2 | .credit => 3 | .up => 4 | .retrain => 5 | .failed => 6

/-- Move a module to a state, with its LINK soot record (R549). -/
def setModS (s : State) (flue : Bool) (m : Nat) (st : ModS) : State :=
  let old := (modOf s flue m).st
  let s1 := modModule s flue m fun x => { x with st := st }
  if old = st then s1 else sootLink s1 (b2n flue) m 0xFFFF 0 (modSNum old) (modSNum st)

/-- Initial credits that the block advertises, by credit index (R359, R381). -/
def blockInit (flue : Bool) (i : Nat) : Nat :=
  if i < 4 then 64 else if i < 8 then 512
  else if flue then match i with
    | 8 => 128 | 9 => 1024 | 10 => 64 | 11 => 64 | 12 => 128 | 13 => 4096 | _ => 0
  else 0

/-- Least initial credits the partner must advertise (R359, R381). -/
def partnerMin (flue : Bool) (i : Nat) : Nat :=
  if flue then
    if i < 4 then 32 else if i < 8 then 256 else match i with
      | 8 => 128 | 9 => 1024 | 10 => 32 | 11 => 32 | 12 => 64 | 13 => 2048 | _ => 0
  else match i with
    | 8 => 128 | 9 => 1024 | 14 => 8 | 15 => 16 | _ => 0

/-- The credit indices of a port's partner. -/
def partnerIdx (flue : Bool) : List Nat := if flue then List.range 14 else [8, 9, 14, 15]
def blockIdx (flue : Bool) : List Nat := if flue then List.range 14 else List.range 8

/-! ### Violations (R367, R395) -/

/-- Record the first event of a kind in a module's log; later ones only count until VALID is cleared (R594). -/
def violAdd (v : SMap Viol) (k gtc : Nat) (h : BitVec 256) : SMap Viol :=
  smMod {} v k fun e =>
    if e.valid then { e with count := satAdd 16 e.count 1 }
    else { valid := true, count := satAdd 16 e.count 1, time := gtc % 2 ^ 32, hdr := h }

/-- A violation of kind `k` by the compute die on a hearth module (R367). -/
def violHearth (s : State) (m k : Nat) (h : BitVec 256) : State :=
  modModule s false m fun x => { x with viol := violAdd x.viol k s.clk.gtc.toNat h }

/-- A violation of kind `k` by a flue peer, by its peer-table entry; entry 4096 for frames of no known peer (R395). -/
def violFlue (s : State) (peer k : Nat) (h : BitVec 256) : State :=
  modPorts s fun p =>
    { p with peers := smMod {} p.peers peer fun x => { x with viol := violAdd x.viol k s.clk.gtc.toNat h } }

/-! ### Peers -/

/-- The peer-table entry of a peer ID (R374). -/
def peerOf (s : State) (id : Nat) : Option (Nat × Peer) :=
  s.ports.peers.find? fun kv => kv.1 < 4096 && kv.2.id == id && kv.2.enabled

def modPeer (s : State) (k : Nat) (f : Peer → Peer) : State :=
  modPorts s fun p => { p with peers := smMod {} p.peers k f }

/-- A module carries frames: UP and LIT (R375, R382). -/
def modLive (s : State) (m : Nat) : Bool :=
  let x := modOf s true m
  x.st == .up && x.light == .lit

/-- The anchor of a peer: the lowest module of its set that is UP and LIT (R375). -/
def anchorOf (s : State) (p : Peer) : Option Nat :=
  (List.range 16).find? fun m => bitAt p.mods m && modLive s m

/-- Number of a session state in FL_PEER_STAT.SESSION (R595). -/
def sessNum : Sess → Nat
  | .closed => 0 | .helloSent => 1 | .open => 2 | .unreachable => 3 | .refused => 4

def setSess (s : State) (k : Nat) (st : Sess) : State :=
  let old := (smGet ({} : Peer) s.ports.peers k)
  let s1 := modPeer s k fun p => { p with sess := st }
  if old.sess = st then s1 else sootLink s1 1 0xFF old.id 2 (sessNum old.sess) (sessNum st)

/-- Bytes of the transpose carve-out that an RSP_TILE holds (R234, R358). -/
def tileBytes (h : BitVec 256) : Nat := if hOpc h = 0x83 then hdrF h 128 16 else 0

/-- Bytes of a packet in slots, its header slot among them. -/
def pktBytes (p : Pkt) : Nat := 32 * (1 + p.data.length)

/-- Bytes queued on the flue in egress group `g` (R541). -/
def egQueued (s : State) (g : Nat) : Nat :=
  (s.ports.fl.flatMap fun kv => (kv.2.egress.filter fun e => e.grp == g).map fun e => pktBytes e.pkt).foldl (· + ·) 0

/-- Requests in the buffer of a module's channel (R541). -/
def bufHeld (s : State) (flue : Bool) (m vc : Nat) : Nat :=
  (s.ports.waitQ.flatMap fun kv => kv.2.filter fun w => w.flue == flue && w.module == m && hVc w.pkt.hdr == vc).length

/-- Hob register accesses that wait for their weft bus (R34, R605). -/
def weftWaits (s : State) : Nat := smCount s.ports.waitQ fun _ l => l.any fun w => w.why == .weft

/-- CUR of the observed queue that a select names (R541, R600). -/
def queueCur (s : State) (key : Nat) : Nat :=
  let die := bitsAt key 8 4
  let pos := bitsAt key 12 5
  let k := bitsAt key 17 2
  let p := pairAt s die pos
  match key % 32 with
  | 1 => (p.q.filter fun r => r.cls == 0).length
  | 2 => (p.q.filter fun r => r.cls == k).length
  | 3 => bufHeld s false pos k
  | 4 => bufHeld s true pos k
  | 5 => match k with
    | 0 => egQueued s 3
    | 1 => egQueued s 4 + s.str.twinBytes
    | 2 => egQueued s 5
    | _ => egQueued s 1
  | 7 => weftWaits s
  | 8 => s.spl.cache.length
  | 9 => smCount s.spl.picks fun _ x => match x.st with
    | .done _ _ _ => false
    | _ => true
  | 10 => smCount s.fir.all fun _ x => x.slot.isSome
  | 11 => s.tposeUsed
  | 12 => (smGet ({} : StepCtx) s.stp.ctxs (die * 32 + pos)).ash.length
  | 13 => p.scrub.length
  | 14 => s.smp.wait.length
  | 15 => smCount s.fb.mbox fun _ x => x.st == .pending
  | _ => 0

/-- Note the occupancy that a queue has now. -/
def qBump (s : State) (key : Nat) : State := qNote s key (queueCur s key)

/-- Stream kind of an egress group, as OBS_Q_SEL.SUB names it (R541). -/
def grpSub : Nat → Option Nat
  | 1 => some 3 | 3 => some 0 | 4 => some 1 | 5 => some 2 | _ => none

/-- Queue a frame for a peer on module `m` (R394). -/
def egressAdd (s : State) (flue : Bool) (m : Nat) (e : EgPkt) : State :=
  let s1 := modModule s flue m fun x => { x with egress := x.egress ++ [e] }
  match (if flue then grpSub e.grp else none) with
  | some k => qBump s1 (qKey 5 0 0 k 0)
  | none => s1

/-- The modules of a peer's set that carry frames (R375). -/
def liveMods (s : State) (p : Peer) : List Nat := (List.range 16).filter fun m => bitAt p.mods m && modLive s m

/-- Data slots queued on a flue module (R394). -/
def slotsQueued (s : State) (m : Nat) : Nat := ((modOf s true m).egress.map fun e => e.pkt.data.length).foldl (· + ·) 0

/-- PARTITION of a frame to a peer: the partition of the block that receives it (R376), which the manual gives the sender no way
to learn, so its value is left open (DESIGN CHOICE, log entry 82). -/
def peerPart (id : Nat) : Nat := Config.openCode 9 id % 1024

/-- Queue an ordered frame for a peer on its anchor (R375, R394); without an anchor nothing leaves. Its session sequence
is set as it leaves (R378). It is charged to a partition's flue damper and never held (R456). -/
def sendOrd (s : State) (k opc : Nat) (parts : List (Nat × Nat × Nat)) (data : List Datum) (len : Nat) (p : Option Nat) :
    State :=
  let pr := smGet ({} : Peer) s.ports.peers k
  match anchorOf s pr with
  | none => s
  | some m =>
    let h := mkHdr ([(0, 8, opc), (8, 1, 1), (16, 10, peerPart pr.id), (56, 8, len), (208, 16, s.ports.peerId),
      (224, 16, pr.id)] ++ parts)
    let s1 := match p with
      | some q => charge s q .flue (32 * (1 + data.length))
      | none => s
    egressAdd s1 true m { pkt := ⟨h, data⟩, cls := 0, part := p.getD 0, grp := 1, peer := some k }

/-- Count a refusal in the page of the request's partition (R357, R610). -/
def countRefused (s : State) (p status : Nat) (posted : Bool) : State :=
  if status = 0 then s else
    modPart s p fun x =>
      { x with
        refused := smMod 0 x.refused status (· + 1)
        posted := x.posted + b2n posted }

/-! ### Register accesses -/

/-- A register access is charged 32 bytes to the partition that the requester presents (R452); as a request or doorbell it ends
RETAIN (R511). -/
def accessCharge (s : State) (rq : Requester) : State :=
  match rqPart rq with
  | some p => charge (retainExit s) p .hearth 32
  | none => s

/-- Status with which the ports refuse a requester's register access before it reaches a register: the block not in service,
or a partition that is not ACTIVE or that it may not present (R357, R447); 0 otherwise. -/
def rqStatus (s : State) (rq : Requester) : Nat :=
  match rqPart rq with
  | none => 0
  | some p => if s.boot.st ≠ .service then 9 else if active s p && mayPresent s rq p then 0 else 2

/-- A register access by a requester: charged and performed, or refused and counted in its partition's page (R357, R452). -/
def portAccess (s : State) (rq : Requester) (f : State → State) : State :=
  match rqPart rq with
  | none => f s
  | some p => if rqStatus s rq = 0 then f (accessCharge s rq) else countRefused s p (rqStatus s rq) false

/-- The requester may reach the registers that R591 opens only to the management port and to partitions with OBSERVE. -/
def regAllowed (s : State) (rq : Requester) : Bool :=
  match rqPart rq with
  | some p => rightObserve s p
  | none => true

/-- The requester may reach the observation sub-window (R539). -/
def obsAllowed (s : State) (rq : Requester) : Bool :=
  match rq with
  | .mgmt => true
  | .hearth _ _ p => active s p && rightObserve s p
  | .flue _ _ => false

/-- Act where the requester may, and count a stray access where it may not (R539, R591). -/
def guarded (s : State) (rq : Requester) (ok : Bool) (f : State → State) : State := if ok then f s else strayPage s rq

/-- The bits that a write of `len` bytes reaches: all of a word, or its low or high half (R8). -/
def wMask (len : Nat) (hi : Bool) : W64 :=
  if len = 8 then BitVec.allOnes 64 else if hi then put 32 32 0xFFFFFFFF else put 0 32 0xFFFFFFFF

/-- The value under the mask of a write of `len` bytes. -/
def wVal (len : Nat) (hi : Bool) (v : W64) : W64 := if len = 4 && hi then v <<< 32 else v

/-- A word with masked bits replaced. -/
def wMerge (old mask v : W64) : W64 := (old &&& ~~~ mask) ||| (v &&& mask)

/-! ### Completions -/

/-- Build a completion header (R353, R355, R357; long on the flue, R376, R377). -/
def rspHdr (s : State) (flue : Bool) (h : BitVec 256) (opc status len : Nat) : BitVec 256 :=
  mkHdr ([(0, 8, opc), (10, 2, hCls h), (12, 2, hVc h), (16, 10, if flue then peerPart (hSpeer h) else hPart h), (40, 16, hTag h), (56, 8, len),
          (64, 48, hAddr h), (112, 8, status)] ++
    (if flue then [(8, 1, 1), (208, 16, s.ports.peerId), (224, 16, hSpeer h)] else [(32, 8, hSrc h)]))

/-- Return a completion of a request, or count it where the request was posted (R327, R357); a response to a peer is charged
to the partition's flue damper (R380, R452). -/
def complete (s : State) (flue : Bool) (m : Nat) (h : BitVec 256) (status : Nat) (data : List Datum) : State :=
  let s1 := countRefused s (hPart h) status (hPosted h)
  if hPosted h then
    if status = 0 then s1
    else
      let s2 := if flue then s1 else violHearth s1 m 8 h
      partAlert s2 (hPart h) 2
  else
    let opc := if status ≠ 0 then 0x82 else if data.isEmpty then 0x81 else 0x80
    let pk : Pkt := ⟨rspHdr s1 flue h opc status (if status = 0 then (if data.isEmpty then 0 else hLen h) else 0), data⟩
    if flue then
      match peerOf s (hSpeer h) with
      | none => s1
      | some (k, pr) =>
        match (if pr.sess = .open then anchorOf s pr else none) with
        | none => s1
        | some a =>
          egressAdd (charge s1 (hPart h) .flue (32 * (1 + data.length))) true a
            { pkt := pk, cls := hCls h, part := hPart h, grp := 2, peer := some k }
    else egressAdd s1 false m { pkt := pk, cls := hCls h, part := hPart h, grp := 2, peer := none }

/-- Complete a request, or discard the completion of one whose link or session was lost (R365, R386). -/
def reply (s : State) (mute flue : Bool) (m : Nat) (h : BitVec 256) (status : Nat) (data : List Datum) : State :=
  if mute then countRefused s (hPart h) status (hPosted h) else complete s flue m h status data

/-- Free credits of a module: they are due to the partner, which may use them once a CREDIT header has returned them (R360). -/
def freeCred (s : State) (flue : Bool) (m : Nat) (cs : List (Nat × Nat)) : State :=
  let add (t : SMap Nat) : SMap Nat := cs.foldl (fun t c => if c.2 = 0 then t else smMod 0 t c.1 (· + c.2)) t
  modModule s flue m fun x => { x with credDue := add x.credDue }

/-- Credits that a request packet takes: its header and its data slots (R359). -/
def reqCred (p : Pkt) : List (Nat × Nat) := [(hVc p.hdr, 1), (4 + hVc p.hdr, p.data.length)]

/-- Discard the completions of the accepted requests that `who` names by port, module and header; `lost` where the module's
link is gone, and their credits with it (R344, R365, R386). -/
def muteReqs (s : State) (lost : Bool) (who : Bool → Nat → BitVec 256 → Bool) : State :=
  let s1 := modPorts s fun p =>
    { p with
      txns := smMap p.txns fun _ t => if who t.flue t.module t.hdr then { t with mute := true } else t
      fences := p.fences.map fun f => if who f.flue f.module f.hdr then { f with mute := true } else f
      waitQ := smMap p.waitQ fun _ l => l.map fun w =>
        if who w.flue w.module w.pkt.hdr then { w with mute := true, cred := w.cred && !lost } else w }
  let s2 := modStp s1 fun t =>
    { t with
      acc := smMap t.acc fun _ a => match a.from_ with
        | some q => if who q.1 q.2.1 q.2.2 then { a with from_ := none } else a
        | none => a
      fences := smMap t.fences fun _ f => if who f.flue f.module f.hdr then { f with mute := true } else f }
  { s2 with treads := smMap s2.treads fun _ t => if who false t.module t.hdr then { t with mute := true } else t }

/-! ### Channels and transactions -/

/-- Key of a request channel: an agent and its virtual channel on the hearth, a module and its channel on the flue
(R328, R366, R381). -/
def chanKey (flue : Bool) (m : Nat) (h : BitVec 256) : Nat :=
  if flue then 0x10000 + m * 4 + hVc h else hSrc h * 4 + hVc h

/-- Some earlier write of the channel is not yet visible (R328). -/
def chanWrites (s : State) (chan : Nat) : Bool :=
  (s.ports.txns.any fun kv => kv.2.chan == chan && kv.2.isWrite) || s.stp.acc.any fun kv => kv.2.chan == chan

/-- Open a transaction for a request and give its number. -/
def openTxn (s : State) (flue : Bool) (m : Nat) (h : BitVec 256) (isWrite : Bool) (left : Nat) : Nat × State :=
  let n := s.ports.nextTxn
  let t : Txn := { flue := flue, module := m, hdr := h, chan := chanKey flue m h, isWrite := isWrite, left := left,
                   data := [], failed := false, mute := false }
  (n, modPorts s fun p => { p with txns := smSet p.txns n t, nextTxn := n + 1 })

/-- Ember demotion of an arriving request: without the EMBER right it is carried as flame and counted in the page
(R363); beyond a cap of R280 it is carried as flame and counted in SCH_STAT. `bytes` are its ingress, `eg` its hearth
egress, and `legs` the bytes it takes of the dies' TSV channels, by key 2 × die + direction (0 up, 1 down). The class it is
carried in. -/
def carriedClass (s : State) (flue : Bool) (h : BitVec 256) (bytes eg : Nat) (legs : List (Nat × Nat)) : Nat × State :=
  if hCls h ≠ 0 then (hCls h, s)
  else if !rightEmber s (hPart h) then
    (1, pmcEvent (modPart s (hPart h) fun x => { x with emberDem := x.emberDem + 1 }) 0x05 (some (hPart h)) (some 0)
      .none 1)
  else
    let used := if flue then s.sched.embFl else s.sched.embIn
    let cap := regF s 0x30048 0 8
    let tsv := legs.foldl (fun m l => smMod 0 m l.1 (· + l.2)) s.sched.embTsv
    if used + bytes ≤ 4096000 * cap / 256 ∧ s.sched.embEg + eg ≤ 4096000 * cap / 256
        ∧ legs.all (fun l => smGet 0 tsv l.1 ≤ 256000 * cap / 256) then
      (0, modSched s fun c =>
        let d := { c with embEg := c.embEg + eg, embTsv := tsv }
        if flue then { d with embFl := used + bytes } else { d with embIn := used + bytes })
    else
      (1, pmcEvent (modSched s fun c => { c with emberDem := c.emberDem + 1 }) 0x05 (some (hPart h)) (some 0) .none 1)

end Sys2Proof.Machine
end

