-- ==== Sys2Proof/Machine/SchedOps.lean ====
section
/-! DEFINITION. The scheduler's queues, energy and grant order (R273 to R291, R326). -/

namespace Sys2Proof.Machine

/-- A request writes. -/
def colWrites : ColOp → Bool
  | .read _ => false
  | .write _ _ => true
  | .merge _ _ => true
  | .hobLd _ _ _ => false
  | .hobSt _ _ _ => true
  | .acc _ _ => true

/-- A request belongs to a write group (R281); the read-add-write of an ACCW reads first. -/
def colGroups : ColOp → Bool
  | .acc _ _ => false
  | op => colWrites op

/-- The pair-local offsets of the granules that a request touches. -/
def colGrans (r : ColReq) : List Nat :=
  ((List.range r.n).map fun i => r.off + 32 * i) ++ match r.op with
    | .acc _ tag => [tag]
    | _ => []

/-- Two requests of a pair touch a common granule. -/
def colOverlap (a b : ColReq) : Bool := (colGrans a).any fun x => (colGrans b).any fun y => x / 32 == y / 32

/-- Two loads of one hob, which land in program order (R68). -/
def bothLoads (a b : ColReq) : Bool :=
  match a.op, b.op with
  | .hobLd m _ _, .hobLd n _ _ => m == n
  | _, _ => false

/-- A later request may not pass the earlier one: a common granule and a write, a common granule and source, or two loads of
one hob (R68, R278, R326). -/
def colConflict (a b : ColReq) : Bool :=
  (colOverlap a b && (colWrites a.op || colWrites b.op || a.src == b.src)) || bothLoads a b

/-- Put a request in its pair's queue. A pair queues at most eight ember requests; a further one waits at the port
(R280). -/
def enqueueCol (s : State) (die pos : Nat) (r : ColReq) : State :=
  let p := pairAt s die pos
  if r.cls = 0 ∧ 8 ≤ (p.q.filter (fun x => x.cls == 0)).length then
    modSched s fun c => { c with portWait := c.portWait ++ [(pairKey die pos, r)] }
  else
    let s1 := qBump (setPair s die pos { p with q := p.q ++ [r] }) (qKey 2 die pos r.cls 0)
    if r.cls = 0 then qBump s1 (qKey 1 die pos 0 0) else s1

/-- Move waiting ember requests of a pair into its queue while it holds fewer than eight (R280). -/
def refillEmber (s : State) (die pos : Nat) : State :=
  match s.sched.portWait.find? (fun w => w.1 == pairKey die pos) with
  | none => s
  | some w =>
    if ((pairAt s die pos).q.filter (fun x => x.cls == 0)).length < 8 then
      enqueueCol (modSched s fun c => { c with portWait := c.portWait.erase w }) die pos w.2
    else s

/-- The class in which the request at position `i` competes: a request that a later one of higher class conflicts with
is raised to that class (R326). -/
def effCls (q : List ColReq) (i : Nat) : Nat :=
  match q[i]? with
  | none => 4
  | some r => (q.drop (i + 1)).foldl (fun c x => if colConflict r x && x.cls < c then x.cls else c) r.cls

/-- The request at position `i` has not been granted, and is not behind an earlier conflicting one. -/
def colReady (q : List ColReq) (i : Nat) : Bool :=
  match q[i]? with
  | none => false
  | some r => !r.busy && !(q.take i).any fun x => colConflict x r

/-- Number of a source in the rotation (R278). -/
def srcNum : Src → Nat
  | .hearth => 0 | .flue => 1 | .firing => 2 | .accw => 3 | .engine => 4

/-- The first position among `cands` whose source comes first from rotation point `rot`. -/
def rotPick (q : List ColReq) (rot : Nat) (cands : List Nat) : Option Nat :=
  (List.range 5).findSome? fun k => cands.find? fun i => match q[i]? with
    | some r => srcNum r.src == (rot + k) % 5
    | none => false

/-! ### Row groups -/

/-- Row group of a local offset: bank × 2 + bit 0 of the row (R67, R596, R623). -/
def rowGroup (loc : Nat) : Nat := bitsAt loc 5 1 * 2 + bitsAt loc 12 1

def debtOf (p : PairS) : Nat → Int
  | 0 => p.debt0 | 1 => p.debt1 | 2 => p.debt2 | _ => p.debt3

def setDebt (p : PairS) (g : Nat) (d : Int) : PairS :=
  match g with
  | 0 => { p with debt0 := d }
  | 1 => { p with debt1 := d }
  | 2 => { p with debt2 := d }
  | _ => { p with debt3 := d }

def rowOf (p : PairS) : Nat → Option Nat
  | 0 => p.row0 | 1 => p.row1 | 2 => p.row2 | _ => p.row3

def setRow (p : PairS) (g : Nat) (r : Option Nat) : PairS :=
  match g with
  | 0 => { p with row0 := r }
  | 1 => { p with row1 := r }
  | 2 => { p with row2 := r }
  | _ => { p with row3 := r }

/-- Open the row of a local offset in its group: whether the activate is charged now, and the pair after it. An activate made
ahead is charged with its first column (R269, R270, R286). -/
def openRow (p : PairS) (loc : Nat) : Bool × PairS :=
  let g := rowGroup loc
  let row := bitsAt loc 12 15
  if rowOf p g = some row then (p.ahead.contains g, { p with ahead := p.ahead.filter (· != g) })
  else
    let p1 := setRow p g (some row)
    (true, { p1 with ahead := p1.ahead.filter (· != g), closed := p1.closed.filter (· != g) })

/-- Open the rows of several granules: the activates charged, and the pair after them. -/
def openRows (p : PairS) (locs : List Nat) : Nat × PairS :=
  locs.foldl (fun (a : Nat × PairS) loc => let o := openRow a.2 loc; (a.1 + b2n o.1, o.2)) (0, p)

/-- A request that has not been granted touches row `row` of group `g`. -/
def rowWanted (p : PairS) (g row : Nat) : Bool :=
  p.q.any fun r => !r.busy && (colGrans r).any fun x => rowGroup x == g && bitsAt x 12 15 == row

/-- The requests of the pair have left a row: no request waits for it and another row group of its bank has been used, so it
closes, and an aligned refresh may go there (R270, R273, R275; when a row closes is the model's, DESIGN CHOICE, log entry 40). -/
def leaveRow (p : PairS) (loc : Nat) : PairS :=
  let g := rowGroup loc
  let o := if g % 2 = 0 then g + 1 else g - 1
  match rowOf p o with
  | some row => if rowWanted p o row || p.ahead.contains o then p else { setRow p o none with closed := insN p.closed o }
  | none => p

/-- Activate ahead the row of the first request in the queue whose group is idle: its row is not open, no request waits for
the row that is, and no refresh is in progress there (R67, R270). -/
def openAhead (p : PairS) : PairS :=
  let wants := (p.q.filter fun r => !r.busy).flatMap colGrans
  match wants.find? fun x =>
      let g := rowGroup x
      rowOf p g != some (bitsAt x 12 15) && !(p.opLeft != 0 && (p.opGrp == some g || p.opGrp == none))
        && (match rowOf p g with
          | some row => !(rowWanted p g row)
          | none => true) with
  | none => p
  | some x =>
    let g := rowGroup x
    { setRow p g (some (bitsAt x 12 15)) with ahead := insN p.ahead g, closed := p.closed.filter (· != g) }

/-- No refresh or calibration slice in progress stops the request: a refresh stops its row group alone, a calibration slice the
pair (R21, R275, R292). -/
def groupsFree (p : PairS) (r : ColReq) : Bool :=
  p.opLeft == 0 || (match p.opGrp with
    | none => false
    | some g => (colGrans r).all fun x => rowGroup x != g)

/-- The position that arbitration picks among the classes below `lim`: a write while a write group is in progress that it
still fits (R281), otherwise the first non-empty class in order, sources in rotation within it (R278). -/
def colPick (p : PairS) (lim : Nat) : Option Nat :=
  let ready := (List.range p.q.length).filter fun i => colReady p.q i && (match p.q[i]? with
    | some r => groupsFree p r
    | none => false)
  let writes := ready.filter fun i => match p.q[i]? with
    | some r => colGroups r.op && p.wgrp + r.n ≤ 16
    | none => false
  let pool := if 0 < p.wgrp ∧ writes ≠ [] then writes else ready
  (List.range (min 4 lim)).findSome? fun c => rotPick p.q (smGet 0 p.rot c) (pool.filter fun i => effCls p.q i == c)

/-! ### Energy (R283 to R287) -/

def eRd (s : State) : Nat := regF s 0x30050 0 16
def eWr (s : State) : Nat := regF s 0x30050 16 16
def eAct (s : State) : Nat := regF s 0x30050 32 16
def eRef (s : State) : Nat := regF s 0x30050 48 16
def eLane (s : State) : Nat := regF s 0x30058 0 16
def eAcc (s : State) : Nat := regF s 0x30058 16 16

/-- Deduct an energy that is never held: the budget may go into deficit (R287). -/
def spendAlways (s : State) (e : Nat) : State :=
  modSched s fun c => { c with avail := c.avail - e, energy := c.energy + e }

/-- Spend `e` for a request of class `cls`: ember spends the reserve first, others only what lies beyond it (R285);
none where the request waits for the next release. -/
def spend (s : State) (cls e : Nat) : Option State :=
  let c := s.sched
  if s.fb.hold then none
  else if cls = 0 then
    if (e : Int) ≤ c.reserve then some (modSched s fun c => { c with reserve := c.reserve - e, energy := c.energy + e })
    else if (e : Int) ≤ c.reserve + c.avail then
      some (modSched s fun c => { c with avail := c.avail - (e - c.reserve), reserve := 0, energy := c.energy + e })
    else none
  else if (e : Int) ≤ c.avail then some (modSched s fun c => { c with avail := c.avail - e, energy := c.energy + e })
  else none

/-- Charge an access of several columns by an engine of the block: it is admitted while the class has budget left, and is
charged whole, so that a part beyond the rest leaves a deficit (R286; DESIGN CHOICE, log entry 11). -/
def spendOver (s : State) (cls e : Nat) : Option State :=
  let c := s.sched
  if c.blocked ≤ cls ∨ s.fb.hold then none
  else if cls = 0 ∧ 0 < c.reserve + c.avail then
    some (modSched s fun c =>
      { c with avail := c.avail - (e - min e c.reserve : Nat), reserve := c.reserve - e, energy := c.energy + e })
  else if 0 < c.avail then some (spendAlways s e)
  else none

/-- Charge lane instructions or Heddle evaluations in arrears (R286). -/
def chargeLane (s : State) (n : Nat) : State :=
  modSched s fun c => { c with arrears := c.arrears + n * eLane s, energy := c.energy + n * eLane s }

/-! ### Refresh and calibration -/

/-- Refresh a row group: it closes the group's row, lowers its debt by one, is in progress for tRFCg, and is charged and never
held (R272 to R275, R287). -/
def refresh (s : State) (die pos g : Nat) : State :=
  let p := pairAt s die pos
  let p1 := setRow (setDebt p g (debtOf p g - 1)) g none
  spendAlways (setPair s die pos
    { p1 with
      closed := p1.closed.filter (· != g)
      ahead := p1.ahead.filter (· != g)
      opLeft := regF s 0x30028 0 8
      opGrp := some g }) (eRef s)

/-- The group whose refresh is forced: debt +8 (R273). -/
def forcedGroup (p : PairS) : Option Nat := (List.range 4).find? fun g => 8 ≤ debtOf p g

/-- Another group than `g` may become forced before an operation begun now ends: its debt is 7 or more (R274; the next interval
of the group is not known, DEDUCED, log entry 12). -/
def nearForced (p : PairS) (g : Nat) : Bool := (List.range 4).any fun k => k != g && 7 ≤ debtOf p k

/-- A group whose aligned refresh may be issued: debt at least 1, its row just closed, no ember request for it queued, no
operation in progress and no other group near a forced refresh (R273, R274). -/
def alignedGroup (p : PairS) : Option Nat :=
  if p.opLeft ≠ 0 then none
  else p.closed.find? fun g => 1 ≤ debtOf p g && !(nearForced p g)
    && !p.q.any fun r => r.cls == 0 && (colGrans r).any fun x => rowGroup x == g

/-- A group that may be refreshed ahead of its debt: no request of any class is queued in the pair (R273, R274). -/
def pulledGroup (p : PairS) : Option Nat :=
  if p.opLeft ≠ 0 ∨ p.q ≠ [] then none
  else (List.range 4).find? fun g => -8 < debtOf p g && !(nearForced p g)

/-- Perform a calibration slice of tCALS, charged and never held (R287, R292). -/
def calibrate (s : State) (die pos : Nat) (late : Bool) : State :=
  let p := pairAt s die pos
  let s1 := spendAlways (setPair s die pos
    { p with
      calDue := false
      calOver := false
      calTemp := (smGet ({} : TsvDie) s.sched.dies die).temp
      opLeft := regF s 0x30030 0 8
      opGrp := none }) Config.calEnergy
  if late then modSched s1 fun c => { c with calDef := c.calDef + 1 } else s1

/-! ### Performing a granted request -/

/-- Elements that an ACCW of a format covers (R184). -/
def accCount (fmt : Nat) : Nat := if fmt = 2 then 16 else 32

/-- Columns and their energy of a request (R283); a merge reads and writes. Of an ACCW its scale-and-tag read and its elements
are charged at the grant, the columns that it turns out to need when it is applied (R190). -/
def colEnergy (s : State) (r : ColReq) : Nat :=
  match r.op with
  | .read _ => r.n * eRd s
  | .hobLd _ _ _ => r.n * eRd s
  | .write _ _ => r.n * eWr s
  | .hobSt _ _ _ => r.n * eWr s
  | .merge _ _ => r.n * (eRd s + eWr s)
  | .acc n _ => eRd s + (match smFind s.stp.acc n with
    | some a => accCount a.fmt * eAcc s
    | none => 0)

/-- One granted column of transaction `n`: fewer are left. -/
def txnStep (s : State) (n : Nat) (f : Txn → Txn) : State :=
  match smFind s.ports.txns n with
  | none => s
  | some t => modPorts s fun p => { p with txns := smSet p.txns n (f { t with left := t.left - 1 }) }

/-- Report every granule that the request reads and the warp check finds uncorrectable (R308, R564 code 0x0102). -/
def ueReports (s : State) (die pos : Nat) (r : ColReq) : State :=
  let k : Option Nat := match r.op with
    | .read _ => some 0
    | .merge _ _ => some 1
    | .hobLd _ _ _ => some 2
    | _ => none
  match k with
  | none => s
  | some k =>
    (List.range r.n).foldl (fun t i =>
      let covered := match r.op with
        | .merge _ ds => match ds[i]? with
          | some d => enFull d.2 || d.2 == 0
          | none => true
        | _ => false
      let a := locAddr s die pos (r.off + 32 * i)
      if !covered && (granAt s (r.off + 32 * i) a).1 == .uncorrectable then
        report t chWarp { evt s 0x0102 .data 308 with
          part := r.part, die := die, pos := pos, pair := physPair s die pos, addr := a,
          detA := Config.openCode 2 k, detB := r.addr + 32 * i }
      else t) s

/-- Carry out a request at its grant: the point of visibility (R325). An ACCW holds its granules from here until the accumulate
unit has applied it (R186). -/
def colPerform (s0 : State) (die pos : Nat) (r : ColReq) : State :=
  let s := ueReports s0 die pos r
  match r.op with
  | .read n =>
    let res := (List.range r.n).foldl (fun (a : List (Nat × Datum) × State) i =>
      let x := readGran a.2 die pos (r.off + 32 * i)
      (a.1 ++ [(r.addr + 32 * i, x.1)], x.2)) ([], s)
    txnStep res.2 n fun t => { t with data := t.data ++ res.1 }
  | .write n ds =>
    let s1 := ((List.range ds.length).zip ds).foldl (fun t e => writeGran t die pos (r.off + 32 * e.1) e.2) s
    txnStep s1 n id
  | .merge n ds =>
    let res := mergeBurst s die pos r.off ds
    txnStep res.2 n fun t => { t with failed := t.failed || res.1 }
  | .hobLd h v tap =>
    let x := readGran s die pos r.off
    modSched x.2 fun c =>
      { c with
        landing := c.landing ++ [(h, v, x.1)]
        tapped := match tap with
          | some o => c.tapped ++ [(1, h, o, x.1)]
          | none => c.tapped }
  | .hobSt h taps d =>
    modSched (writeGran s die pos r.off d) fun c =>
      { c with tapped := c.tapped ++ taps.map fun t => (t.1, h, t.2, d) }
  | .acc _ _ => s

/-- The queue of a pair once the request at position `i` is granted: an ACCW stays in it, holding its granules. -/
def queueAfter (q : List ColReq) (i : Nat) (r : ColReq) : List ColReq :=
  match r.op with
  | .acc _ _ => listSet q i { r with busy := true }
  | _ => listDel q i

/-- The pair once a request in class `cls` at position `i` is granted: the rows it opens and leaves, the rotation of its class,
and the write group, which takes at most 16 columns (R270, R278, R281). -/
def pairGranted (p : PairS) (i cls : Nat) (r : ColReq) : PairS :=
  let p1 := { p with
    q := queueAfter p.q i r
    rot := smSet p.rot cls ((srcNum r.src + 1) % 5)
    wgrp := if colGroups r.op then (if p.wgrp + r.n ≤ 16 then p.wgrp + r.n else r.n) else 0 }
  openAhead ((colGrans r).foldl leaveRow p1)

/-- Take the request at position `i` of a pair, whose energy is paid: its rows open (`o` of `openRows`), it is counted (R542),
and carried out. -/
def colTake (s : State) (die pos i cls : Nat) (r : ColReq) (o : Nat × PairS) : State :=
  let s2 := setPair s die pos (pairGranted o.2 i cls r)
  let s3 := pmcEvent s2 0x01 r.part (some cls) (.pair die pos) r.n
  let s4 := if o.1 = 0 then s3 else pmcEvent s3 0x02 r.part (some cls) (.pair die pos) o.1
  let s5 := if r.cls = 0 ∧ !colWrites r.op then pmcEvent s4 0x0C r.part (some cls) (.pair die pos) 1 else s4
  refillEmber (colPerform s5 die pos r) die pos

/-- Grant the request at position `i` of a pair, charging it with the activates it needs; none where the budget does not allow
it (R286). -/
def colGrant (s : State) (die pos i : Nat) : Option State :=
  let p := pairAt s die pos
  match p.q[i]? with
  | none => none
  | some r =>
    let cls := effCls p.q i
    let o := openRows p (colGrans r)
    if s.sched.blocked ≤ cls then none
    else (spend s cls (colEnergy s r + o.1 * eAct s)).map fun s1 => colTake s1 die pos i cls r o

/-- The first of the requests that must be carried out before the one at position `i`: it, where no earlier one conflicts with it
(R326). -/
def leadOf (q : List ColReq) : Nat → Nat → Nat
  | 0, i => i
  | fuel + 1, i =>
    match (List.range i).find? fun j => match q[j]?, q[i]? with
      | some a, some b => !a.busy && colConflict a b
      | _, _ => false with
    | some j => leadOf q fuel j
    | none => i

/-- Carry out at once, in order and after the earlier requests that they conflict with, every queued request of a pair that `sel`
takes; their energy is charged and never held. -/
def drainPair (s : State) (die pos : Nat) (sel : ColReq → Bool) : Nat → State
  | 0 => s
  | fuel + 1 =>
    let p := pairAt s die pos
    match (List.range p.q.length).find? fun i => match p.q[i]? with
      | some r => !r.busy && sel r
      | none => false with
    | none => s
    | some i =>
      let j := leadOf p.q p.q.length i
      match p.q[j]? with
      | none => s
      | some r =>
        let o := openRows p (colGrans r)
        drainPair (colTake (spendAlways s (colEnergy s r + o.1 * eAct s)) die pos j (effCls p.q j) r o) die pos sel fuel

/-- The request at position `i` finds no budget: it and every request of its class or lower wait for the next release
(R286). -/
def colRefuse (s : State) (die pos i : Nat) : State :=
  modSched s fun c => { c with blocked := min c.blocked (effCls (pairAt s die pos).q i) }

end Sys2Proof.Machine
end

