-- ==== Sys2Proof/Machine/SweepOps.lean ====
section
/-! DEFINITION. Error history, migration requests, and the walk of the sweep (R314 to R319, R571 to R574). -/

namespace Sys2Proof.Machine

/-! ### History (R571 to R574) -/

def histOf (s : State) (k : Nat) : PairHist := smGet {} s.flt.pairs k
def setHist (s : State) (k : Nat) (h : PairHist) : State := modFlt s fun f => { f with pairs := smSet f.pairs k h }

/-- The history takes a write to flash (R574). -/
def histWrite (s : State) : State := modFlt s fun f => { f with histDue := true }

/-- Number of a history state (R571). -/
def histNum : HistS → Nat
  | .active => 0 | .watch => 1 | .spareDue => 2 | .retired => 3 | .spare => 4 | .spareUnusable => 5 | .exhausted => 6

/-- Hour of the day of a calendar value in microseconds. -/
def calHour (cal : Nat) : Nat := cal / 3600000000 % 24

/-- Soft correctable results of the last 24 h (R573). -/
def soft24 (h : PairHist) : Nat := h.hours.foldl (fun n kv => n + kv.2) 0

/-- The state that the thresholds give a pair (R573). A pair moves on from ACTIVE or WATCH, or, as a spare that serves, from SPARE,
to WATCH too (DESIGN CHOICE, log entry 62). -/
def histNext (s : State) (h : PairHist) : HistS :=
  let softT := regF s 0xF10060 16 16
  if h.st ≠ .active ∧ h.st ≠ .watch ∧ h.st ≠ .spare then h.st
  else if regF s 0xF10060 0 5 ≤ h.hardUe ∨ regF s 0xF10060 8 5 ≤ h.hard ∨ softT ≤ soft24 h then .spareDue
  else if 1 ≤ h.hard ∨ softT ≤ 4 * soft24 h then .watch
  else h.st

/-- The logical position that a physical pair of a die serves, if any. -/
def servedPos (s : State) (die pair : Nat) : Option Nat := (List.range 32).find? fun pos => physPair s die pos == pair

/-- A spare pair of a die is usable: it serves no position and passed its last scan (R317). -/
def spareUsable (s : State) (die sp : Nat) : Bool :=
  let k := die * 34 + sp
  (List.range 32).all (fun pos => physPair s die pos != sp)
  && (histOf s k).st != .spareUnusable && (histOf s k).st != .retired && (smGet ({} : TileHist) s.flt.tiles k).st != 2

/-- A usable spare of the die. -/
def findSpare (s : State) (die : Nat) : Option Nat := [32, 33].find? fun sp => spareUsable s die sp

/-- An event about a pair (R562). -/
def pairEvt (s : State) (code : Nat) (cls : FClass) (rule die pos pair : Nat) : FEvent :=
  { evt s code cls rule with die := die, pos := pos, pair := pair }

/-- Complete a mailbox whose command was RUNNING (R476). -/
def mboxDone (s : State) (n status : Nat) : State :=
  modFb s fun f =>
    { f with mbox := smMod {} f.mbox n fun m => if m.st = .running then { m with st := .done, status := status } else m }

/-- Start a migration, or refuse it for want of a usable spare (R318). -/
def migrStart (s : State) (die pos : Nat) (mbox : Option Nat) (raw : Bool) : State :=
  let pr := physPair s die pos
  match findSpare s die with
  | some sp =>
    let s1 := modWarp s fun w =>
      { w with
        migr := some { die := die, pos := pos, spare := sp, mark := 0, switching := false, raw := raw, mbox := mbox }
        tilePower := smSet w.tilePower (die * 34 + sp) true }
    report s1 chWarp { pairEvt s 0x0105 .info 318 die pos pr with detA := sp, detB := Config.openCode 6 0, keep := true }
  | none =>
    let s1 := modWarp s fun w => { w with noSpare := true }
    let k := die * 34 + pr
    let s2 := report s1 chWarp { pairEvt s 0x0105 .info 318 die pos pr with detB := Config.openCode 6 2, keep := true }
    let s3 := if (histOf s2 k).st = .spareDue then
        let s4 := histWrite (setHist s2 k { histOf s2 k with st := .exhausted })
        report s4 chWarp { pairEvt s 0x0104 .info 321 die pos pr with detA := Config.openCode 7 0, detB := 6, keep := true }
      else s2
    match mbox with
    | some n => mboxDone s3 n 7
    | none => s3

/-- Request a migration: one runs at a time, further requests wait in arrival order (R317). -/
def migrRequest (s : State) (die pos : Nat) (mbox : Option Nat) (raw : Bool) : State :=
  match s.warp.migr with
  | none => migrStart s die pos mbox raw
  | some _ => modWarp s fun w => { w with queue := w.queue ++ [{ die := die, pos := pos, mbox := mbox, raw := raw }] }

/-- Move a pair to the state its history calls for, with the records of R564 and the request of R573. -/
def histUpdate (s : State) (die pos : Nat) (soft : Bool) : State :=
  let pr := physPair s die pos
  let k := die * 34 + pr
  let h := histOf s k
  let n := histNext s h
  if n = h.st then s
  else
    let s1 := histWrite (setHist s k { h with st := n })
    let s2 := if soft then
        report s1 chWarp { pairEvt s 0x0101 .corrected 573 die pos pr with detA := histNum n, detB := soft24 h, keep := true }
      else s1
    if n = .spareDue then
      migrRequest (report s2 chWarp { pairEvt s 0x0104 .info 573 die pos pr with detA := Config.openCode 7 (if soft then 1 else 2), detB := 2, keep := true })
        die pos none false
    else s2

/-- The tile of a physical pair is powered: an active pair's tile is, unless a switchover has gated it; a spare's tile is gated
until a migration powers it (R93, R318, R320). -/
def tileOn (s : State) (die pr : Nat) : Bool := smGet (decide (pr < 32)) s.warp.tilePower (die * 34 + pr)

/-- The tiles whose power differs from their rest under a sparing map: a spare that serves a position is powered, and the pair that it
serves in place of is gated (R93, R318). -/
def mapPower (m : SMap Nat) : SMap Bool :=
  m.foldl (fun t e => smSet (smSet t (e.1 / 32 * 34 + e.2) true) (e.1 / 32 * 34 + e.1 % 32) false) []

/-- Classify a rewritten granule by its verify read (R572): `found` the result that the first read gave, `again` what
the verify read gave. -/
def classify (s : State) (die pos loc : Nat) (wasUe : Bool) (again : WarpRes) : State :=
  let pr := physPair s die pos
  let k := die * 34 + pr
  let h := histOf s k
  let a22 := locAddr s die pos loc % 2 ^ 22
  let hard := again ≠ (if wasUe then .poison else .clean)
  if h.hardList.any (fun e => e % 2 ^ 22 == a22) then s
  else if hard then
    let e := a22 + b2n wasUe * 2 ^ 22
    let h1 := { h with
                hard := satAdd 16 h.hard 1
                hardUe := h.hardUe + b2n wasUe
                hardList := if h.hardList.length < 16 then h.hardList ++ [e] else h.hardList }
    let s1 := histWrite (setHist s k h1)
    let s2 := report s1 chWarp
      { pairEvt s 0x0103 (if wasUe then .data else .corrected) 567 die pos pr with
        addr := locAddr s die pos loc, detA := h1.hard, detB := e, keep := true }
    histUpdate s2 die pos false
  else if wasUe then s
  else
    let hr := calHour s.fb.cal
    let h1 := { h with hours := smMod 0 h.hours hr fun n => satAdd 16 n 1 }
    histUpdate (setHist s k h1) die pos true

/-- The pair is in migration: its sweep pauses (R316). -/
def inMigration (s : State) (die pos : Nat) : Bool :=
  match s.warp.migr with
  | some g => g.die == die && g.pos == pos
  | none => false

/-- A migration or the tile's in-field test pauses the sweep of a pair (R316, R577). -/
def sweepPaused (s : State) (die pos : Nat) : Bool :=
  inMigration s die pos || (pairAt s die pos).test

/-- Rewrite a granule that a read by the sweep or scrub queue found in error, and queue its verify read (R308, R316,
R572); a poison mark is counted in WW_SWEEP_POISON and left (R63). Nothing comes between the read and the rewrite, which are one
command, so R316 cancels none (log entry 13). -/
def scrubRewrite (s : State) (die pos loc : Nat) : State :=
  let r := readRaw s die pos loc
  match r.1 with
  | .clean => r.2.2
  | .poison => modWarp r.2.2 fun w => { w with sweepPoison := w.sweepPoison + 1 }
  | _ =>
    let wasUe := r.1 = .uncorrectable
    let s1 := writeGran r.2.2 die pos loc r.2.1
    let s2 := spendAlways s1 (eWr s1)
    let p := pairAt s2 die pos
    setPair s2 die pos { p with verify := p.verify ++ [(loc, decide wasUe)] }

/-- Charge one column at `loc`, and the activate it needs, to a source that stands below the classes: none while the budget or
a block of R286 holds it back (R283, R286). -/
def sweepPay (s : State) (die pos loc e : Nat) : Option State :=
  let p := pairAt s die pos
  let o := openRow p loc
  if s.sched.blocked ≠ 4 then none
  else (spend s 3 (e + b2n o.1 * eAct s)).map fun t => setPair t die pos (leaveRow o.2 loc)

/-- The pair's next slot is free for a source that stands below the first `lim` classes: nothing is forced or in progress, no
request of those classes is ready, and, below every class, nothing of position 6 is due (R278). -/
def colSlotFree (s : State) (die pos lim : Nat) : Bool :=
  let p := pairAt s die pos
  (forcedGroup p).isNone && p.opLeft == 0 && !p.test && (colPick p lim).isNone && !(p.calDue && p.calOver)
    && (lim < 4 || (!p.calDue && (alignedGroup p).isNone))

/-- The region unit of a pair is walked by the sweep: an initialised region that uses it, or the reserved units
(R314). -/
def unitWalked (s : State) (die pos u : Nat) : Bool :=
  64 - s.boot.cfg.r ≤ u || s.regions.any fun kr =>
    kr.2.init && kr.2.first ≤ u && u < kr.2.first + kr.2.count &&
    (match kr.2.kind with
     | .bankLocal => kr.2.c0 ≤ pos && pos ≤ kr.2.c1 && kr.2.r0 ≤ die && die ≤ kr.2.r1
     | _ => true)

/-- All active pairs, as (die, position). -/
def allPairs (s : State) : List (Nat × Nat) :=
  (List.range s.boot.dies).flatMap fun d => (List.range 32).map fun p => (d, p)

/-- The next offset of the walk after `pos`: the next granule, skipping units that no pair walks (R314). -/
def sweepNext (s : State) : Nat → Nat → Nat
  | 0, loc => loc
  | fuel + 1, loc =>
    if 0x8000000 ≤ loc then loc
    else if (allPairs s).any fun dp => unitWalked s dp.1 dp.2 (loc / unitBytes) then loc
    else sweepNext s fuel ((loc / unitBytes + 1) * unitBytes)

/-- Units of a pair that some pair walks, below `u` (R314). -/
def walkedBelow (s : State) (u : Nat) : Nat :=
  ((List.range u).filter fun v => (allPairs s).any fun dp => unitWalked s dp.1 dp.2 v).length

/-- Nanoseconds since the pass began (R315). -/
def sweepElapsed (s : State) : Nat := s.clk.gtc.toNat - s.warp.sweepStart

/-- The sweep lags its paced position, which reaches the end of the walk at PERIOD, by more than LAG of the period: its requests
are raised to ash (R279, R315). -/
def sweepLags (s : State) : Bool :=
  let period := regF s 0x40038 0 8 * 3600000000000
  let all := walkedBelow s 64 * 65536
  let done := walkedBelow s (s.warp.sweepPos / unitBytes) * 65536 + s.warp.sweepPos % unitBytes / 32
  period * (1000 * done + regF s 0x40038 16 8 * all) < sweepElapsed s * 1000 * all

/-- The wait of a scrub-queue entry at which it is raised to ash, µs: tSQA, typical (R315; DESIGN CHOICE within 10 to 100, log
entry 14). -/
def tSqa : Nat := 100

/-- The pair's sweep competes as an ash request of the base-die engines: the sweep lags, or the entry at the front of the scrub
queue has waited tSQA (R279, R315). -/
def sweepAsh (s : State) (die pos : Nat) : Bool :=
  (pairAt s die pos).sqAge ≥ tSqa || sweepLags s

/-- Classes that stand before a pair's sweep in its slot. -/
def sweepLim (s : State) (die pos : Nat) : Nat := if sweepAsh s die pos then 3 else 4

/-- Service the entry at the front of a pair's scrub queue: none where there is none, the sweep is paused, or no budget allows it
(R307, R316). -/
def scrubOne (s : State) (die pos : Nat) : Option State :=
  match (pairAt s die pos).scrub with
  | [] => none
  | l :: ls =>
    if sweepPaused s die pos then none
    else (sweepPay s die pos l (eRd s)).map fun t =>
      scrubRewrite (setPair t die pos { pairAt t die pos with scrub := ls, sqAge := 0 }) die pos l

/-- The next offset of one pair's walk, at or after `loc` and before `stop` (R314). -/
def lagNext (s : State) (die pos stop : Nat) : Nat → Nat → Option Nat
  | 0, _ => none
  | fuel + 1, loc =>
    if stop ≤ loc then none
    else if unitWalked s die pos (loc / unitBytes) then some loc
    else lagNext s die pos stop fuel ((loc / unitBytes + 1) * unitBytes)

/-- A pair whose sweep is behind the walk visits its next granule, and so catches up (R314 to R316). -/
def lagOne (s : State) (die pos : Nat) : Option State :=
  match (pairAt s die pos).swLag with
  | none => none
  | some o =>
    if sweepPaused s die pos then none
    else (sweepPay s die pos o (eRd s)).map fun t =>
      let u := scrubRewrite t die pos o
      setPair u die pos { pairAt u die pos with swLag := lagNext u die pos s.warp.sweepPos 65 (o + 32) }

/-- What a pair's sweep does with a slot: the scrub queue goes first (R307, R315). -/
def sweepSlot (s : State) (die pos : Nat) : Option State :=
  match scrubOne s die pos with
  | some t => some t
  | none => lagOne s die pos

/-- The walk of one pair at the position that all pairs visit: it visits the granule in a free slot, and is behind otherwise
(R314 to R316). -/
def visitPair (s : State) (die pos loc : Nat) : State :=
  let t := if colSlotFree s die pos (sweepLim s die pos) && !sweepPaused s die pos then
      (sweepPay s die pos loc (eRd s)).map fun t => scrubRewrite t die pos loc
    else none
  t.getD (setPair s die pos { pairAt s die pos with swLag := some loc })

/-- Some pair has not made every visit of the walk up to the current position. -/
def anyLag (s : State) : Bool := s.sched.pairs.any fun kv => kv.2.swLag.isSome

/-- The pass ends once the walk is at its end and no pair is behind: the pass is counted and the next begins (R315). -/
def passEnd (s : State) : State :=
  if 0x8000000 ≤ s.warp.sweepPos ∧ !(anyLag s) then
    modWarp s fun w =>
      { w with sweepPos := sweepNext s 65 0, sweepPass := w.sweepPass + 1, sweepStart := s.clk.gtc.toNat }
  else s

/-- The pairs that are behind and not paused, which the others wait for: all pairs walk in step (R314). -/
def laggards (s : State) : List (Nat × Nat) :=
  (allPairs s).filter fun dp => (pairAt s dp.1 dp.2).swLag.isSome && !sweepPaused s dp.1 dp.2

/-- One step of the walk (R314, R315). -/
def sweepStep (s : State) : State :=
  let late := laggards s
  if late ≠ [] then
    passEnd (late.foldl (fun t dp =>
      if colSlotFree t dp.1 dp.2 (sweepLim t dp.1 dp.2) then (lagOne t dp.1 dp.2).getD t else t) s)
  else
    let loc := s.warp.sweepPos
    let s1 := if 0x8000000 ≤ loc then s else (allPairs s).foldl (fun t dp =>
      if unitWalked s dp.1 dp.2 (loc / unitBytes) && (pairAt t dp.1 dp.2).swLag.isNone then visitPair t dp.1 dp.2 loc else t) s
    passEnd (modWarp s1 fun w => { w with sweepPos := sweepNext s1 65 (min loc 0x7FFFFE0 + 32) })

/-! ### Chunks -/

/-- Copy one granule of the migration: read at the old pair, written afresh at the spare (R308, R319, R579). -/
def copyGran (s : State) (g : Migr) (loc : Nat) : State :=
  let r := readRaw s g.die g.pos loc
  granPut r.2.2 loc (physAddr g.die g.spare loc) r.2.1

/-- Energy of a chunk: 16 columns read and 16 written, and the activates of its two rows in both pairs (R283, R318). -/
def chunkEnergy (s : State) (g : Migr) : Nat :=
  16 * (eRd s + eWr s) + 2 * (openRows (pairAt s g.die g.pos) [g.mark, g.mark + 32]).1 * eAct s

/-- Copy the chunk at the watermark, holding the pair's column path for 16 cycles, and advance the watermark by 512 bytes; after
the last chunk the migration is SWITCHING (R318, R319). -/
def copyChunk (s : State) (g : Migr) : State :=
  let s1 := (List.range 16).foldl (fun t i => copyGran t g (g.mark + 32 * i)) s
  let p := (openRows (pairAt s1 g.die g.pos) [g.mark, g.mark + 32]).2
  modWarp (setPair s1 g.die g.pos { p with opLeft := 16, opGrp := none }) fun w =>
    { w with migr := some { g with mark := g.mark + 512, switching := decide (0x8000000 ≤ g.mark + 512) } }

end Sys2Proof.Machine
end

