-- ==== Sys2Proof/Machine/FireOps.lean ====
section
/-! DEFINITION. Shared operations on hobs and firings: ends, stops, breakpoints (R110, R131 to R143, R555). -/

namespace Sys2Proof.Machine

/-! ### Access -/

def hobOf (s : State) (n : Nat) : Hob := smGet { scr := s.fir.scrBase + n * 2048 } s.fir.hobs n
def setHob (s : State) (n : Nat) (h : Hob) : State := modFir s fun f => { f with hobs := smSet f.hobs n h }

def firingOf (s : State) (k : Nat) : Firing := smGet {} s.fir.all k
def setFiring (s : State) (k : Nat) (x : Firing) : State := modFir s fun f => { f with all := smSet f.all k x }
def modFiring (s : State) (k : Nat) (g : Firing → Firing) : State := setFiring s k (g (firingOf s k))

/-- The firing that holds the hobs, with its number. -/
def curFiring (s : State) : Option (Nat × Firing) :=
  match s.fir.cur with
  | none => none
  | some k => match smFind s.fir.all k with
    | some x => some (k, x)
    | none => none

/-- A firing of a library program (R162). -/
def isLibrary (f : FireF) : Bool := f.prog < 0x1000

/-- A hob's die and position lie in the firing's rectangle (R90). -/
def inRect (f : FireF) (n : Nat) : Bool :=
  f.c0 ≤ n % 32 && n % 32 ≤ f.c1 && f.r0 ≤ n / 32 && n / 32 ≤ f.r1

/-- The logical numbers of the hobs of a rectangle, row by row (R82). -/
def rectHobs (f : FireF) : List Nat :=
  (rangeFrom f.r0 (f.r1 + 1 - f.r0)).flatMap fun r => (rangeFrom f.c0 (f.c1 + 1 - f.c0)).map fun c => r * 32 + c

/-- Rank of a hob in the rectangle (R91). -/
def rankOf (f : FireF) (n : Nat) : Nat := (n / 32 - f.r0) * (f.c1 + 1 - f.c0) + (n % 32 - f.c0)

/-- The hob at a rank (R91). -/
def hobAtRank (f : FireF) (r : Nat) : Nat :=
  (f.r0 + r / (f.c1 + 1 - f.c0)) * 32 + f.c0 + r % (f.c1 + 1 - f.c0)

/-- Number of a firing state, in the order of R131. -/
def firStNum : FirSt → Nat
  | .held => 0 | .queued => 1 | .launching => 2 | .running => 3 | .stopping => 4 | .saving => 5 | .suspended => 6
  | .restoring => 7 | .ending => 8

/-- Move a firing to a state, with its FIRING soot record (R549). -/
def setFirSt (s : State) (k : Nat) (st : FirSt) : State :=
  let x := firingOf s k
  sootFiring (modFiring s k fun y => { y with st := st }) x.part x.cls x.spool x.seq x.f.prog (firStNum st) 0 x.f.epoch

/-- The firing holds the hobs and they execute (R131). -/
def executing (x : Firing) : Bool := x.st == .running || x.st == .stopping

/-! ### Tile history (R571, R573) -/

/-- Key of the tile at a logical position. -/
def tileKey (s : State) (die pos : Nat) : Nat := die * 34 + physPair s die pos

/-- A tile's in-field test falls due out of turn (R573, R575). -/
def scanDueNow (s : State) (k : Nat) : State :=
  modFlt s fun f => { f with scanDue := if f.scanDue.contains k then f.scanDue else f.scanDue ++ [k] }

/-- A hob halts: it is counted in the tile's history, and three halts within 24 h make the tile's test due (R573). -/
def tileHalt (s : State) (n : Nat) : State :=
  let k := tileKey s (n / 32) (n % 32)
  let t := smGet ({} : TileHist) s.flt.tiles k
  let hs := t.halts.filter (fun c => s.fb.cal < c + 86400000000) ++ [s.fb.cal]
  let s1 := modFlt s fun f =>
    { f with tiles := smSet f.tiles k { t with halts := hs, haltTotal := satAdd 32 t.haltTotal 1 } }
  if 3 ≤ hs.length then scanDueNow s1 k else s1

/-! ### Ends of hobs (R110, R133) -/

/-- Every hob of the rectangle has ended. -/
def allEnded (s : State) (f : FireF) : Bool := (rectHobs f).all fun n => (hobOf s n).st == .ended

/-- A hob's part of the firing ends with a status of R110; when the last hob of a RUNNING firing ends, the firing is
ENDING (R131). -/
def hobFinish (s : State) (n status : Nat) : State :=
  match curFiring s with
  | none => s
  | some (k, x) =>
    let h := hobOf s n
    let s1 := setHob s n
      { h with
        st := .ended
        endSt := status
        halts := if status = hobDone then h.halts else h.halts + 1
        firings := (h.firings + 1) % 2 ^ 32 }
    let s2 := setFiring s1 k { x with ended := x.ended ++ [(n, status, h.sticky, h.digest, h.stored)] }
    let s3 := if status = hobDone then s2 else tileHalt s2 n
    let s4 := if status = hobStateError ∨ status = hobImemError then
        report s3 chHob { evt s3 0x0201 .data 72 with
          part := some x.part, die := n / 32, pos := n % 32, pair := physPair s (n / 32) (n % 32),
          detA := status, detB := x.spool }
      else s3
    if x.st = .running ∧ allEnded s4 x.f then setFirSt s4 k .ending else s4

/-! ### Stops (R134, R137) -/

/-- Free context slots (R53, R605). -/
def slotsFree (s : State) : Nat := s.fir.slots - smCount s.fir.all fun _ x => x.slot.isSome

/-- The lowest context slot that no firing holds. -/
def freeSlot (s : State) : Option Nat :=
  (List.range s.fir.slots).find? fun i => !(s.fir.all.any fun kv => kv.2.slot == some i)

/-- Free reducer contexts (R138). -/
def redFree (s : State) : Nat := 2 - smCount s.fir.all fun _ x => x.red

/-- A stop cause is held (R137). R137 never holds an ember preemption for want of the slot that R53 keeps; where a firing that
was preempted still has that slot, no slot is left, and the stop waits for one (DESIGN CHOICE, log entry 18). -/
def causeHeld (s : State) (x : Firing) : StopCause → Bool
  | .ember => slotsFree s == 0
  | .slice => x.red || slotsFree s ≤ 1
  | .hobTime => x.red || slotsFree s ≤ 1
  | .test => x.red || slotsFree s ≤ 1 || x.cls == 0
  | .brk _ => x.red || slotsFree s ≤ 1

/-- Number of a stop cause, in the order of R137. -/
def causeNum : StopCause → Nat
  | .ember => 0 | .slice => 1 | .hobTime => 2 | .test => 3 | .brk _ => 4

/-- Signal the stop to the hobs if a standing cause is not held: the firing is STOPPING (R131, R137), and the stop is
counted by its cause (R542). -/
def signalStop (s : State) : State :=
  match curFiring s with
  | none => s
  | some (k, x) =>
    if x.st = .running then
      match x.causes.find? (fun c => !causeHeld s x c) with
      | some c => pmcEvent (setFirSt s k .stopping) 0x09 (some x.part) (some x.cls) (.cause (causeNum c)) 1
      | none => s
    else s

/-- Request a stop of the running firing for a cause (R137); a held one stays pending (R131). -/
def requestStop (s : State) (c : StopCause) : State :=
  match curFiring s with
  | none => s
  | some (k, x) =>
    if x.st = .running then
      signalStop (setFiring s k { x with causes := if x.causes.contains c then x.causes else x.causes ++ [c] })
    else s

/-! ### Breakpoints (R555) -/

/-- An enabled breakpoint matches the firing at a phase point: a checkpoint number, or none for START (R555, R600). -/
def brkMatches (b : Brk) (x : Firing) (pt : Option Nat) : Bool :=
  fld b.cfg 30 1 == 1
  && (fld b.cfg 16 1 == 1 || fld b.cfg 0 16 == x.f.prog)
  && (fld b.cfg 27 1 == 1 || fld b.cfg 17 10 == x.part)
  && (fld b.cfg 28 1 == 1 || b.epoch.toNat == x.f.epoch)
  && (match pt with
      | none => fld b.cfg 31 1 == 1
      | some n => fld b.cfg 31 1 == 0 && fld b.cfg 32 16 == n)

/-- A firing hits breakpoint `b`: its count falls by one; at zero a TRACE writes a BREAK record and reloads, a STOP
writes one, clears its enable and requests a stop (R555). -/
def brkHitOne (s : State) (k : Nat) (pt : Option Nat) (b : Nat) : State :=
  let x := firingOf s k
  let r := smGet ({} : Brk) s.obs.brk b
  if !brkMatches r x pt || (pt.isSome && x.brkSeen.contains b) then s
  else
    let s1 := if pt.isSome then setFiring s k { x with brkSeen := x.brkSeen ++ [b] } else s
    let c := fld r.cfg 48 16
    if 1 < c then
      modObs s1 fun o => { o with brk := smSet o.brk b { r with cfg := setFld r.cfg 48 16 (c - 1) } }
    else
      let s2 := sootBreak s1 b 1 (pt.getD 0) x.spool x.seq x.f.epoch
      if fld r.cfg 29 1 = 1 then
        modObs s2 fun o => { o with brk := smSet o.brk b { r with cfg := setFld r.cfg 48 16 r.count } }
      else
        requestStop (modObs s2 fun o =>
          { o with brk := smSet o.brk b { r with cfg := setFld (setFld r.cfg 48 16 0) 30 1 0 } }) (.brk b)

/-- The firing reaches a phase point (R555). -/
def brkHit (s : State) (k : Nat) (pt : Option Nat) : State :=
  (List.range 8).foldl (fun t b => brkHitOne t k pt b) s

end Sys2Proof.Machine
end

