-- ==== Sys2Proof/Machine/Num.lean ====
section
/-! DEFINITION. Number formats and exact-then-rounded arithmetic: R84, R98, R99, R105 to R108, R112, R116. -/

namespace Sys2Proof.Machine

/-- An exact value: NaN, a signed infinity, or (-1)^neg × n / d with d > 0; zero keeps its sign. -/
inductive FV where
  | nan
  | inf (neg : Bool)
  | fin (neg : Bool) (n d : Nat)
deriving DecidableEq, Repr

/-- A floating format (R98, R105). -/
structure FFmt where
  /-- Exponent bits, fraction bits, bias. -/
  eb : Nat
  mb : Nat
  bias : Nat
  /-- Code of the largest finite magnitude. -/
  maxCode : Nat
  /-- The format holds infinities, in the all-ones exponent. -/
  inf : Bool
  /-- Its canonical NaN, if it has one (R105). -/
  nan : Option Nat
  /-- SAT applies to its overflow (R105: E4M3, E5M2). -/
  satable : Bool
deriving DecidableEq, Repr

def fp32 : FFmt := ⟨8, 23, 127, 0x7F7FFFFF, true, some 0x7FC00000, false⟩
def bf16 : FFmt := ⟨8, 7, 127, 0x7F7F, true, some 0x7FC0, false⟩
def fp16 : FFmt := ⟨5, 10, 15, 0x7BFF, true, some 0x7E00, false⟩
def e4m3 : FFmt := ⟨4, 3, 7, 0x7E, false, some 0x7F, true⟩
def e5m2 : FFmt := ⟨5, 2, 15, 0x7B, true, some 0x7E, true⟩
def e2m1 : FFmt := ⟨2, 1, 1, 0x7, false, none, false⟩
def e3m2 : FFmt := ⟨3, 2, 3, 0x1F, false, none, false⟩
def e2m3 : FFmt := ⟨2, 3, 1, 0x1F, false, none, false⟩
/-- IEEE 754 binary64 (R198, R206, R261). -/
def fp64 : FFmt := ⟨11, 52, 1023, 0x7FEFFFFFFFFFFFFF, true, some 0x7FF8000000000000, false⟩

/-- An element format (R98): floating, or two's complement of `bits` bits with `frac` fraction bits. -/
inductive ElFmt where
  | float (f : FFmt)
  | int (bits frac : Nat)
deriving DecidableEq, Repr

/-- The element format of an FMT code; reserved codes have none (R98). -/
def elFmt : Nat → Option ElFmt
  | 0x0 => some (.float fp32)
  | 0x1 => some (.float bf16)
  | 0x2 => some (.float fp16)
  | 0x3 => some (.float e4m3)
  | 0x4 => some (.float e5m2)
  | 0x5 => some (.int 8 0)
  | 0x6 => some (.float e2m1)
  | 0x7 => some (.int 4 0)
  | 0x8 => some (.int 32 0)
  | 0x9 => some (.float e3m2)
  | 0xA => some (.float e2m3)
  | 0xB => some (.int 8 6)
  | _ => none

/-- Bits of an element of a format code (R98). -/
def elBits (c : Nat) : Nat :=
  match elFmt c with
  | some (.float f) => f.eb + f.mb + 1
  | some (.int b _) => b
  | none => 32

/-- Sticky flag bits (R108). -/
def flNV : Nat := 1
def flDZ : Nat := 2
def flOF : Nat := 4
def flUF : Nat := 8
def flNX : Nat := 16
def flPZ : Nat := 32
def flCX : Nat := 64

/-- A rounding mode (R99): nearest even, toward zero, toward −∞, toward +∞, or stochastic with a 16-bit draw. -/
inductive Rnd where
  | rne | rtz | rdn | rup
  | sr (u : Nat)
deriving DecidableEq, Repr

/-- (n / d) × 2^k as a fraction. -/
def scaleQ (n d : Nat) (k : Int) : Nat × Nat :=
  if 0 ≤ k then (n * 2 ^ k.toNat, d) else (n, d * 2 ^ (-k).toNat)

/-- ⌊log2 (n / d)⌋ of a positive fraction. -/
def ilogQ (n d : Nat) : Int :=
  let e := (Nat.log2 n : Int) - Nat.log2 d
  let s := scaleQ n d (-e)
  if s.1 < s.2 then e - 1 else e

/-- The finite value (-1)^neg × n × 2^k. -/
def mkFin (neg : Bool) (n : Nat) (k : Int) : FV :=
  let s := scaleQ n 1 k
  .fin neg s.1 s.2

def fvZero (neg : Bool) : FV := .fin neg 0 1

/-- Round n / d ≥ 0, of the sign `neg`, to an integer; whether it was inexact (R99, R112). -/
def roundQ (r : Rnd) (neg : Bool) (n d : Nat) : Nat × Bool :=
  let q := n / d
  let m := n % d
  if m = 0 then (q, false)
  else
    let up := match r with
      | .rne => decide (d < 2 * m) || (decide (2 * m = d) && q % 2 == 1)
      | .rtz => false
      | .rdn => neg
      | .rup => !neg
      | .sr u => decide (65536 ≤ m * 65536 / d + u)
    (q + b2n up, true)

/-- The value of a bit pattern of a floating format. -/
def decodeF (f : FFmt) (x : Nat) : FV :=
  let neg := bitAt x (f.eb + f.mb)
  let e := bitsAt x f.mb f.eb
  let m := bitsAt x 0 f.mb
  if f.inf && e == 2 ^ f.eb - 1 then (if m = 0 then .inf neg else .nan)
  else if f.nan = some (bitsAt x 0 (f.eb + f.mb)) then .nan
  else if e = 0 then mkFin neg m (1 - (f.bias : Int) - f.mb)
  else mkFin neg (2 ^ f.mb + m) ((e : Int) - f.bias - f.mb)

/-- A signalling NaN: a NaN whose leading fraction bit is clear (IEEE 754-2019, R106). -/
def isSNaN (f : FFmt) (x : Nat) : Bool :=
  f.inf && bitsAt x f.mb f.eb == 2 ^ f.eb - 1 && bitsAt x 0 f.mb != 0 && !bitAt x (f.mb - 1)

def signBit (f : FFmt) (neg : Bool) : Nat := if neg then 2 ^ (f.eb + f.mb) else 0

/-- The code of infinity. -/
def infCode (f : FFmt) : Nat := (2 ^ f.eb - 1) * 2 ^ f.mb

/-- What an overflow in the sign's direction delivers (R105). -/
def overflowCode (f : FFmt) (r : Rnd) (sat neg : Bool) : Nat :=
  if f.nan = none then signBit f neg + f.maxCode
  else if f.satable && sat then signBit f neg + f.maxCode
  else if !f.inf then f.nan.getD 0
  else
    let toInf := match r with
      | .rne => true
      | .rtz => false
      | .rdn => neg
      | .rup => !neg
      | .sr _ => true
    signBit f neg + (if toInf then infCode f else f.maxCode)

/-- Round an exact value once into a floating format: the pattern and the flags set (R105, R106, R108, R112). An infinity in a format
that holds none sets OF alone, a finite overflow OF and NX (DESIGN CHOICE, log entry 32). -/
def encodeF (f : FFmt) (r : Rnd) (sat : Bool) (v : FV) : Nat × Nat :=
  match v with
  | .nan => match f.nan with
    | some c => (c, 0)
    | none => (0, flNV)
  | .inf neg => if f.inf then (signBit f neg + infCode f, 0) else (overflowCode f r sat neg, flOF)
  | .fin neg n d =>
    if n = 0 then (signBit f neg, 0)
    else
      let e0 := ilogQ n d
      let emin : Int := 1 - (f.bias : Int)
      let e := max e0 emin
      let s := scaleQ n d ((f.mb : Int) - e)
      let q := roundQ r neg s.1 s.2
      let code := (e - emin).toNat * 2 ^ f.mb + q.1
      if f.maxCode < code then (overflowCode f r sat neg, flOF + flNX)
      else if q.2 then
        let tiny := match r with
          | .sr _ => decide (code < 2 ^ f.mb)
          | _ =>
            let s0 := scaleQ n d ((f.mb : Int) - e0)
            decide (e0 < emin) && decide ((roundQ r neg s0.1 s0.2).1 < 2 ^ (f.mb + (emin - e0).toNat))
        (signBit f neg + code, flNX + if tiny then flUF else 0)
      else (signBit f neg + code, 0)

/-- Round an exact value into a two's-complement format, saturating (R105, R111). -/
def encodeI (bits frac : Nat) (r : Rnd) (v : FV) : Nat × Nat :=
  match v with
  | .nan => (0, flNV)
  | .inf neg => (if neg then 2 ^ (bits - 1) else 2 ^ (bits - 1) - 1, flOF)
  | .fin neg n d =>
    let q := roundQ r neg (n * 2 ^ frac) d
    let lim := if neg then 2 ^ (bits - 1) else 2 ^ (bits - 1) - 1
    if lim < q.1 then (if neg then 2 ^ (bits - 1) else 2 ^ (bits - 1) - 1, flOF + flNX)
    else (if neg then (2 ^ bits - q.1) % 2 ^ bits else q.1, if q.2 then flNX else 0)

/-- The exact value of an element of a format code (R98). -/
def elVal (c x : Nat) : FV :=
  match elFmt c with
  | some (.float f) => decodeF f x
  | some (.int b fr) =>
    let i := toSigned b x
    .fin (decide (i < 0)) i.natAbs (2 ^ fr)
  | none => fvZero false

/-- Round an exact value into an element of a format code. -/
def elEnc (c : Nat) (r : Rnd) (sat : Bool) (v : FV) : Nat × Nat :=
  match elFmt c with
  | some (.float f) => encodeF f r sat v
  | some (.int b fr) => encodeI b fr r v
  | none => (0, 0)

/-- The format code is floating. -/
def elFloat (c : Nat) : Bool :=
  match elFmt c with
  | some (.float _) => true
  | _ => false

/-- A signalling NaN element. -/
def elSNaN (c x : Nat) : Bool :=
  match elFmt c with
  | some (.float f) => isSNaN f x
  | _ => false

/-- The canonical NaN of a format code; +0 and NV where it has none (R105). -/
def elNaN (c : Nat) : Nat × Nat := elEnc c .rne true .nan

/-! ### Exact operations, with the flags they raise (R106, R107) -/

def fvNeg : FV → FV
  | .nan => .nan
  | .inf s => .inf (!s)
  | .fin s n d => .fin (!s) n d

def fvSign : FV → Bool
  | .nan => false
  | .inf s => s
  | .fin s _ _ => s

def fvIsZero : FV → Bool
  | .fin _ n _ => n == 0
  | _ => false

/-- A sum of two terms; an exact zero takes its sign under R106. -/
def fvAdd (r : Rnd) (a b : FV) : FV × Nat :=
  match a, b with
  | .nan, _ => (.nan, 0)
  | _, .nan => (.nan, 0)
  | .inf s, .inf t => if s = t then (.inf s, 0) else (.nan, flNV)
  | .inf s, _ => (.inf s, 0)
  | _, .inf t => (.inf t, 0)
  | .fin s n d, .fin t m e =>
    if n = 0 ∧ m = 0 ∧ s = t then (fvZero s, 0)
    else
      let x : Int := (if s then -1 else 1) * (n * e : Nat) + (if t then -1 else 1) * (m * d : Nat)
      if x = 0 then (fvZero (r == .rdn), 0)
      else (.fin (decide (x < 0)) x.natAbs (d * e), 0)

def fvMul (a b : FV) : FV × Nat :=
  match a, b with
  | .nan, _ => (.nan, 0)
  | _, .nan => (.nan, 0)
  | .inf s, .inf t => (.inf (s != t), 0)
  | .inf s, .fin t m _ => if m = 0 then (.nan, flNV) else (.inf (s != t), 0)
  | .fin s n _, .inf t => if n = 0 then (.nan, flNV) else (.inf (s != t), 0)
  | .fin s n d, .fin t m e => (.fin (s != t) (n * m) (d * e), 0)

/-- A quotient (R107); an infinity divided by zero is exact and sets no DZ (DESIGN CHOICE, log entry 33). -/
def fvDiv (a b : FV) : FV × Nat :=
  match a, b with
  | .nan, _ => (.nan, 0)
  | _, .nan => (.nan, 0)
  | .inf _, .inf _ => (.nan, flNV)
  | .inf s, .fin t _ _ => (.inf (s != t), 0)
  | .fin s _ _, .inf t => (fvZero (s != t), 0)
  | .fin s n d, .fin t m e =>
    if m = 0 then (if n = 0 then (.nan, flNV) else (.inf (s != t), flDZ))
    else (.fin (s != t) (n * e) (d * m), 0)

/-- Chain two flagged results. -/
def fvThen (a : FV × Nat) (f : FV → FV × Nat) : FV × Nat :=
  let b := f a.1
  (b.1, a.2 ||| b.2)

/-- Order of two numbers, −0 below +0 (R106); NaN is not compared. -/
def fvLt (a b : FV) : Bool :=
  match a, b with
  | .nan, _ => false
  | _, .nan => false
  | .inf s, .inf t => s && !t
  | .inf s, _ => s
  | _, .inf t => !t
  | .fin s n d, .fin t m e =>
    if n = 0 ∧ m = 0 then s && !t
    else decide ((if s then -1 else 1) * ((n * e : Nat) : Int) < (if t then -1 else 1) * ((m * d : Nat) : Int))

/-- Numeric equality: both zeros are equal. -/
def fvEq (a b : FV) : Bool :=
  match a, b with
  | .nan, _ => false
  | _, .nan => false
  | .inf s, .inf t => s == t
  | .inf _, _ => false
  | _, .inf _ => false
  | .fin s n d, .fin t m e => n * e == m * d && (n == 0 || s == t)

/-! ### Correctly rounded functions (R116)

An irrational result is delivered as a fraction that lies strictly between the same two neighbouring multiples of a power
of two far below every rounding boundary, so that rounding it rounds the exact value. -/

/-- ⌊√x⌋, setting bits from bit `i` down. -/
def isqrtFrom (x : Nat) : Nat → Nat → Nat
  | 0, r => r
  | i + 1, r => if (r + 2 ^ i) * (r + 2 ^ i) ≤ x then isqrtFrom x i (r + 2 ^ i) else isqrtFrom x i r

def isqrt (x : Nat) : Nat := isqrtFrom x (Nat.log2 x / 2 + 1) 0

/-- √(n / d), exact where it is rational, otherwise known to 130 bits beyond its leading one. -/
def sqrtQ (n d : Nat) : Nat × Nat :=
  let k := (130 - ilogQ n d / 2).toNat
  let x := n * 4 ^ k
  let s := isqrt (x / d)
  if s * s * d = x then (s, 2 ^ k) else (2 * s + 1, 2 ^ (k + 1))

/-- √ of a value (R106, R116). -/
def fvSqrt (a : FV) : FV × Nat :=
  match a with
  | .nan => (.nan, 0)
  | .inf s => if s then (.nan, flNV) else (.inf false, 0)
  | .fin s n d =>
    if n = 0 then (fvZero s, 0)
    else if s then (.nan, flNV)
    else
      let q := sqrtQ n d
      (.fin false q.1 q.2, 0)

/-- The largest number below 2^i above `acc` in steps of bits that still satisfies `le`. -/
def floorBy (le : Nat → Bool) : Nat → Nat → Nat
  | 0, acc => acc
  | i + 1, acc => if le (acc + 2 ^ i) then floorBy le i (acc + 2 ^ i) else floorBy le i acc

/-- m / 2^160 ≤ |n / d| / |√(b) + c| for a fraction b = bn / bd and c = cn / cd of sign `cneg`, decided exactly. -/
def divsqLe (n d bn bd : Nat) (cneg : Bool) (cn cd : Nat) (m : Nat) : Bool :=
  if m = 0 then true
  else
    -- q = (n / d) × 2^160 / m, a bound that |√b + c| must not exceed
    let qn := n * 2 ^ 160
    let qd := d * m
    let c : Int := (if cneg then -1 else 1) * (cn : Int)
    let neg := cneg && decide (bn * cd * cd < cn * cn * bd)
    -- D > 0: √b ≤ q − c ; D < 0: −c − q ≤ √b
    let x : Int := if neg then -c * qd - (qn * cd : Nat) else (qn * cd : Nat) - c * qd
    let xd := qd * cd
    if neg then decide (x ≤ 0) || decide (x.natAbs * x.natAbs * bd ≤ bn * xd * xd)
    else decide (0 ≤ x) && decide (bn * xd * xd ≤ x.natAbs * x.natAbs * bd)

/-- a / (√b + c), rounded once (R107, R116). -/
def fvDivsq (r : Rnd) (a b c : FV) : FV × Nat :=
  match b with
  | .fin false bn bd =>
    if bn = 0 then fvThen (fvAdd r b c) (fvDiv a)
    else
      let q := sqrtQ bn bd
      if q.1 * q.1 * bd = bn * (q.2 * q.2) then fvThen (fvAdd r (.fin false q.1 q.2) c) (fvDiv a)
      else match a, c with
        | .fin s n d, .fin t cn cd =>
          if n = 0 then (fvZero (s != (t && decide (bn * cd * cd < cn * cn * bd))), 0)
          else
            let m := floorBy (divsqLe n d bn bd t cn cd) 320 0
            (.fin (s != (t && decide (bn * cd * cd < cn * cn * bd))) (2 * m + 1) (2 ^ 161), 0)
        | .inf s, .fin t cn cd => (.inf (s != (t && decide (bn * cd * cd < cn * cn * bd))), 0)
        | _, _ => fvThen (fvAdd r (.fin false q.1 q.2) c) (fvDiv a)
  | _ => fvThen (fvSqrt b) fun s => fvThen (fvAdd r s c) (fvDiv a)

/-- Bits of log2 of y, a number in [1, 2) with 512 fraction bits, by repeated squaring. -/
def log2Bits : Nat → Nat → Nat → Nat
  | 0, _, acc => acc
  | i + 1, y, acc =>
    let z := y * y / 2 ^ 512
    if 2 ^ 513 ≤ z then log2Bits i (z / 2) (2 * acc + 1) else log2Bits i z (2 * acc)

/-- log2 of a value (R116). -/
def fvLog2 (a : FV) : FV × Nat :=
  match a with
  | .nan => (.nan, 0)
  | .inf s => if s then (.nan, flNV) else (.inf false, 0)
  | .fin s n d =>
    if n = 0 then (.inf true, flDZ)
    else if s then (.nan, flNV)
    else
      let e := ilogQ n d
      let m := scaleQ n d (512 - e)
      let y := m.1 / m.2
      if y = 2 ^ 512 then (.fin (decide (e < 0)) e.natAbs 1, 0)
      else
        let x : Int := 2 * (e * 2 ^ 200 + log2Bits 200 y 0) + 1
        (.fin (decide (x < 0)) x.natAbs (2 ^ 201), 0)

/-- Σ (1/9)^k / (2k+1) from term `t`, with 512 fraction bits. -/
def atanhSum : Nat → Nat → Nat → Nat → Nat
  | 0, _, _, acc => acc
  | i + 1, k, t, acc => atanhSum i (k + 1) (t / 9) (acc + t / (2 * k + 1))

/-- ln 2 = 2 artanh(1/3), with 512 fraction bits. -/
def ln2Fix : Nat := 2 * atanhSum 170 0 (2 ^ 512 / 3) 0

/-- Σ t^k / k! with 512 fraction bits. -/
def expSum (t : Nat) : Nat → Nat → Nat → Nat → Nat
  | 0, _, _, acc => acc
  | i + 1, k, x, acc => expSum t i (k + 1) (x * t / (2 ^ 512 * (k + 1))) (acc + x)

/-- 2^f for a fraction f in [0, 1) with 512 fraction bits. -/
def exp2Fix (f : Nat) : Nat := expSum (f * ln2Fix / 2 ^ 512) 110 0 (2 ^ 512) 0

/-- 2 to the power of a value (R116). -/
def fvExp2 (a : FV) : FV × Nat :=
  match a with
  | .nan => (.nan, 0)
  | .inf s => if s then (fvZero false, 0) else (.inf false, 0)
  | .fin s n d =>
    let x : Int := if s then -(n : Int) else n
    let i := x.fdiv d
    let f := (x - i * d).toNat
    if 400 < i then (mkFin false 1 400, 0)
    else if i < -400 then (mkFin false 1 (-400), 0)
    else if f = 0 then (mkFin false 1 i, 0)
    else
      let y := exp2Fix (f * 2 ^ 512 / d) / 2 ^ 72
      let q := scaleQ (2 * y + 1) (2 ^ 441) i
      (.fin false q.1 q.2, 0)

/-! ### FP32 on bit patterns -/

def f32 (b : W32) : FV := decodeF fp32 b.toNat
def f32Enc (r : Rnd) (v : FV) : W32 := BitVec.ofNat 32 (encodeF fp32 r true v).1

/-- Addition and multiplication to nearest even. -/
def f32Add (a b : W32) : W32 := f32Enc .rne (fvAdd .rne (f32 a) (f32 b)).1
def f32Mul (a b : W32) : W32 := f32Enc .rne (fvMul (f32 a) (f32 b)).1

/-- Whether an FP32 pattern is NaN. -/
def f32IsNaN (b : W32) : Bool := f32 b == .nan

/-- One level of the tree sum: neighbours added, an odd last one rises unchanged (R83). -/
def treeLevel : List W32 → List W32
  | a :: b :: xs => f32Add a b :: treeLevel xs
  | xs => xs

/-- The tree sum of R83, over at most `fuel` levels; nothing sums to +0 (R632). -/
def treeSum : Nat → List W32 → W32
  | 0, xs => xs.headD 0
  | fuel + 1, xs => match xs with
    | [] => 0
    | [x] => x
    | _ => treeSum fuel (treeLevel xs)

/-- A level of the tree sum overflows in a finite sum (R84). -/
def treeOverLevel : List W32 → Bool
  | a :: b :: xs =>
    ((encodeF fp32 .rne true (fvAdd .rne (f32 a) (f32 b)).1).2 &&& flOF != 0) || treeOverLevel xs
  | _ => false

def treeOver : Nat → List W32 → Bool
  | 0, _ => false
  | fuel + 1, xs => match xs with
    | [] => false
    | [_] => false
    | _ => treeOverLevel xs || treeOver fuel (treeLevel xs)

/-! ### Binary64 on bit patterns, to nearest even (R198, R206, R261) -/

def f64 (b : W64) : FV := decodeF fp64 b.toNat
def f64Enc (v : FV) : W64 := BitVec.ofNat 64 (encodeF fp64 .rne true v).1
def f64Add (a b : W64) : W64 := f64Enc (fvAdd .rne (f64 a) (f64 b)).1
def f64Mul (a b : W64) : W64 := f64Enc (fvMul (f64 a) (f64 b)).1
def f64Div (a b : W64) : W64 := f64Enc (fvDiv (f64 a) (f64 b)).1
def f64Sqrt (a : W64) : W64 := f64Enc (fvSqrt (f64 a)).1
/-- A binary32 value in binary64, exactly. -/
def f64OfF32 (b : W32) : W64 := f64Enc (f32 b)
/-- A binary64 value rounded to binary32. -/
def f32OfF64 (b : W64) : W32 := f32Enc .rne (f64 b)

end Sys2Proof.Machine
end

