-- ==== Sys2Proof/Machine/HobOps.lean ====
section
/-! DEFINITION. The hob's instruction words, their single-word checks, and the operations its instructions share
(R94 to R109, R120, R125 checks 2 to 4). -/

namespace Sys2Proof.Machine

/-! ### Fields of an instruction word (R97) -/

def iOpc (w : Nat) : Nat := bitsAt w 56 8
/-- Format A. -/
def iVD (w : Nat) : Nat := bitsAt w 51 5
def iVA (w : Nat) : Nat := bitsAt w 46 5
def iVB (w : Nat) : Nat := bitsAt w 41 5
def iVC (w : Nat) : Nat := bitsAt w 36 5
def iFmt (w : Nat) : Nat := bitsAt w 32 4
def iFmt2 (w : Nat) : Nat := bitsAt w 28 4
def iRm (w : Nat) : Nat := bitsAt w 25 3
def iP (w : Nat) : Bool := bitAt w 24
def iSA (w : Nat) : Nat := bitsAt w 20 4
def iSB (w : Nat) : Nat := bitsAt w 16 4
def iImm16 (w : Nat) : Nat := bitsAt w 0 16
/-- Format B. -/
def bOpd (w : Nat) : Nat := bitsAt w 48 3
def bSX (w : Nat) : Nat := bitsAt w 44 4
def bInc (w : Nat) : Bool := bitAt w 43
def bImm (w : Nat) : Nat := bitsAt w 0 27
/-- Format C. -/
def cArea (w : Nat) : Nat := bitsAt w 47 4
def cSX (w : Nat) : Nat := bitsAt w 43 4
def cInc (w : Nat) : Bool := bitAt w 42
/-- Format D. -/
def dSD (w : Nat) : Nat := bitsAt w 52 4
def dSA (w : Nat) : Nat := bitsAt w 48 4
def dSB (w : Nat) : Nat := bitsAt w 44 4
def dCond (w : Nat) : Nat := bitsAt w 40 4
def dLN (w : Nat) : Nat := bitsAt w 38 2
def dImm (w : Nat) : Nat := bitsAt w 0 32

/-- Instruction formats (R97). -/
inductive IFmt where
  | a | b | c | d
deriving DecidableEq, Repr

/-- The format of an opcode; an opcode that R100 does not list has none. -/
def opFmt (o : Nat) : Option IFmt :=
  if o = 0 ∨ (0x20 ≤ o ∧ o ≤ 0x2D) ∨ (0x30 ≤ o ∧ o ≤ 0x38) then some .d
  else if o = 0x10 ∨ o = 0x11 then some .b
  else if 0x12 ≤ o ∧ o ≤ 0x15 then some .c
  else if o = 0x16 ∨ (0x40 ≤ o ∧ o ≤ 0x53) ∨ (0x58 ≤ o ∧ o ≤ 0x63) ∨ o = 0x70 ∨ o = 0x71 then some .a
  else none

/-- Check 2, LD_OPCODE: a listed opcode, reserved fields and unused COND zero, a defined condition on BR (R121, R125). -/
def ldOpcode (w : Nat) : Bool :=
  match opFmt (iOpc w) with
  | none => false
  | some .a => true
  | some .b => bitsAt w 27 16 == 0
  | some .c => bitsAt w 16 26 == 0
  | some .d => bitsAt w 32 6 == 0 &&
      (if iOpc w = 0x30 then dCond w != 5 && dCond w ≤ 0xB else dCond w == 0)

/-- The widening destination of a format: FP32 or INT32 (R70). -/
def wideOf (c : Nat) : Nat := if elFloat c then 0 else 8

/-- Elements per register (R70, R111: 32 for FP6). -/
def elsPer (c : Nat) : Nat := if elBits c = 6 then 32 else 256 / elBits c

/-- A narrowing conversion (R111): the destination elements are narrower. -/
def cvtNarrow (w : Nat) : Bool := elBits (iFmt2 w) < elBits (iFmt w)

/-- Check 3, LD_FORMAT (R98 to R100, R125). -/
def ldFormat (w : Nat) : Bool :=
  let o := iOpc w
  let f := iFmt w
  let g := iFmt2 w
  match opFmt o with
  | some .a =>
    (iRm w ≤ 3 || iRm w == 5 || (iRm w == 4 && o == 0x61 && (cvtNarrow w || !elFloat g))) &&
    (if o = 0x16 then f == 0 && g == 0
     else if o ≤ 0x42 then f ≤ 7 && g == f
     else if o ≤ 0x44 then f ≤ 7 && (g == f || g == wideOf f)
     else if o ≤ 0x48 then f ≤ 7 && (g == f || g == 0)
     else if o = 0x49 then f ≤ 7 && elFloat f && (g == f || g == 0)
     else if o = 0x4A then f ≤ 7 && (g == f || g == 0)
     else if o = 0x4B then f ≤ 7 && (g == f || g == 0) && !iP w
     else if o ≤ 0x4E then f == 0 && g == 0
     else if o = 0x4F ∨ o = 0x51 then f ≤ 8 && (g == f || g == 0)
     else if o = 0x50 then f ≤ 5 && (g == f || g == 0)
     else if o = 0x52 then (f == 0 || f == 8) && (g == f || g == 0)
     else if o = 0x61 then f ≤ 0xB && g ≤ 0xB
     else if o = 0x62 then f == 2 && g == 0
     else if o = 0x63 then f == 0 && [3, 4, 6, 9, 0xA, 0xB].contains g
     else f == 0 && g == 0)
  | _ => true

/-- Span of a widening destination (R71). -/
def wideSpan (w : Nat) : Nat := elBits (iFmt2 w) / elBits (iFmt w)

/-- The instruction is a widening VFMA or VFNMA. -/
def fmaWide (w : Nat) : Bool := iFmt2 w != iFmt w

/-- Source registers of a VCVT (R111). -/
def cvtCount (w : Nat) : Nat := 2 ^ bitsAt w 8 4
/-- Elements of a VCVT. -/
def cvtN (w : Nat) : Nat := cvtCount w * elsPer (iFmt w)
/-- Destination registers of a VCVT (R71, R111). -/
def cvtDst (w : Nat) : Nat :=
  if elBits (iFmt w) < elBits (iFmt2 w) then cvtN w / elsPer (iFmt2 w)
  else if elBits (iFmt2 w) = 6 ∧ elsPer (iFmt2 w) < bitsAt w 0 8 + cvtN w then 2 else 1

/-- Check 4, LD_REGISTER: groups and pairs (R71, R101, R111, R125). -/
def ldRegister (w : Nat) : Bool :=
  let o := iOpc w
  if o = 0x43 ∨ o = 0x44 then
    !fmaWide w || (iVD w % wideSpan w == 0 && iVC w % wideSpan w == 0)
  else if o = 0x61 then
    bitsAt w 8 4 ≤ 3 && iVA w % cvtCount w == 0
    && (if elBits (iFmt w) < elBits (iFmt2 w) then
          bitsAt w 0 8 == 0 && cvtDst w ≤ 8 && iVD w % cvtDst w == 0
        else bitsAt w 0 8 % cvtN w == 0 && bitsAt w 0 8 + cvtN w ≤ elsPer (iFmt2 w) * cvtDst w && iVD w + cvtDst w ≤ 32)
    && (iRm w != 4 || iSB w % 2 == 0)
  else if o = 0x62 then iVD w % 2 == 0
  else if o = 0x63 then iVA w % 4 == 0
  else if o = 0x70 ∨ o = 0x71 then iSA w % 2 == 0
  else if o = 0x2D then dSA w % 2 == 0 && dSD w % 2 == 0
  else true

/-- The word passes the checks that concern it alone. -/
def wordOk (w : Nat) : Bool := ldOpcode w && ldFormat w && ldRegister w

/-- Vector registers that a word reads (R100). -/
def vReads (w : Nat) : List Nat :=
  let o := iOpc w
  let gs : List (Nat × Nat) := match opFmt o with
    | some .b => if o = 0x11 then [(iVD w, 1)] else []
    | some .c => if o = 0x14 then [(iVD w, 1)] else []
    | some .a =>
      if o = 0x43 ∨ o = 0x44 then [(iVA w, 1), (iVB w, 1), (iVC w, if fmaWide w then wideSpan w else 1)]
      else if o = 0x50 then [(iVA w, 1), (iVB w, 1), (iVC w, 1)]
      else if o = 0x61 then [(iVA w, cvtCount w)]
      else if o = 0x63 then [(iVA w, 4)]
      else if o = 0x4F ∨ o = 0x70 ∨ o = 0x71 then []
      else if o = 0x16 ∨ (0x47 ≤ o ∧ o ≤ 0x49) ∨ (0x51 ≤ o ∧ o ≤ 0x53) ∨ (0x5D ≤ o ∧ o ≤ 0x60) then [(iVA w, 1)]
      else [(iVA w, 1), (iVB w, 1)]
    | _ => []
  gs.flatMap fun g => rangeFrom g.1 g.2

/-- Vector registers that a lane instruction writes (R100). -/
def vWrites (w : Nat) : List Nat :=
  let o := iOpc w
  match opFmt o with
  | some .a =>
    if o = 0x16 ∨ o = 0x4A ∨ (0x51 ≤ o ∧ o ≤ 0x53) ∨ o = 0x63 then []
    else if o = 0x43 ∨ o = 0x44 then rangeFrom (iVD w) (if fmaWide w then wideSpan w else 1)
    else if o = 0x61 then rangeFrom (iVD w) (cvtDst w)
    else if o = 0x62 then rangeFrom (iVD w) 2
    else [iVD w]
  | _ => []

/-- Vector registers that a word writes: that of a load too, which it writes when the data lands (R68). -/
def vWritten (w : Nat) : List Nat :=
  vWrites w ++ (if iOpc w = 0x10 ∨ iOpc w = 0x12 ∨ iOpc w = 0x13 then [iVD w] else [])

/-- Vector registers that the word reads or writes (R68, R69). -/
def vTouched (w : Nat) : List Nat := vReads w ++ vWritten w

/-- Scalar registers that the word reads. -/
def sReads (w : Nat) : List Nat :=
  let o := iOpc w
  match opFmt o with
  | some .b => [bSX w]
  | some .c => if o = 0x15 then [] else [cSX w]
  | some .d =>
    if o = 0x2D then [dSA w, dSA w + 1, dSB w]
    else if o = 0x21 ∨ (0x23 ≤ o ∧ o ≤ 0x2A) ∨ o = 0x36 then [dSA w, dSB w]
    else if o = 0x22 ∨ o = 0x2B ∨ (o = 0x31 ∧ dImm w = 0) then [dSA w]
    else []
  | none => []
  | some .a =>
    if o = 0x16 ∨ o = 0x4F ∨ o = 0x58 ∨ o = 0x5A then [iSA w]
    else if o = 0x59 ∨ o = 0x5B ∨ o = 0x62 then [iSA w, iSB w]
    else if o = 0x61 then (if bitAt w 15 then [iSA w] else []) ++ (if iRm w = 4 then [iSB w, iSB w + 1] else [])
    else if o = 0x70 ∨ o = 0x71 then [iSA w, iSA w + 1, iSB w]
    else []

/-! ### Column requests of a hob -/

/-- The request is a load or store of hob `n`. -/
def colOfHob (n : Nat) (r : ColReq) : Bool :=
  match r.op with
  | .hobLd m _ _ => m == n
  | .hobSt m _ _ => m == n
  | _ => false

/-- Requests of hob `n` that wait for a grant. -/
def hobReqs (s : State) (n : Nat) : List ColReq := (pairAt s (n / 32) (n % 32)).q.filter (colOfHob n)

/-- Column requests of hob `n` in flight (R68). -/
def hobFlight (s : State) (n : Nat) : Nat :=
  (hobReqs s n).length + (s.sched.portWait.filter fun r => colOfHob n r.2).length
    + (s.sched.landing.filter fun l => l.1 == n).length

/-- Vector registers of hob `n` with a load pending (R68). -/
def hobPending (s : State) (n : Nat) : List Nat :=
  (((hobReqs s n) ++ (s.sched.portWait.filter fun r => colOfHob n r.2).map (·.2)).filterMap fun r => match r.op with
    | .hobLd _ v _ => some v
    | _ => none)
  ++ (s.sched.landing.filter fun l => l.1 == n).map fun l => l.2.1

/-! ### Issue -/

/-- What an instruction works on. -/
structure HC where
  s : State
  /-- Hob number and hob. -/
  n : Nat
  h : Hob
  /-- Instruction word. -/
  w : Nat
  /-- The firing's number and itself. -/
  k : Nat
  x : Firing
deriving Repr

/-- The hob as the instruction `w` finds it: errors that SEC-DED corrects are counted, an uncorrectable vector register is
delivered as poison, and what the instruction writes is no longer in error (R72). -/
def ready (h : Hob) (w : Nat) : Hob :=
  let ts := vTouched w
  { h with
    vr := (ts.filter h.vrUe.contains).foldl (fun m r => smSet m r ⟨0, true⟩) h.vr
    vrUe := h.vrUe.filter fun r => !(ts.contains r)
    ce := h.ce + ((vReads w).filter h.soft.vr.contains).length + ((sReads w).filter h.soft.sr.contains).length
      + b2n (h.soft.im.contains h.pc)
    soft := { h.soft with vr := h.soft.vr.filter fun r => !((vWritten w).contains r) } }

/-- The block with hob `n` as the instruction `w` finds it. -/
def readied (s : State) (n w : Nat) : State :=
  if ready (hobOf s n) w = hobOf s n then s else setHob s n (ready (hobOf s n) w)

/-- Issue the instruction at the program counter of hob `n`, if it is `opc` (R94): the hob waits while a vector register
of the instruction has a load pending (R68); an uncorrectable instruction word or scalar source ends it (R72). A word
that the loader refuses is in no registered program, and none issues. The words of the library's programs are not the spec's: its
hobs go by what R149 to R173, R214 to R225 and R253 to R257 say that the programs do, and issue none (log entry 42). -/
def hobIssue (s : State) (n opc : Nat) (body : HC → State) : State :=
  match curFiring s with
  | none => s
  | some (k, x) =>
    let h := hobOf s n
    if !(executing x) || !(inRect x.f n) || h.st != .run || isLibrary x.f then s
    else if h.imemUe.contains h.pc then hobFinish s n hobImemError
    else match h.imem[h.pc]? with
      | none => s
      | some wd =>
        let w := wd.toNat
        if iOpc w != opc || !(wordOk w) then s
        else if (sReads w).any (h.srUe.contains ·) then hobFinish s n hobStateError
        else if (vTouched w).any ((hobPending s n).contains ·) then s
        else body ⟨readied s n w, n, ready h w, w, k, x⟩

/-- The hob after an instruction: the next one follows. -/
def HC.put (c : HC) (h : Hob) : State := setHob c.s c.n { h with pc := c.h.pc + 1 }

/-- A lane instruction has issued: its energy is charged in arrears, with that of its `ev` Heddle evaluations (R283,
R286). -/
def HC.lane (c : HC) (ev : Nat) (h : Hob) : State := chargeLane (c.put h) (1 + ev)

/-! ### Registers -/

def sReg (h : Hob) (i : Nat) : W32 := smGet 0 h.sr i
/-- Writing a scalar register removes its errors. -/
def setSReg (h : Hob) (i : Nat) (v : W32) : Hob :=
  { h with
    sr := smSet h.sr i v
    srUe := h.srUe.filter (· != i)
    soft := { h.soft with sr := h.soft.sr.filter (· != i) } }
/-- The 64-bit pair whose low word is register `i` (R101). -/
def sPair (h : Hob) (i : Nat) : Nat := (sReg h i).toNat + (sReg h (i + 1)).toNat * 2 ^ 32
def setSPair (h : Hob) (i v : Nat) : Hob :=
  setSReg (setSReg h i (BitVec.ofNat 32 v)) (i + 1) (BitVec.ofNat 32 (v / 2 ^ 32))

def vReg (h : Hob) (i : Nat) : Datum := smGet ⟨0, false⟩ h.vr i
def setVReg (h : Hob) (i : Nat) (d : Datum) : Hob := { h with vr := smSet h.vr i d }

/-- Some register of the groups is poisoned (R109). -/
def anyPoison (h : Hob) (rs : List Nat) : Bool := rs.any fun r => (vReg h r).poison

/-- Set sticky flags, visible and accumulated (R108). -/
def raise (h : Hob) (fl : Nat) : Hob := { h with sticky := h.sticky ||| BitVec.ofNat 32 (fl % 128 * 0x10001) }

/-- The elements of a register in a format: FP6 packs 32 in its low 192 bits (R111). -/
def elems (c : Nat) (g : Gran) : List Nat :=
  (List.range (elsPer c)).map fun k => bitsAt g.toNat (k * elBits c) (elBits c)

/-- The register that holds the elements. -/
def packEls (c : Nat) (xs : List Nat) : Gran :=
  BitVec.ofNat 256 (((List.range xs.length).zip xs).foldl (fun g e => g ||| (e.2 % 2 ^ elBits c) <<< (e.1 * elBits c)) 0)

/-- Elements of a group of `n` registers from `r`. -/
def groupEls (h : Hob) (c r n : Nat) : List Nat := (rangeFrom r n).flatMap fun i => elems c (vReg h i).bits

/-- The predicate bit of lane `k` of `n` (R120). -/
def predBit (h : Hob) (k n : Nat) : Bool := h.pred.getLsbD (k * 64 / n)

/-- Write results into the group of registers from `r`: element `k` of the group takes `f k`, or keeps its value where
that is none. A register that keeps an element keeps its poison bit (R109, R120). -/
def writeEls (h : Hob) (c r n : Nat) (f : Nat → Option Nat) : Hob :=
  (List.range n).foldl (fun g i =>
    let old := vReg h (r + i)
    let base := i * elsPer c
    let kept := (List.range (elsPer c)).any fun k => (f (base + k)).isNone
    if kept && old.poison then setVReg g (r + i) ⟨0, true⟩
    else
      let es := ((List.range (elsPer c)).zip (elems c old.bits)).map fun e => (f (base + e.1)).getD e.2
      setVReg g (r + i) ⟨packEls c es, false⟩) h

/-- A poisoned source: every destination register is written as zero with poison, and PZ is set (R109). -/
def poisonOut (h : Hob) (r n : Nat) : Hob :=
  raise ((rangeFrom r n).foldl (fun g i => setVReg g i ⟨0, true⟩) h) flPZ

/-- The rounding of an instruction, with the dynamic mode of the control (R99). -/
def rndOf (h : Hob) (rm : Nat) : Rnd :=
  match (if rm = 5 then bitsAt h.ctl.toNat 0 2 else rm) with
  | 0 => .rne
  | 1 => .rtz
  | 2 => .rdn
  | _ => .rup

/-- SAT of the control (R99). -/
def satOf (h : Hob) : Bool := bitAt h.ctl.toNat 2

/-! ### Lane instructions -/

/-- A lane function: rounding, operand elements, to a result in the destination format and flags. -/
abbrev LaneFn := Rnd → Bool → List Nat → Nat × Nat

/-- The element that the results of the lanes give at `k`, if that lane took part. -/
def resEl (res : List (Option (Nat × Nat))) (k : Nat) : Option Nat :=
  match res[k]? with
  | some (some x) => some x.1
  | _ => none

/-- The flags that the lanes that took part set. -/
def resFlags (res : List (Option (Nat × Nat))) : Nat :=
  res.foldl (fun a r => a ||| (r.map (·.2)).getD 0) 0

/-- The results of the lanes: none where P is set and the predicate bit is clear (R120). -/
def laneRes (h : Hob) (w lanes : Nat) (f : Nat → Nat × Nat) : List (Option (Nat × Nat)) :=
  (List.range lanes).map fun k => if iP w && !predBit h k lanes then none else some (f k)

/-- Run a lane function over the lanes of the source format: sources `srcs` are (register, count, format) groups with
one element per lane; the destination group has `n` registers of format `dst`. A lane whose predicate bit is clear is
left alone when P is set (R109, R120). -/
def laneRun (c : HC) (srcs : List (Nat × Nat × Nat)) (dst n lanes ev : Nat) (fn : Nat → LaneFn) : State :=
  let h := c.h
  let vd := iVD c.w
  if srcs.any (fun g => anyPoison h (rangeFrom g.1 g.2.1)) then c.lane ev (poisonOut h vd n)
  else
    let ops := srcs.map fun g => groupEls h g.2.2 g.1 g.2.1
    let res := laneRes h c.w lanes fun k =>
      fn k (rndOf h (iRm c.w)) (satOf h) (ops.map fun o => o.getD k 0)
    c.lane ev (raise (writeEls h dst vd n (resEl res)) (resFlags res))

/-- Round a value with its flags into a format. -/
def deliver (dst : Nat) (r : Rnd) (sat : Bool) (v : FV × Nat) : Nat × Nat :=
  let e := elEnc dst r sat v.1
  (e.1, e.2 ||| v.2)

/-- A floating or integer operation on exact values; a signalling NaN operand sets NV (R106). -/
def exactFn (src dst : Nat) (f : Rnd → List FV → FV × Nat) : LaneFn := fun r sat xs =>
  let e := deliver dst r sat (f r (xs.map (elVal src)))
  (e.1, e.2 ||| (if xs.any (elSNaN src) then flNV else 0))

/-- A fused operation: any NaN operand sets NV (R107). -/
def fusedFn (f : Rnd → List FV → FV × Nat) : LaneFn := fun r sat xs =>
  let vs := xs.map (elVal 0)
  let e := deliver 0 r sat (f r vs)
  (e.1, e.2 ||| (if vs.any (· == .nan) then flNV else 0))

/-- A same-width lane instruction on VA, and VB or VC as listed. -/
def laneSame (c : HC) (regs : List Nat) (f : Rnd → List FV → FV × Nat) : State :=
  let m := iFmt c.w
  laneRun c (regs.map fun r => (r, 1, m)) m 1 (elsPer m) 0 fun _ => exactFn m m f

/-- An FP32 lane instruction with scalar operands after the vector ones. -/
def laneScalar (c : HC) (regs : List Nat) (scal : List W32) (fused : Bool) (f : Rnd → List FV → FV × Nat) : State :=
  laneRun c (regs.map fun r => (r, 1, 0)) 0 1 8 0 fun _ r sat xs =>
    let ys := xs ++ scal.map (·.toNat)
    if fused then fusedFn f r sat ys else exactFn 0 0 f r sat ys

/-- A lane instruction that writes a scalar: a poisoned source ends the hob (R109). -/
def laneToScalar (c : HC) (n : Nat) (f : State → Hob → State × Hob) : State :=
  if anyPoison c.h (rangeFrom (iVA c.w) n) then hobFinish c.s c.n hobPoisonScalar
  else
    let r := f c.s c.h
    HC.lane { c with s := r.1 } 0 r.2

/-! ### Scalar instructions -/

/-- A scalar instruction that writes SD. -/
def scalarOp (c : HC) (v : W32) : State := c.put (setSReg c.h (dSD c.w) v)

/-- Flags Z, N, C, V of a subtraction; C is set when it does not borrow (R121). -/
def cmpFlags (h : Hob) (a b : W32) : Hob :=
  let d := a - b
  let v := (a.msb != b.msb) && (d.msb != a.msb)
  { h with flags := b2n (d == 0) + 2 * b2n d.msb + 4 * b2n (b.toNat ≤ a.toNat) + 8 * b2n v + 16 * (h.flags / 16) }

/-- A condition holds (R121). -/
def condHolds (h : Hob) (cond : Nat) : Bool :=
  let z := bitAt h.flags 0
  let n := bitAt h.flags 1
  let cy := bitAt h.flags 2
  let v := bitAt h.flags 3
  let a := bitAt h.flags 4
  let e := bitAt h.flags 5
  match cond with
  | 0 => true
  | 1 => z
  | 2 => !z
  | 3 => n != v
  | 4 => n == v
  | 6 => cy
  | 7 => !cy
  | 8 => a
  | 9 => !a
  | 10 => e
  | 11 => !e
  | _ => false

/-- The ENDL that matches the LOOP before position `i`, looking at the words `ws` at `i` and after, with `d` inner loops
open (R122). -/
def findEndl : List W64 → Nat → Nat → Option Nat
  | [], _, _ => none
  | w :: ws, i, d =>
    let o := iOpc w.toNat
    if o = 0x31 then findEndl ws (i + 1) (d + 1)
    else if o = 0x32 then (if d = 0 then some i else findEndl ws (i + 1) (d - 1))
    else findEndl ws (i + 1) d

/-- The LOOP that matches the ENDL at `i`: the words before it, nearest first. -/
def findLoop : List W64 → Nat → Nat → Option Nat
  | [], _, _ => none
  | w :: ws, i, d =>
    let o := iOpc w.toNat
    if o = 0x32 then findLoop ws (i - 1) (d + 1)
    else if o = 0x31 then (if d = 0 then some (i - 1) else findLoop ws (i - 1) (d - 1))
    else findLoop ws (i - 1) d

/-! ### Addresses -/

/-- Bank address of LD and ST (R103). -/
def bankAddr (c : HC) : Nat :=
  ((c.h.lp.ob.getD (bOpd c.w) 0) + (sReg c.h (bSX c.w)).toNat + bImm c.w) % 2 ^ 27

/-- The bank access is allowed (R103). -/
def bankOk (c : HC) : Bool :=
  let a := bankAddr c
  a % 32 == 0 && c.h.lp.ob.getD (bOpd c.w) 0 ≤ a && a < c.h.lp.obEnd.getD (bOpd c.w) 0

/-- Post-increment of the index scalar (R103, R104). -/
def incSX (h : Hob) (inc : Bool) (sx : Nat) : Hob := if inc then setSReg h sx (sReg h sx + 32) else h

/-- Hob-store address of format C (R104). -/
def storeAddr (c : HC) : Nat := ((sReg c.h (cSX c.w)).toNat + iImm16 c.w) % 2 ^ 32

/-- Word of the hob store at byte offset `o` of scratch area `a` (R104). -/
def scratchWord (h : Hob) (a o : Nat) : Nat := (h.lp.bseg + 4096 * a + o) / 32

/-- Scratch area `a` lies within the hob store. -/
def areaOk (h : Hob) (a : Nat) : Bool := h.lp.bseg + 4096 * (a + 1) ≤ 65536

/-- A word of the hob store; an uncorrectable one is delivered as poison (R72). -/
def storeRd (h : Hob) (w : Nat) : Datum :=
  if h.stUe.contains w then ⟨0, true⟩
  else smGet ⟨Config.freeBits (h.scr + w), Config.freeFlag (h.scr + w)⟩ h.store w

/-- Count a corrected word of the hob store (R72). -/
def storeCe (h : Hob) (w : Nat) : Hob := { h with ce := h.ce + b2n (h.soft.st.contains w) }

def storeWr (h : Hob) (w : Nat) (d : Datum) : Hob :=
  { h with
    store := smSet h.store w d
    stUe := h.stUe.filter (· != w)
    soft := { h.soft with st := h.soft.st.filter (· != w) } }

end Sys2Proof.Machine
end

