-- ==== Sys2Proof/Machine/HobLane.lean ====
section
/-! DEFINITION. Lane instructions of the hob (R100, R105 to R118, R120). -/

namespace Sys2Proof.Machine

/-- The vector operands of format A. -/
def HC.va (c : HC) : Nat := iVA c.w
def HC.vb (c : HC) : Nat := iVB c.w

/-- The two operands of a lane function. -/
def bin (f : FV → FV → FV × Nat) : Rnd → List FV → FV × Nat := fun _ xs => f (xs.getD 0 .nan) (xs.getD 1 .nan)

/-- VADD: VA + VB (R100). -/
def execVadd (hob : Nat) (s : State) : Host.Outcome State Fault Refusal :=
  act s fun s => hobIssue s hob 0x40 fun c => laneSame c [c.va, c.vb] fun r => bin (fvAdd r) r

/-- VSUB: VA − VB (R100, R106). -/
def execVsub (hob : Nat) (s : State) : Host.Outcome State Fault Refusal :=
  act s fun s => hobIssue s hob 0x41 fun c => laneSame c [c.va, c.vb] fun r => bin (fun a b => fvAdd r a (fvNeg b)) r

/-- VMUL: VA × VB (R100). -/
def execVmul (hob : Nat) (s : State) : Host.Outcome State Fault Refusal :=
  act s fun s => hobIssue s hob 0x42 fun c => laneSame c [c.va, c.vb] (bin fvMul)

/-- ±(a × b) + c, the product exact (R70, R106). -/
def fmaFn (neg : Bool) (r : Rnd) (a b c : FV) : FV × Nat :=
  fvThen (fvMul a b) fun p => fvAdd r (if neg then fvNeg p else p) c

/-- A fused multiply-add lane: a and b in the source format, c in the destination's. -/
def fmaLane (src dst : Nat) (neg : Bool) : LaneFn := fun r sat xs =>
  let a := xs.getD 0 0
  let b := xs.getD 1 0
  let d := xs.getD 2 0
  let e := deliver dst r sat (fmaFn neg r (elVal src a) (elVal src b) (elVal dst d))
  (e.1, e.2 ||| (if elSNaN src a || elSNaN src b || elSNaN dst d then flNV else 0))

/-- VFMA and VFNMA, same width or widening: the addend and the destination are groups of the destination format
(R70, R71). -/
def fmaBody (neg : Bool) (c : HC) : State :=
  let src := iFmt c.w
  let dst := iFmt2 c.w
  let n := if fmaWide c.w then wideSpan c.w else 1
  laneRun c [(c.va, 1, src), (c.vb, 1, src), (iVC c.w, n, dst)] dst n (elsPer src) 0 fun _ => fmaLane src dst neg

/-- VFMA: VA × VB + VC, one rounding (R100). -/
def execVfma (hob : Nat) (s : State) : Host.Outcome State Fault Refusal :=
  act s fun s => hobIssue s hob 0x43 (fmaBody false)

/-- VFNMA: −(VA × VB) + VC, one rounding (R100). -/
def execVfnma (hob : Nat) (s : State) : Host.Outcome State Fault Refusal :=
  act s fun s => hobIssue s hob 0x44 (fmaBody true)

/-- Maximum and minimum: NaN where either operand is, −0 below +0 (R106). -/
def fvMax (a b : FV) : FV × Nat := if a == .nan || b == .nan then (.nan, 0) else (if fvLt a b then b else a, 0)
def fvMin (a b : FV) : FV × Nat := if a == .nan || b == .nan then (.nan, 0) else (if fvLt b a then b else a, 0)

/-- VMAX (R106). -/
def execVmax (hob : Nat) (s : State) : Host.Outcome State Fault Refusal :=
  act s fun s => hobIssue s hob 0x45 fun c => laneSame c [c.va, c.vb] (bin fvMax)

/-- VMIN (R106). -/
def execVmin (hob : Nat) (s : State) : Host.Outcome State Fault Refusal :=
  act s fun s => hobIssue s hob 0x46 fun c => laneSame c [c.va, c.vb] (bin fvMin)

/-- A sign operation: no flag of its own, as IEEE 754 gives abs and negate. -/
def signFn (m : Nat) (f : FV → FV) : LaneFn := fun r sat xs => elEnc m r sat (f (elVal m (xs.getD 0 0)))

def fvAbs : FV → FV
  | .nan => .nan
  | .inf _ => .inf false
  | .fin _ n d => .fin false n d

/-- VABS: magnitude (R100). -/
def execVabs (hob : Nat) (s : State) : Host.Outcome State Fault Refusal :=
  act s fun s => hobIssue s hob 0x47 fun c =>
    laneRun c [(c.va, 1, iFmt c.w)] (iFmt c.w) 1 (elsPer (iFmt c.w)) 0 fun _ => signFn (iFmt c.w) fvAbs

/-- VNEG: sign inverted (R100). -/
def execVneg (hob : Nat) (s : State) : Host.Outcome State Fault Refusal :=
  act s fun s => hobIssue s hob 0x48 fun c =>
    laneRun c [(c.va, 1, iFmt c.w)] (iFmt c.w) 1 (elsPer (iFmt c.w)) 0 fun _ => signFn (iFmt c.w) fvNeg

/-- VSIGN: +1, −1 or +0 by the sign; the canonical NaN for NaN (R106). -/
def fvSgn : FV → FV
  | .nan => .nan
  | .inf s => .fin s 1 1
  | .fin s n _ => if n = 0 then fvZero false else .fin s 1 1

def execVsign (hob : Nat) (s : State) : Host.Outcome State Fault Refusal :=
  act s fun s => hobIssue s hob 0x49 fun c => laneSame c [c.va] fun _ xs => (fvSgn (xs.getD 0 .nan), 0)

/-- A comparison: NE and UN are true of a NaN operand, every other is false (R106). -/
def cmpHolds (k : Config.Cmp) (a b : FV) : Bool :=
  let un := a == .nan || b == .nan
  match k with
  | .eq => fvEq a b
  | .ne => un || !fvEq a b
  | .lt => !un && !fvEq a b && fvLt a b
  | .le => !un && (fvEq a b || fvLt a b)
  | .gt => !un && !fvEq a b && fvLt b a
  | .ge => !un && (fvEq a b || fvLt b a)
  | .un => un
  | .ord => !un

/-- Flags A and E of a mask of lane results (R120). -/
def setAE (h : Hob) (any every : Bool) : Hob := { h with flags := h.flags % 16 + 16 * b2n any + 32 * b2n every }

/-- The predicate mask with the lanes' results: each lane's whole group of bits; a lane that P leaves out keeps its
bits (R120). -/
def cmpMask (h : Hob) (lanes : Nat) (res : List (Option Bool)) : W64 :=
  BitVec.ofNat 64 ((List.range 64).foldl (fun m i =>
    let b := match (res[i * lanes / 64]?).getD none with
      | some v => v
      | none => h.pred.getLsbD i
    m + b2n b * 2 ^ i) 0)

/-- VCMP: the predicate mask and flags A and E (R120). With a poisoned source the mask is a free value, and the flags
follow it (R109 gives the mask no value; DESIGN CHOICE, log entry 73). With P set, A and E count the live lanes' results alone, and E is false where a lane is
left out (DESIGN CHOICE, log entry 35); an ordering with a quiet NaN raises no NV (DESIGN CHOICE, log entry 36). -/
def vcmpBody (c : HC) : State :=
  let m := iFmt c.w
  let lanes := elsPer m
  if anyPoison c.h [c.va, c.vb] then
    let f := takeFree c.s
    let mask : W64 := BitVec.ofNat 64 f.1.toNat
    HC.lane { c with s := f.2 } 0 (raise (setAE { c.h with pred := mask } (mask != 0) (mask == BitVec.allOnes 64)) flPZ)
  else
    let xs := elems m (vReg c.h c.va).bits
    let ys := elems m (vReg c.h c.vb).bits
    let live := (List.range lanes).filter fun k => !(iP c.w) || predBit c.h k lanes
    let res : List (Option Bool) := (List.range lanes).map fun k =>
      if iP c.w && !predBit c.h k lanes then none
      else some (cmpHolds (Config.vcmpCond (bitsAt c.w 0 3)) (elVal m (xs.getD k 0)) (elVal m (ys.getD k 0)))
    let fl := if live.any fun k => elSNaN m (xs.getD k 0) || elSNaN m (ys.getD k 0) then flNV else 0
    c.lane 0 (raise (setAE { c.h with pred := cmpMask c.h lanes res } (res.any (· == some true))
      (res.all (· == some true))) fl)

def execVcmp (hob : Nat) (s : State) : Host.Outcome State Fault Refusal := act s fun s => hobIssue s hob 0x4A vcmpBody

/-- VSEL: VA where the predicate is set, else VB (R100, R120). -/
def execVsel (hob : Nat) (s : State) : Host.Outcome State Fault Refusal :=
  act s fun s => hobIssue s hob 0x4B fun c =>
    let m := iFmt c.w
    laneRun c [(c.va, 1, m), (c.vb, 1, m)] m 1 (elsPer m) 0 fun k _ _ xs =>
      (if predBit c.h k (elsPer m) then xs.getD 0 0 else xs.getD 1 0, 0)

/-- A bitwise operation on the eight FP32 lanes. -/
def bitBody (f : Nat → Nat → Nat) (c : HC) : State :=
  laneRun c [(c.va, 1, 0), (c.vb, 1, 0)] 0 1 8 0 fun _ _ _ xs => (f (xs.getD 0 0) (xs.getD 1 0), 0)

/-- VAND (R100). -/
def execVand (hob : Nat) (s : State) : Host.Outcome State Fault Refusal := act s fun s => hobIssue s hob 0x4C (bitBody (· &&& ·))
/-- VOR (R100). -/
def execVor (hob : Nat) (s : State) : Host.Outcome State Fault Refusal := act s fun s => hobIssue s hob 0x4D (bitBody (· ||| ·))
/-- VXOR (R100). -/
def execVxor (hob : Nat) (s : State) : Host.Outcome State Fault Refusal := act s fun s => hobIssue s hob 0x4E (bitBody (· ^^^ ·))

/-- VSPLAT: every lane ← S[SA] converted to FMT, an FP32 value to a floating format, an INT32 value to an integer one
(R100). -/
def execVsplat (hob : Nat) (s : State) : Host.Outcome State Fault Refusal :=
  act s fun s => hobIssue s hob 0x4F fun c =>
    let m := iFmt c.w
    let src := wideOf m
    laneRun c [] m 1 (elsPer m) 0 fun _ r sat _ =>
      let x := (sReg c.h (iSA c.w)).toNat
      let e := elEnc m r sat (elVal src x)
      (e.1, e.2 ||| (if elSNaN src x then flNV else 0))

/-- VPERM: element k ← element (VC element k) of VA followed by VB (R100). An index past the two registers selects
nothing the manual names: the lane takes bits of a free value (DESIGN CHOICE, log entry 74). -/
def vpermBody (c : HC) : State :=
  let m := iFmt c.w
  let n := elsPer m
  let idx := elems m (vReg c.h (iVC c.w)).bits
  let f := takeFree c.s
  let src := elems m (vReg c.h c.va).bits ++ elems m (vReg c.h c.vb).bits
  let c' := if idx.any (fun i => 2 * n ≤ i) then { c with s := f.2 } else c
  laneRun c' [(c.va, 1, m), (c.vb, 1, m), (iVC c.w, 1, m)] m 1 n 0 fun k _ _ xs =>
    ((src[xs.getD 2 0]?).getD (bitsAt f.1.toNat (k * elBits m) (elBits m)), 0)

def execVperm (hob : Nat) (s : State) : Host.Outcome State Fault Refusal := act s fun s => hobIssue s hob 0x50 vpermBody

/-- An element widened to 32 bits: FP32, or sign-extended (R100 VEXT). -/
def widen (m x : Nat) : W32 :=
  if elBits m = 32 then BitVec.ofNat 32 x
  else BitVec.ofNat 32 (elEnc (wideOf m) .rne true (elVal m x)).1

/-- VEXT: S[SA] ← element IMM16[5:0] of VA, widened (R100, R109). An element the register does not hold is a free value
(DESIGN CHOICE, log entry 74). -/
def vextBody (c : HC) : State :=
  laneToScalar c 1 fun s h =>
    let m := iFmt c.w
    let i := bitsAt c.w 0 6
    match (elems m (vReg h c.va).bits)[i]? with
    | some x => (s, setSReg h (iSA c.w) (widen m x))
    | none => ((takeFree s).2, setSReg h (iSA c.w) (BitVec.ofNat 32 (takeFree s).1.toNat))

def execVext (hob : Nat) (s : State) : Host.Outcome State Fault Refusal := act s fun s => hobIssue s hob 0x51 vextBody

/-- One level of a tree sum in a format, with flags (R83). -/
def redLevel (f : Nat → Nat → Nat × Nat) : List Nat → List Nat × Nat
  | a :: b :: xs =>
    let r := f a b
    let t := redLevel f xs
    (r.1 :: t.1, r.2 ||| t.2)
  | xs => (xs, 0)

def redTree (f : Nat → Nat → Nat × Nat) : Nat → List Nat → Nat × Nat
  | 0, xs => (xs.headD 0, 0)
  | fuel + 1, xs => match xs with
    | [] => (0, 0)
    | [x] => (x, 0)
    | _ =>
      let l := redLevel f xs
      let t := redTree f fuel l.1
      (t.1, l.2 ||| t.2)

/-- VREDSUM: S[SA] ← the tree sum of the lanes of VA, in the order of R83 (R100, R109). -/
def vredsumBody (c : HC) : State :=
  laneToScalar c 1 fun s h =>
    let m := iFmt c.w
    let add : Nat → Nat → Nat × Nat := fun a b =>
      exactFn m m (fun r => bin (fvAdd r) r) (rndOf h (iRm c.w)) (satOf h) [a, b]
    let r := redTree add 4 (elems m (vReg h c.va).bits)
    (s, raise (setSReg h (iSA c.w) (BitVec.ofNat 32 r.1)) r.2)

def execVredsum (hob : Nat) (s : State) : Host.Outcome State Fault Refusal := act s fun s => hobIssue s hob 0x52 vredsumBody

/-- The first of the largest lanes, −0 below +0 as R106 orders them for VMAX (DESIGN CHOICE, log entry 37). -/
def argmax : List (Nat × FV) → Option (Nat × FV)
  | [] => none
  | x :: xs => match argmax xs with
    | none => some x
    | some y => if fvLt x.2 y.2 then some y else some x

/-- VARGMAX: S[SA] ← the largest lane of VA; S[SB] ← its index + IMM16 (R100, R109). Of equal lanes the lowest counts
(R255); with a NaN lane the manual orders nothing, and both results are free values (DESIGN CHOICE, log entry 75). -/
def vargmaxBody (c : HC) : State :=
  laneToScalar c 1 fun s h =>
    let es := elems 0 (vReg h c.va).bits
    let vs := es.map (elVal 0)
    if vs.any (· == .nan) then
      let f := takeFree s
      (f.2, setSReg (setSReg h (iSA c.w) (BitVec.ofNat 32 f.1.toNat)) (iSB c.w) (BitVec.ofNat 32 (f.1.toNat / 2 ^ 32)))
    else
      let i := ((argmax ((List.range 8).zip vs)).getD (0, .nan)).1
      (s, setSReg (setSReg h (iSA c.w) (BitVec.ofNat 32 (es.getD i 0))) (iSB c.w) (BitVec.ofNat 32 (i + iImm16 c.w)))

def execVargmax (hob : Nat) (s : State) : Host.Outcome State Fault Refusal := act s fun s => hobIssue s hob 0x53 vargmaxBody

/-! ### Fused and approximation instructions (R107, R116) -/

/-- Operand `i` of a lane function. -/
def opd (xs : List FV) (i : Nat) : FV := xs.getD i .nan

/-- VLERP: VA + S[SA] × (VB − VA), one rounding (R107). -/
def execVlerp (hob : Nat) (s : State) : Host.Outcome State Fault Refusal :=
  act s fun s => hobIssue s hob 0x58 fun c => laneScalar c [c.va, c.vb] [sReg c.h (iSA c.w)] true fun r xs =>
    fvThen (fvAdd r (opd xs 1) (fvNeg (opd xs 0))) fun d =>
      fvThen (fvMul (opd xs 2) d) fun p => fvAdd r (opd xs 0) p

/-- x₂ × x₀ + x₃ × x₁ × x₁, rounded once (R107). -/
def ema2Fn (r : Rnd) (xs : List FV) : FV × Nat :=
  fvThen (fvMul (opd xs 2) (opd xs 0)) fun p =>
    fvThen (fvMul (opd xs 3) (opd xs 1)) fun q =>
      fvThen (fvMul q (opd xs 1)) fun q2 => fvAdd r p q2

/-- x₀ / (√x₁ + x₂), rounded once (R107). -/
def divsqFn (r : Rnd) (xs : List FV) : FV × Nat :=
  if (opd xs 0) == .nan then (.nan, 0) else fvDivsq r (opd xs 0) (opd xs 1) (opd xs 2)

/-- x₂ × x₀ + x₃ × x₁, rounded once (R107). -/
def axpbyFn (r : Rnd) (xs : List FV) : FV × Nat :=
  fvThen (fvMul (opd xs 2) (opd xs 0)) fun p => fvThen (fvMul (opd xs 3) (opd xs 1)) fun q => fvAdd r p q

/-- VEMA2: S[SA] × VA + S[SB] × VB × VB, one rounding (R107). -/
def execVema2 (hob : Nat) (s : State) : Host.Outcome State Fault Refusal :=
  act s fun s => hobIssue s hob 0x59 fun c => laneScalar c [c.va, c.vb] [sReg c.h (iSA c.w), sReg c.h (iSB c.w)] true ema2Fn

/-- VDIVSQ: VA / (√VB + S[SA]), one rounding (R107). -/
def execVdivsq (hob : Nat) (s : State) : Host.Outcome State Fault Refusal :=
  act s fun s => hobIssue s hob 0x5A fun c => laneScalar c [c.va, c.vb] [sReg c.h (iSA c.w)] true divsqFn

/-- VAXPBY: S[SA] × VA + S[SB] × VB, one rounding (R107). -/
def execVaxpby (hob : Nat) (s : State) : Host.Outcome State Fault Refusal :=
  act s fun s => hobIssue s hob 0x5B fun c => laneScalar c [c.va, c.vb] [sReg c.h (iSA c.w), sReg c.h (iSB c.w)] true axpbyFn

/-- VDIV: VA / VB (R116). -/
def execVdiv (hob : Nat) (s : State) : Host.Outcome State Fault Refusal :=
  act s fun s => hobIssue s hob 0x5C fun c => laneScalar c [c.va, c.vb] [] false (bin fvDiv)

/-- VSQRT: √VA (R116). -/
def execVsqrt (hob : Nat) (s : State) : Host.Outcome State Fault Refusal :=
  act s fun s => hobIssue s hob 0x5D fun c => laneScalar c [c.va] [] false fun _ xs => fvSqrt (opd xs 0)

/-- 1 / √x (R116). -/
def fvRsqrt (r : Rnd) (x : FV) : FV × Nat :=
  match x with
  | .nan => (.nan, 0)
  | .inf s => if s then (.nan, flNV) else (fvZero false, 0)
  | .fin s n _ =>
    if n = 0 then (.inf s, flDZ)
    else if s then (.nan, flNV)
    else fvDivsq r (.fin false 1 1) x (fvZero false)

/-- VRSQRT: 1 / √VA, one rounding (R116). -/
def execVrsqrt (hob : Nat) (s : State) : Host.Outcome State Fault Refusal :=
  act s fun s => hobIssue s hob 0x5E fun c => laneScalar c [c.va] [] false fun r xs => fvRsqrt r (opd xs 0)

/-- VLOG2: log2 VA, one rounding (R116). -/
def execVlog2 (hob : Nat) (s : State) : Host.Outcome State Fault Refusal :=
  act s fun s => hobIssue s hob 0x5F fun c => laneScalar c [c.va] [] false fun _ xs => fvLog2 (opd xs 0)

/-- VEXP2: 2^VA, one rounding (R116). -/
def execVexp2 (hob : Nat) (s : State) : Host.Outcome State Fault Refusal :=
  act s fun s => hobIssue s hob 0x60 fun c => laneScalar c [c.va] [] false fun _ xs => fvExp2 (opd xs 0)

/-! ### Conversions (R111 to R115) -/

/-- A value × 2^k. -/
def fvScale (v : FV) (k : Int) : FV :=
  match v with
  | .fin s n d => let q := scaleQ n d k; .fin s q.1 q.2
  | v => v

/-- The rounding of element `k` of a VCVT: stochastic draws by parameter index (R113). -/
def cvtRnd (c : HC) (k : Nat) : Rnd :=
  if iRm c.w = 4 then
    .sr (paramDraw c.x.key (sPair c.h (iSB c.w) + k) (bitsAt c.h.ctl.toNat 16 16) c.x.f.epoch)
  else rndOf c.h (iRm c.w)

/-- One converted element (R111). A NaN or scale of 0xFF gives the destination's NaN, or +0 with NV where it has none. -/
def cvtElem (c : HC) (k x : Nat) : Nat × Nat :=
  let src := iFmt c.w
  let dst := iFmt2 c.w
  let X := (sReg c.h (iSA c.w)).toNat % 256
  let sn := if elSNaN src x then flNV else 0
  if bitAt c.w 15 ∧ X = 0xFF then ((elNaN dst).1, flNV)
  else
    let v := elVal src x
    let v' := if bitAt c.w 15 then fvScale v (if cvtNarrow c.w then 127 - (X : Int) else (X : Int) - 127) else v
    let e := elEnc dst (cvtRnd c k) (satOf c.h) v'
    (e.1, e.2 ||| sn)

/-- First element of the destination that a VCVT writes: a widening one writes from 0 (R111). -/
def cvtPos (w : Nat) : Nat := if elBits (iFmt w) < elBits (iFmt2 w) then 0 else bitsAt w 0 8

/-- The predicate bit of element `k` of a VCVT: narrow lane k governs a widening one, the destination's lane a narrowing one (R120). -/
def cvtBit (h : Hob) (w k : Nat) : Bool :=
  if elBits (iFmt w) < elBits (iFmt2 w) then predBit h k (cvtN w) else predBit h (cvtPos w + k) (elsPer (iFmt2 w))

/-- VCVT (R111): evaluations of Heddle are charged, one for each run of eight parameter indices (R113). -/
def vcvtBody (c : HC) : State :=
  let n := cvtN c.w
  let h := c.h
  let p := sPair h (iSB c.w)
  let ev := if iRm c.w = 4 then (p + n - 1) / 8 - p / 8 + 1 else 0
  if anyPoison h (rangeFrom c.va (cvtCount c.w)) then c.lane ev (poisonOut h (iVD c.w) (cvtDst c.w))
  else
    let xs := groupEls h (iFmt c.w) c.va (cvtCount c.w)
    let pos := cvtPos c.w
    let res := (List.range n).map fun k => if iP c.w && !(cvtBit h c.w k) then none else some (cvtElem c k (xs.getD k 0))
    c.lane ev (raise (writeEls h (iFmt2 c.w) (iVD c.w) (cvtDst c.w) fun k =>
      if k < pos then none else resEl res (k - pos)) (resFlags res))

def execVcvt (hob : Nat) (s : State) : Host.Outcome State Fault Refusal := act s fun s => hobIssue s hob 0x61 vcvtBody

/-- One element of VCVTS16 (R114). -/
def s16Elem (r : Rnd) (tagOk : Bool) (scale : Nat) (mult : FV) (x : Nat) : Nat × Nat :=
  if !tagOk then (0, 0)
  else if scale = 0xFF then (0x7FC00000, flNV)
  else
    let v := decodeF fp16 x
    if v == .nan || mult == .nan then (0x7FC00000, flNV)
    else
      let p := fvMul (fvScale v ((scale : Int) - 127)) mult
      let e := encodeF fp32 r true p.1
      (e.1, e.2 ||| p.2)

/-- VCVTS16: one S16 column to an FP32 pair (R114). -/
def vcvts16Body (c : HC) : State :=
  let h := c.h
  if anyPoison h [c.va, c.vb] then c.lane 0 (poisonOut h (iVD c.w) 2)
  else
    let i := bitsAt c.w 0 4
    let scale := bitsAt (vReg h c.vb).bits.toNat (16 * i) 8
    let tag := bitsAt (vReg h c.vb).bits.toNat (16 * i + 8) 8
    let tagOk := tag == (sReg h (iSB c.w)).toNat % 256
    let xs := elems 2 (vReg h c.va).bits
    let res := laneRes h c.w 16 fun k =>
      s16Elem (rndOf h (iRm c.w)) tagOk scale (f32 (sReg h (iSA c.w))) (xs.getD k 0)
    c.lane 0 (raise (writeEls h 0 (iVD c.w) 2 (resEl res)) (resFlags res))

def execVcvts16 (hob : Nat) (s : State) : Host.Outcome State Fault Refusal := act s fun s => hobIssue s hob 0x62 vcvts16Body

/-- Largest exponent of an MX element format (R115). -/
def mxEmax (m : Nat) : Int :=
  match m with
  | 3 => 8 | 4 => 15 | 9 => 4 | 0xA => 2 | 6 => 2 | _ => 0

/-- The E8M0 block scale of FP32 elements (R115), and whether NV is set. -/
def mxScale (m : Nat) (xs : List Nat) : Nat × Bool :=
  let vs := xs.map (elVal 0)
  if vs.any (fun v => match v with
      | .nan => true
      | .inf _ => true
      | _ => false) then (0xFF, true)
  else
    let big := vs.foldl (fun a v => if fvLt a (fvAbs v) then fvAbs v else a) (fvZero false)
    match big with
    | .fin _ n d => if n = 0 then (0x7F, false) else ((max 0 (min 0xFE (ilogQ n d - mxEmax m + 127))).toNat, false)
    | _ => (0x7F, false)

/-- VMXSC: S[SA] ← the block scale of the 32 elements in VA to VA+3 (R115, R109). -/
def vmxscBody (c : HC) : State :=
  laneToScalar c 4 fun s h =>
    let r := mxScale (iFmt2 c.w) (groupEls h 0 c.va 4)
    (s, raise (setSReg h (iSA c.w) (BitVec.ofNat 32 r.1)) (if r.2 then flNV else 0))

def execVmxsc (hob : Nat) (s : State) : Host.Outcome State Fault Refusal := act s fun s => hobIssue s hob 0x63 vmxscBody

/-! ### Heddle instructions (R117, R118) -/

/-- The two evaluations of HRND and HGUMB (R117). -/
def hrndBits (c : HC) : BitVec 256 :=
  let p := sPair c.h (iSA c.w)
  let st := (sReg c.h (iSB c.w)).toNat
  let ev (q : Nat) : BitVec 128 := heddle c.x.key (hedCtr q st (bitsAt c.w 0 8) c.x.f.epoch)
  ev (p + 1) ++ ev p

/-- HRND: VD ← 256 Heddle bits (R117). -/
def execHrnd (hob : Nat) (s : State) : Host.Outcome State Fault Refusal :=
  act s fun s => hobIssue s hob 0x70 fun c =>
    let g := elems 0 (hrndBits c)
    laneRun c [] 0 1 8 2 fun k _ _ _ => (g.getD k 0, 0)

/-- The Gumbel sample of a 32-bit word (R118). -/
def gumbel (w : Nat) : W32 :=
  let u := mkFin false (2 * (w / 2 ^ 9) + 1) (-24)
  let t1 := f32Enc .rne (fvLog2 u).1
  let t2 := f32Mul t1 0xBF317218
  let t3 := f32Enc .rne (fvLog2 (f32 t2)).1
  f32Mul t3 0xBF317218

/-- HGUMB: VD ← eight Gumbel samples (R118); its steps set no flag (DESIGN CHOICE, log entry 34). -/
def execHgumb (hob : Nat) (s : State) : Host.Outcome State Fault Refusal :=
  act s fun s => hobIssue s hob 0x71 fun c =>
    let g := elems 0 (hrndBits c)
    laneRun c [] 0 1 8 2 fun k _ _ _ => ((gumbel (g.getD k 0)).toNat, 0)

end Sys2Proof.Machine
end

