-- ==== Sys2Proof/Machine/SlotOps.lean ====
section
/-! DEFINITION. The column slot of a bank pair, in the order of R278, with ballast (R290). -/

namespace Sys2Proof.Machine

/-- Nanoseconds of the ramp interval up to the end of the current microsecond (R289). -/
def rampElapsed (s : State) : Nat :=
  (s.clk.gtc.toNat + 1000000 - fld s.sched.ramp 32 10 * 1000) % 1000000 + 1000

/-- Ballast in an idle slot: a read column of an open row with its data discarded, issued while the interval's energy so far is
below the floor target's pace, with ballast's own power within BALLAST_MAX (R290; even pacing, log entry 15); none while the
governor limit has just fallen, or while R286 holds requests back (R286, R291). -/
def ballastSlot (s : State) (p : PairS) : State :=
  let c := s.sched
  let ns := rampElapsed s
  if c.noBallast ∨ c.blocked ≠ 4 ∨ f32Floor c.floorT (1000 * ns) ≤ c.energy
      ∨ fld c.ramp 16 9 * 500 * ns < c.ballastIv + eRd s
      ∨ (rowOf p 0 = none ∧ rowOf p 1 = none ∧ rowOf p 2 = none ∧ rowOf p 3 = none) then s
  else match spend s 3 (eRd s) with
    | some s1 => modSched s1 fun c => { c with ballast := c.ballast + eRd s, ballastIv := c.ballastIv + eRd s }
    | none => s

/-- Positions 6 to 8 of R278: an aligned or pulled-in refresh or an undeferred calibration slice, then the sweep, then
ballast. Migration has commands of its own. -/
def lowSlot (s : State) (die pos : Nat) (pullIn : Bool) : State :=
  let p := pairAt s die pos
  match alignedGroup p with
  | some g => refresh s die pos g
  | none =>
    if p.calDue ∧ p.opLeft = 0 ∧ !(nearForced p 4) then calibrate s die pos false
    else match (if pullIn then pulledGroup p else none) with
      | some g => modSched (refresh s die pos g) fun c => { c with refPulled := c.refPulled + 1 }
      | none =>
        if p.opLeft ≠ 0 ∨ (colPick p 4).isSome then s
        else match sweepSlot s die pos with
          | some t => t
          | none => if p.q = [] then ballastSlot s p else s

/-- The sweep, raised to ash, comes before the ash request that the rotation would pick: it takes its turn as a source of the
base-die engines (R278, R279). -/
def sweepTurn (s : State) (die pos i : Nat) : Bool :=
  let p := pairAt s die pos
  sweepAsh s die pos && (match p.q[i]? with
    | some r => effCls p.q i == 3 && (srcNum r.src + 5 - smGet 0 p.rot 3) % 5 > (9 - smGet 0 p.rot 3) % 5
    | none => false)

/-- Positions 2 to 8: the classes, whose request waits where no budget allows it (R278, R286). -/
def classSlot (s : State) (die pos : Nat) (pullIn : Bool) : State :=
  match colPick (pairAt s die pos) 4 with
  | none => lowSlot s die pos pullIn
  | some i =>
    match (if sweepTurn s die pos i then sweepSlot s die pos else none) with
    | some t => setPair t die pos { pairAt t die pos with rot := smSet (pairAt t die pos).rot 3 0 }
    | none => match colGrant s die pos i with
      | some t => t
      | none => lowSlot (colRefuse s die pos i) die pos pullIn

/-- A cycle of the operation in progress in a pair passes (R274). -/
def opTick (s : State) (die pos : Nat) : State :=
  let p := pairAt s die pos
  if p.opLeft = 0 then s else setPair s die pos { p with opLeft := p.opLeft - 1 }

/-- One column slot of a bank pair, an HCLK cycle, granted in the order of R278: a forced refresh or an overdue calibration
first, unless an operation is in progress (R274); a pair in test serves no request (R577). -/
def columnSlot (s0 : State) (die pos : Nat) (pullIn : Bool) : State :=
  let s := opTick s0 die pos
  let p := pairAt s die pos
  match (if p.opLeft = 0 then forcedGroup p else none) with
  | some g => pmcEvent (modSched (refresh s die pos g) fun c => { c with refForced := c.refForced + 1 }) 0x03 none none
      (.pair die pos) 1
  | none =>
    if p.calDue ∧ p.calOver ∧ p.opLeft = 0 then calibrate s die pos true
    else if p.test then s
    else classSlot s die pos pullIn

end Sys2Proof.Machine
end

