-- ==== Sys2Proof/Machine/Reserved.lean ====
section
/-! DEFINITION. The reserved area of the arrays: its sub-areas, and reads and writes of its granules by the block itself
(R51, R308, R310). -/

namespace Sys2Proof.Machine

/-- Where offset `off` of the reserved area lies: the units at the top of every pair, in one striped area (R51). -/
def resPlace (s : State) (off : Nat) : Place := stripedPlace s (64 - s.boot.cfg.r) off

/-- Bytes of one context slot: a record of 1,280 bytes for each active hob (R51). -/
def ctxSlotBytes (s : State) : Nat := 1280 * pairCount s

/-- Offsets of the sub-areas of the reserved area, in the order of R51. -/
def resCreel : Nat := 0
def resCtx : Nat := 0x4000000
def resTwin (s : State) : Nat := resCtx + s.fir.slots * ctxSlotBytes s
def resSmoke (s : State) : Nat := resTwin s + s.boot.cfg.twinLog
def resAsh (s : State) : Nat := resSmoke s + s.boot.cfg.smokeLog
def resStoker (s : State) : Nat := resAsh s + s.boot.cfg.ashBytes

/-- Read the granule at offset `off` of the reserved area: the decode result, the datum, and the state in which the decode is
counted (R302, R310). -/
def resRead (s : State) (off : Nat) : WarpRes × Datum × State :=
  let p := resPlace s off
  readRaw s p.die p.pos p.loc

/-- Write a granule of the reserved area (R308). -/
def resWrite (s : State) (off : Nat) (x : Datum) : State :=
  let p := resPlace s off
  writeGran s p.die p.pos p.loc x

/-- Read `n` granules of the reserved area from offset `off` on. -/
def resReadN (s : State) (off n : Nat) : List (WarpRes × Datum) × State :=
  (List.range n).foldl (fun (a : List (WarpRes × Datum) × State) i =>
    let x := resRead a.2 (off + 32 * i)
    (a.1 ++ [(x.1, x.2.1)], x.2.2)) ([], s)

/-- Write granules of the reserved area from offset `off` on. -/
def resWriteN (s : State) (off : Nat) (ds : List Datum) : State :=
  ((List.range ds.length).zip ds).foldl (fun t e => resWrite t (off + 32 * e.1) e.2) s

/-! ### Turns of the block's own engines -/

/-- The column accesses that an engine of the block makes at once: their places, and their columns of reading and of writing. -/
structure EngUse where
  cls : Nat
  places : List Place
  rd : Nat
  wr : Nat
deriving DecidableEq, Repr

/-- A pair lets an engine's access at `loc` go first: nothing of a higher class is ready, nothing is forced, in progress or in
test, and no request that is queued touches the granule (R278, R326). -/
def engPair (s : State) (cls : Nat) (pl : Place) : Bool :=
  let p := pairAt s pl.die pl.pos
  (forcedGroup p).isNone && p.opLeft == 0 && !p.test && (colPick p (min cls 4)).isNone
    && !(p.q.any fun r => (colGrans r).any fun x => x / 32 == pl.loc / 32)

/-- Open the rows of an engine's accesses: the activates charged, and the state. -/
def engRows (s : State) (ps : List Place) : Nat × State :=
  ps.foldl (fun (a : Nat × State) pl =>
    let o := openRow (pairAt a.2 pl.die pl.pos) pl.loc
    (a.1 + b2n o.1, setPair a.2 pl.die pl.pos (leaveRow o.2 pl.loc))) (0, s)

/-- Let an engine make its accesses, charged, where every pair lets it and the budget of its class allows it; none where it waits
for a later turn (R277, R278, R283, R286, R326; DESIGN CHOICE, log entry 11). -/
def engTurn (s : State) (u : EngUse) : Option State :=
  if tilesSleep s || !(u.places.all (engPair s u.cls)) then none
  else if u.places.isEmpty then some s
  else
    let r := engRows s u.places
    spendOver r.2 u.cls (u.rd * eRd s + u.wr * eWr s + r.1 * eAct s)

/-- An engine's accesses may be made now (R277, R278, R286). -/
def engReady (s : State) (u : EngUse) : Bool := (engTurn s u).isSome

/-- Make room for an engine's accesses that belong to an event already under way: the requests queued before them for the same
granules are carried out, and the accesses are charged and never held (R283, R287, R326; DESIGN CHOICE, log entry 11). -/
def engNow (s : State) (u : EngUse) : State :=
  let s1 := u.places.foldl (fun t pl => drainPair t pl.die pl.pos (fun r => (colGrans r).any fun x => x / 32 == pl.loc / 32)
    (pairAt t pl.die pl.pos).q.length) s
  let r := engRows s1 u.places
  spendAlways r.2 (u.rd * eRd s + u.wr * eWr s + r.1 * eAct s)

/-- The places of `n` granules of the reserved area from offset `off` on. -/
def resPlaces (s : State) (off n : Nat) : List Place := (List.range n).map fun i => resPlace s (off + 32 * i)

end Sys2Proof.Machine
end

