-- ==== Sys2Proof/Machine/Engine.lean ====
section
/-! DEFINITION. Reads and writes of memory and staging by the block's own engines, and where a partition's addresses may lie
(R44, R54, R308, R340, R436). -/

namespace Sys2Proof.Machine

/-- First address of the staging, register and mask windows (R40). -/
def stgWin : Nat := 0x10000000000
def regWin : Nat := 0x20000000000
def maskWin : Nat := 0x40000000000

/-- `n` bytes at `a` lie wholly in the partition's staging grant or in one open region that it owns (R421, R436). -/
def ownedRange (s : State) (p a n : Nat) : Bool :=
  if stgWin ≤ a ∧ a < regWin then inGrant s p (a - stgWin) n
  else s.regions.any fun kr =>
    let r := kr.2
    r.base ≤ a && a + n ≤ r.base + rgnSize s r && r.owner == p && !r.block && r.kind != .reserved && !r.banked
      && !r.reassign

/-- Read the granule at an aligned hearth address for partition `p`, by an engine: an uncorrectable one is reported
(R308, R564). An address that no window serves reads as the poison mark. -/
def engGran (s : State) (p : Option Nat) (a : Nat) : Datum × State :=
  if stgWin ≤ a ∧ a < regWin then (stgRead s.staging ((a - stgWin) / 32), s)
  else match addrPlace s a with
    | none => (⟨0, true⟩, s)
    | some pl =>
      let x := granAt s pl.loc (locAddr s pl.die pl.pos pl.loc)
      let s1 := if x.1 = .uncorrectable then
          report s chWarp { evt s 0x0102 .data 308 with
            part := p, die := pl.die, pos := pl.pos, pair := physPair s pl.die pl.pos,
            addr := locAddr s pl.die pl.pos pl.loc, detA := Config.openCode 2 3, detB := a }
        else s
      readGran s1 pl.die pl.pos pl.loc

/-- Read the granules that cover `n` bytes at `a`, in order. -/
def engRead (s : State) (p : Option Nat) (a n : Nat) : List Datum × State :=
  (List.range (granulesOf a n)).foldl (fun (r : List Datum × State) i =>
    let x := engGran r.2 p ((a / 32 + i) * 32)
    (r.1 ++ [x.1], x.2)) ([], s)

/-- The bytes of a granule list from byte `o` on. -/
def gransBytes (ds : List Datum) (o n : Nat) : List Byte := ((ds.flatMap fun d => granBytes d.bits).drop o).take n

/-- Write the enabled bytes of the granule at an aligned address, by an engine. A partial write into a poisoned granule
fails (R309, R340). -/
def engPut (s : State) (a : Nat) (d : Datum) (en : BitVec 32) : State :=
  if stgWin ≤ a ∧ a < regWin then { s with staging := (stgWrite s.staging ((a - stgWin) / 32) [(d, en)]).2 }
  else match addrPlace s a with
    | none => s
    | some pl =>
      if enFull en then writeGran s pl.die pl.pos pl.loc d else (mergeBurst s pl.die pl.pos pl.loc [(d, en)]).2

/-- Write whole granules from an aligned address upward. -/
def engWrite (s : State) (a : Nat) (ds : List Datum) : State :=
  ((List.range ds.length).zip ds).foldl (fun t e => engPut t (a + 32 * e.1) e.2 (BitVec.allOnes 32)) s

/-- Write clean bytes at any address: whole granules, and the enabled bytes of partial ones. -/
def engWriteBytes (s : State) (a : Nat) (bs : List Byte) : State :=
  (List.range (granulesOf a bs.length)).foldl (fun t i =>
    let g := (a / 32 + i) * 32
    let inside (j : Nat) : Bool := a ≤ g + j && g + j < a + bs.length
    let data := bytesGran ((List.range 32).map fun j => if inside j then byteAt bs (g + j - a) else 0)
    let en := BitVec.ofNat 32 ((List.range 32).foldl (fun v j => v + b2n (inside j) * 2 ^ j) 0)
    engPut t g ⟨data, false⟩ en) s

/-- The places in the arrays of the granules that cover `n` bytes at `a`; a staging address has none. -/
def engPlaces (s : State) (a n : Nat) : List Place :=
  if stgWin ≤ a ∧ a < regWin then []
  else (List.range (granulesOf a n)).filterMap fun i => addrPlace s ((a / 32 + i) * 32)

/-- The accesses of an engine that reads `n` bytes at `a` in class `cls` (R277). -/
def engReads (s : State) (cls a n : Nat) : EngUse :=
  let ps := engPlaces s a n
  { cls := cls, places := ps, rd := ps.length, wr := 0 }

/-- The accesses of an engine that writes `n` bytes at `a` in class `cls`. -/
def engWrites (s : State) (cls a n : Nat) : EngUse :=
  let ps := engPlaces s a n
  { cls := cls, places := ps, rd := 0, wr := ps.length }

/-- Read the granules that cover `n` bytes at `a`, charged in class `cls` (R277, R283). -/
def engFetch (s : State) (p : Option Nat) (cls a n : Nat) : List Datum × State := engRead (engNow s (engReads s cls a n)) p a n

/-- Write clean bytes at `a`, charged in class `cls`. -/
def engStore (s : State) (cls a : Nat) (bs : List Byte) : State := engWriteBytes (engNow s (engWrites s cls a bs.length)) a bs

/-- Some granule of the list carries the poison mark. -/
def anyBad (ds : List Datum) : Bool := ds.any fun d => d.poison

/-- The partition's region entry at an index. -/
def rgnAt (s : State) (i : Nat) : Option Region := smFind s.regions i

def modRgn (s : State) (i : Nat) (f : Region → Region) : State := { s with regions := smMod {} s.regions i f }

/-- Slice bytes per hob of a bank-local region (R50). -/
def sliceBytes (r : Region) : Nat := r.count * unitBytes

end Sys2Proof.Machine
end

