-- ==== Sys2Proof/Machine/SpoolOps.lean ====
section
/-! DEFINITION. Spools: doorbells, records, and the completion of picks (R420 to R443). -/

namespace Sys2Proof.Machine

/-! ### Status codes (R441) -/

def stDone : Nat := 0x00
def stAborted : Nat := 0x01
def stBadOpcode : Nat := 0x02
def stBadField : Nat := 0x03
def stPickPoison : Nat := 0x04
def stDenied : Nat := 0x05
def stLoadRejected : Nat := 0x06
def stLaunchRejected : Nat := 0x07
def stProgramError : Nat := 0x08
def stHobFault : Nat := 0x09
def stSkipped : Nat := 0x0A
def stTestPreempted : Nat := 0x0B
def stStopTimeout : Nat := 0x0C
def stPartReset : Nat := 0x0D
def stDoorbellTimeout : Nat := 0x0E
def stRegionInUse : Nat := 0x0F
def stModeBusy : Nat := 0x10
def stRegistryFull : Nat := 0x11
def stContextFull : Nat := 0x12
def stRegionBound : Nat := 0x13
def stNormFull : Nat := 0x14
def stContextBusy : Nat := 0x15
def stSamplerDenied : Nat := 0x16
def stBadParam : Nat := 0x17
def stSourceDenied : Nat := 0x18
def stNoCandidate : Nat := 0x19
def stPoison : Nat := 0x1A
def stPairMismatch : Nat := 0x1B
def stPairTimeout : Nat := 0x1C
def stResyncFailed : Nat := 0x1D
def stAlready : Nat := 0x1E
def stNoSuchPick : Nat := 0x1F
def stTooLate : Nat := 0x20
def stRecordFull : Nat := 0x21
def stNotFound : Nat := 0x22
def stBadState : Nat := 0x23

/-! ### Access -/

def splOf (s : State) (k : Nat) : Spool := smGet {} s.spl.creel k
def setSpl (s : State) (k : Nat) (x : Spool) : State := modSpl s fun p => { p with creel := smSet p.creel k x }

/-- The spool lies in the partition's range (R420). -/
def inSplRange (s : State) (p k : Nat) : Bool :=
  pageF s p 0x018 0 20 ≤ k && k < pageF s p 0x018 0 20 + pageF s p 0x018 32 21

/-- The pick is complete, its record not written. -/
def pickIsDone (x : PickR) : Bool :=
  match x.st with
  | .done _ _ _ => true
  | _ => false

/-- Picks of a spool in flight: fetched and not complete (R423). -/
def inFlight (s : State) (k : Nat) : Nat := smCount s.spl.picks fun _ x => x.spool == k && !(pickIsDone x)

/-- Picks of a spool whose record is not written. -/
def unwritten (s : State) (k : Nat) : Nat := smCount s.spl.picks fun _ x => x.spool == k

/-- Difference of two counts modulo 2^32. -/
def sub32 (a b : Nat) : Nat := (a + 2 ^ 32 - b % 2 ^ 32) % 2 ^ 32
def add32 (a b : Nat) : Nat := (a + b) % 2 ^ 32

/-- Free record slots of a spool (R430). -/
def freeSlots (x : Spool) : Nat := 2 ^ x.recLog - sub32 x.written x.consumed

/-! ### Completion records (R432, R433) -/

/-- The 64 bytes of a record, its phase bit clear. -/
def recBytes (tag seq ret opc kind status : Nat) (alert : Bool) (reason : Nat) (result : List Byte) : List Byte :=
  leBytes 8 tag ++ leBytes 4 seq ++ leBytes 4 ret ++ leBytes 1 opc ++ leBytes 1 kind ++ leBytes 1 status
    ++ leBytes 1 (2 * b2n alert) ++ leBytes 1 reason ++ leBytes 3 0 ++ padTo 40 result

/-- The record with the phase of record number `r` (R432). -/
def withPhase (x : Spool) (bs : List Byte) : List Byte :=
  let ph := b2n (x.written / 2 ^ x.recLog % 2 == 0)
  listSet bs 0x13 (BitVec.ofNat 8 ((byteAt bs 0x13).toNat + ph))

/-- Halt a spool: records wait, and the owner's page takes the cause (R443, R611). -/
def splHalt (s : State) (k cause : Nat) : State :=
  let x := splOf s k
  partAlert (setSpl s k { x with st := .halted, haltCause := cause }) x.owner 1

/-- A BWR of 64 bytes to the module that an agent is bound to (R355, R433); `fold` is the address that its weft bits fold,
zero for a completion record (R305). -/
def sendBwr (s : State) (src cls p addr : Nat) (fold : Nat) (bs : List Byte) : State :=
  let a := smGet ({} : Agent) s.ports.agents src
  let h := mkHdr [(0, 8, 0x90), (8, 1, 1), (9, 1, 1), (10, 2, cls), (16, 10, p), (32, 8, src), (56, 8, 64), (64, 48, fold),
    (128, 64, addr)]
  egressAdd s false a.module
    { pkt := ⟨h, (bytesGrans (padTo 64 bs)).map fun g => ⟨g, false⟩⟩, cls := cls, part := p, grp := 6, peer := none }

/-- Try to write a record of an ACTIVE spool: whether it was written, and the state. A record of a pick with ALERT sets its
cause (R428, R611); an abort record ends the pending abort (R425). A DIE spool whose agent is not bound halts with cause 2 before the
record is sent (DESIGN CHOICE, log entry 100). -/
def recTry (s : State) (k : Nat) (bs : List Byte) : Bool × State :=
  let x := splOf s k
  let at_ := x.cq + 64 * (x.written % 2 ^ x.recLog)
  let data := withPhase x bs
  let adv (t : State) : State :=
    let y := splOf t k
    let u := charge (setSpl t k
      { y with
        written := add32 y.written 1
        abort := if byteAt bs 0x11 = 1 then none else y.abort }) y.owner .hearth 64
    if (byteAt bs 0x13).toNat / 2 % 2 = 1 then partAlert u y.owner 0 else u
  if x.die then
    if (smGet ({} : Agent) s.ports.agents x.src).bound then
      (true, adv (sendBwr s x.src x.cls x.owner at_ 0 data))
    else (false, splHalt s k 2)
  else if ownedRange s x.owner at_ 64 then (true, adv (engStore s x.cls at_ data))
  else (false, splHalt s k 1)

/-- Write a record, or let it wait while the spool is HALTED (R443). -/
def recWrite (s : State) (k : Nat) (bs : List Byte) : State :=
  let wait (t : State) : State :=
    let x := splOf t k
    setSpl t k { x with waitRec := x.waitRec ++ [bs] }
  if (splOf s k).st = .halted then wait s
  else
    let r := recTry s k bs
    if r.1 then r.2 else wait r.2

/-- Write the waiting records of a spool that RESUME has made ACTIVE. -/
def recFlush (s : State) (k : Nat) : Nat → State
  | 0 => s
  | fuel + 1 =>
    let x := splOf s k
    match x.waitRec with
    | [] => s
    | b :: bs =>
      if x.st = .active then
        let r := recTry s k b
        if r.1 then recFlush (setSpl r.2 k { splOf r.2 k with waitRec := bs }) k fuel else r.2
      else s

/-! ### Picks -/

def pickOf (s : State) (n : Nat) : Option PickR := smFind s.spl.picks n
def setPick (s : State) (n : Nat) (x : PickR) : State := modSpl s fun p => { p with picks := smSet p.picks n x }

/-- Advance the retired count over the complete prefix (R423). -/
def retire : Nat → List Nat → Nat → Nat × List Nat
  | 0, ds, r => (r, ds)
  | fuel + 1, ds, r => if ds.contains r then retire fuel (ds.filter (· != r)) (add32 r 1) else (r, ds)

/-- A pick completes: its record is due (R331, R433). -/
def pickDone (s : State) (n status reason : Nat) (result : List Byte) : State :=
  match pickOf s n with
  | none => s
  | some x =>
    if pickIsDone x then s
    else
      let sp := splOf s x.spool
      let ds := sp.doneSeqs ++ [x.seq]
      let r := retire ds.length ds sp.retired
      let s1 := setSpl s x.spool { sp with retired := r.1, doneSeqs := r.2 }
      modSpl (setPick s1 n { x with st := .done status reason result, ret := r.1 }) fun p =>
        { p with doneQ := p.doneQ ++ [n] }

/-- Every earlier pick of the spool has completed (R428 ORDER). -/
def orderMet (s : State) (x : PickR) : Bool := !x.order || (splOf s x.spool).retired == x.seq

/-- Start a fetched pick of opcode `opc`: with ORDER it waits for the earlier picks (R431). -/
def pickStart (s : State) (n opc : Nat) (f : PickR → State → State) : State :=
  match pickOf s n with
  | none => s
  | some x =>
    if x.opc = opc ∧ x.st = .fetched ∧ orderMet s x then f x (setPick s n { x with st := .started }) else s

/-- Field of `n` bytes at offset `o` of a pick. -/
def pkF (x : PickR) (o n : Nat) : Nat := leAt x.bytes o n

/-- Bytes [a, b) of a pick are zero. -/
def pkZero (x : PickR) (a b : Nat) : Bool := leAt x.bytes a (b - a) == 0

/-- The pick of a spool with a sequence number, in flight or not yet recorded. -/
def findPick (s : State) (k seq : Nat) : Option (Nat × PickR) :=
  s.spl.picks.find? fun kv => kv.2.spool == k && kv.2.seq == seq

/-- The 64 bytes of a creel entry (R423). -/
def creelBytes (s : State) (k : Nat) : List Byte :=
  let x := splOf s k
  let st : Nat := match x.st with
    | .disabled => 0
    | .active => 1
    | .halted => 2
  leBytes 1 st ++ leBytes 1 x.cls ++ leBytes 2 x.owner ++ leBytes 1 x.pickLog ++ leBytes 1 x.recLog ++ leBytes 1 (b2n x.die)
    ++ leBytes 1 x.src ++ leBytes 8 x.ring ++ leBytes 8 x.cq ++ leBytes 4 x.tail ++ leBytes 4 x.head ++ leBytes 4 x.retired
    ++ leBytes 4 x.written ++ leBytes 4 x.consumed ++ leBytes 2 (inFlight s k) ++ leBytes 1 (b2n x.abort.isSome)
    ++ leBytes 1 x.haltCause ++ leBytes 4 (x.abort.getD 0) ++ leBytes 12 0

/-- A line of the creel cache is dirty: the creel in the arrays does not hold the entry as it stands (R424; DEDUCED, log entry 93). -/
def creelDirty (s : State) (k : Nat) : Bool :=
  ((List.range 2).map fun i =>
    let p := resPlace s (resCreel + 64 * k + 32 * i)
    (granAt s p.loc (locAddr s p.die p.pos p.loc)).2) != (bytesGrans (creelBytes s k)).map fun g => (⟨g, false⟩ : Datum)

/-- Remember in the creel cache that a spool was used, and pin it as most recent (R424). -/
def cacheTouch (s : State) (k : Nat) : State :=
  modSpl s fun p => { p with cache := p.cache.filter (· != k) ++ [k] }

end Sys2Proof.Machine
end

