-- ==== Sys2Proof/Machine/StreamOps.lean ====
section
/-! DEFINITION. Flue streams: fan-out, twin and smoke (R149, R388 to R418). -/

namespace Sys2Proof.Machine

/-! ### Operands of a firing (R50, R89, R91, R149) -/

/-- Elements and bytes of one unit of a storage type, in the row order of R149; 15 for raw bytes. -/
def storageUnit : Nat → Nat × Nat
  | 0 => (1, 4) | 1 => (1024, 2080) | 2 => (2048, 2080) | 3 => (1, 2) | 4 => (1, 1) | 5 => (1024, 1056)
  | 6 => (1024, 800) | 7 => (1024, 544) | _ => (1, 1)

/-- Bytes that `n` elements of a storage type occupy (R149). -/
def storageBytes (t n : Nat) : Nat :=
  let u := storageUnit t
  (n + u.1 - 1) / u.1 * u.2

/-- The operand word `k` of a firing. -/
def opWord (f : FireF) (k : Nat) : OpWord := f.ops.getD k {}

/-- Operand base OBk in the pair (R89). -/
def opBase (s : State) (f : FireF) (k : Nat) : Nat :=
  let o := opWord f k
  match rgnAt s o.rgn with
  | none => 0
  | some r => r.first * unitBytes + (if r.acc then f.epoch % 2 * (sliceBytes r / 2) else 0) + o.d

/-- End of the operand's slice, or of its half slice (R89, R103). -/
def opEnd (s : State) (f : FireF) (k : Nat) : Nat :=
  match rgnAt s (opWord f k).rgn with
  | none => 0
  | some r => r.first * unitBytes + (if r.acc then (f.epoch % 2 + 1) * (sliceBytes r / 2) else sliceBytes r)

/-- Bytes of an operand's slice as a stream counts them. -/
def tapSlice (f : FireF) (k : Nat) : Nat := storageBytes (opWord f k).type f.nPer

/-- Short format code of a program (R162); where the manual gives the program none, an open code (DESIGN CHOICE, log entry 83). -/
def shortFmt (prog : Nat) : Nat := if prog < 0x1000 then bitsAt prog 4 4 else Config.openCode 5 prog % 256

/-- The result bytes of a firing's completion record (R143, R437). -/
def fireResult (x : Firing) (ovf : Bool) : List Byte :=
  let cnt (k : Nat) : Nat := (x.ended.filter fun h => h.2.1 == k).length
  let low := (x.ended.filter fun h => h.2.1 != hobDone).foldl (fun m h => min m h.1) 0xFFFF
  let st := x.ended.foldl (fun v h => v ||| h.2.2.1.toNat) x.halted.toNat
  (List.range 5).flatMap (fun i => leBytes 2 (cnt (i + 1))) ++ leBytes 2 low ++ leBytes 1 (st / 65536 % 128)
    ++ leBytes 1 (b2n ovf) ++ leBytes 2 x.suspensions ++ leBytes 8 x.hobTime ++ leBytes 4 x.f.epoch

/-! ### Sending -/

/-- The session with a peer is OPEN, and the peer's entry (R383). -/
def openPeer (s : State) (id : Nat) : Option (Nat × Peer) :=
  match peerOf s id with
  | some kp => if kp.2.sess = .open then some kp else none
  | none => none

/-- Queue an ordered frame for a peer ID whose session is OPEN. -/
def sendPeer (s : State) (id opc : Nat) (parts : List (Nat × Nat × Nat)) (data : List Datum) (len : Nat) (p : Option Nat) :
    State :=
  match openPeer s id with
  | some kp => sendOrd s kp.1 opc parts data len p
  | none => s

/-- The module that a stream data frame goes to: of the peer's live modules one with the fewest data slots queued
(R394). -/
def dealMod (s : State) (p : Peer) : Option Nat :=
  (liveMods s p).foldl (fun b m => match b with
    | none => some m
    | some q => if slotsQueued s m < slotsQueued s q then some m else b) none

/-- The stream headers queued on a module. -/
def strQueued (s : State) (m : Nat) : Nat := ((modOf s true m).egress.filter fun e => 3 ≤ e.grp ∧ e.grp ≤ 5).length
def strSlots (s : State) (m : Nat) : Nat :=
  (((modOf s true m).egress.filter fun e => 3 ≤ e.grp ∧ e.grp ≤ 5).map fun e => e.pkt.data.length).foldl (· + ·) 0

/-- A stream data frame of one granule for a peer (R376, R394): queued where a live module holds stream credits for it
beyond those its queue needs, and the flue damper admits it (R458); none where it waits. -/
def sendData (s : State) (id opc grp cls p addr : Nat) (parts : List (Nat × Nat × Nat)) (d : Datum) : Option State :=
  match openPeer s id with
  | none => none
  | some (k, pr) =>
    match dealMod s pr with
    | none => none
    | some m =>
      let x := modOf s true m
      if strQueued s m < smGet 0 x.txCred 12 ∧ strSlots s m < smGet 0 x.txCred 13 then
        match damperTake s p .flue cls 64 with
        | none => none
        | some s1 =>
          let h := mkHdr ([(0, 8, opc), (8, 1, 1), (10, 2, cls), (16, 10, peerPart id), (56, 8, 1), (64, 48, addr),
            (208, 16, s.ports.peerId), (224, 16, id)] ++ parts)
          some (egressAdd s1 true m { pkt := ⟨h, [d]⟩, cls := cls, part := p, grp := grp, peer := some k })
      else none

/-! ### Fan-out (R388 to R391) -/

def fanOf (s : State) (k : Nat) : Fan := smGet {} s.str.fans k
def setFan (s : State) (k : Nat) (f : Fan) : State := modStr s fun t => { t with fans := smSet t.fans k f }

/-- Streams of a step context. -/
def fansOf (s : State) (ctx : Nat) : List Nat := (s.str.fans.filter fun kv => kv.2.ctx == ctx).map (·.1)

/-- An ordered frame to every destination of the epoch whose session is OPEN. -/
def fanAll (s : State) (f : Fan) (opc : Nat) (parts : List (Nat × Nat × Nat)) : State :=
  f.dests.foldl (fun t d =>
    if d.inEpoch then sendPeer t d.peer opc ([(128, 32, f.epoch), (160, 8, d.rx)] ++ parts) [] 0 (some f.owner) else t) s

/-- FAN_OPEN of the stream's epoch to every destination with an OPEN session (R388, R389). -/
def fanSendOpen (s : State) (k : Nat) : State :=
  let f := fanOf s k
  let ds := f.dests.map fun d => { d with inEpoch := (openPeer s d.peer).isSome }
  let s1 := ds.foldl (fun t d =>
    if d.inEpoch then
      sendPeer t d.peer 0xC0 [(128, 32, f.epoch), (160, 8, d.rx), (168, 8, f.fmt), (176, 1, b2n f.spec), (177, 1, b2n d.restart),
        (178, 30, (f.slice + 31) / 32)] [] 0 (some f.owner)
    else t) s
  setFan s1 k { f with dests := ds.map fun d => if d.inEpoch then { d with restart := false } else { d with restart := true },
                       sent := 0 }

/-- The owner record of a step context, if it is set up (R397). -/
def ownerRec (s : State) (ctx : Nat) : Option (Nat × Twin) :=
  s.str.twins.find? fun kv => !kv.2.replay && kv.2.ctx == ctx && kv.2.st != .unpaired

/-- A stream begins the epoch of a firing, where the epoch before is settled (R389, R391). -/
def fanBegin (s : State) (k : Nat) (x : Firing) : State :=
  let f := fanOf s k
  if f.ph = .idle then
    let dig := x.mirror.isSome && (match ownerRec s f.ctx with
      | some r => r.2.st == .inStep
      | none => false)
    let f1 := { f with
                epoch := x.f.epoch
                digest := dig
                slice := tapSlice x.f x.f.opFan
                fmt := shortFmt x.f.prog
                cls := x.cls
                fire := x.f
                wrote := []
                sent := 0 }
    if !f.spec && dig then setFan s k { f1 with ph := .holding }
    else fanSendOpen (setFan s k { f1 with ph := .sending }) k
  else s

/-- A granule for every destination in the epoch, or none where one of them cannot take it yet. -/
def fanData (s : State) (k rank off : Nat) (d : Datum) : Option State :=
  let f := fanOf s k
  match f.dests.foldl (fun (t : Option State) e => match t with
      | none => none
      | some u => if e.inEpoch && (openPeer u e.peer).isSome then
          sendData u e.peer 0xC1 3 f.cls f.owner (rank * f.slice + off) [(128, 32, f.epoch), (160, 8, e.rx)] d
        else some u) (some s) with
  | none => none
  | some u => some (setFan u k { fanOf u k with sent := f.sent + 1 })

/-- The digests of the epoch match: FAN_FINAL, or the bank reads of a stream that held back (R390, R391). -/
def fanMatch (s : State) (k e : Nat) : State :=
  let f := fanOf s k
  if f.epoch ≠ e then s
  else match f.ph with
    | .awaiting =>
      setFan (fanAll s f 0xC3 []) k { f with lastFinal := e, ph := .idle }
    | .holding => fanSendOpen (setFan s k { f with ph := .reading }) k
    | _ => s

/-- The digests mismatch: RECANT, or nothing from a stream that held back (R390, R391). -/
def fanRecant (s : State) (k e reason : Nat) : State :=
  let f := fanOf s k
  if f.epoch ≠ e then s
  else
    let ds := f.dests.map fun d => { d with restart := true }
    match f.ph with
    | .awaiting =>
      setFan (fanAll s f 0xC4 [(168, 8, reason)]) k { f with dests := ds, lastRecant := e, ph := .idle }
    | .holding => setFan s k { f with dests := ds, ph := .idle }
    | _ => s

/-- What the owner record of a context lets an epoch that began under it wait for. -/
inductive FanWait where
  /-- The digests are still to be compared. -/
  | digest
  /-- None will be: there is no record, or it is degraded with loss action CONTINUE (R391, R410). -/
  | final
  /-- None can match: the record is DIVERGED, or came to be so (R408, R409). -/
  | lost
deriving DecidableEq, Repr

def fanWait (s : State) (ctx : Nat) : FanWait :=
  match ownerRec s ctx with
  | none => .final
  | some r => match r.2.st with
    | .inStep => .digest
    | .degraded => if r.2.hold then .digest else .final
    | .diverged => .lost
    | .resync => .lost
    | _ => .final

/-- FAN_END: status 0 DONE, 1 ABORTED, 2 FAULT, and what the stream waits for next (R388, R389). An aborted epoch awaits no digest
(R408), so that its final bit is set. Where the record has degraded or diverged since the epoch began, what it is then settles the
epoch (R391, R410; after a divergence with no comparison the stream recants: DESIGN CHOICE, log entry 92). -/
def fanEnd (s : State) (k status : Nat) : State :=
  let f := fanOf s k
  let w := if f.digest then fanWait s f.ctx else .final
  match f.ph with
  | .sending =>
    let last := status == 1 || w == .final
    let s1 := fanAll s f 0xC2 [(168, 4, status), (172, 1, b2n last), (176, 32, f.sent)]
    let ds := if status = 0 then f.dests else f.dests.map fun d => { d with restart := true }
    let s2 := setFan s1 k
      { f with
        dests := ds
        lastSent := f.epoch
        lastFinal := if last ∧ status = 0 then f.epoch else f.lastFinal
        ph := if last then .idle else .awaiting }
    if w = .lost then fanRecant s2 k f.epoch 1 else s2
  | .holding =>
    if status = 1 ∨ w = .lost then
      setFan s k { f with ph := .idle, dests := f.dests.map fun d => { d with restart := true } }
    else if w = .final then fanMatch s k f.epoch
    else s
  | _ => s

/-! ### Twin (R397 to R412) -/

def twinOf (s : State) (k : Nat) : Twin := smGet {} s.str.twins k
def setTwin (s : State) (k : Nat) (t : Twin) : State := modStr s fun u => { u with twins := smSet u.twins k t }

/-- The streams of a context whose owner record has diverged: an epoch that awaits its digest is recanted, and one held back is not
sent (R391, R409). Where no digests were compared the spec does not say so of the first (DESIGN CHOICE, log entry 92). -/
def fansLost (s : State) (ctx : Nat) : State := (fansOf s ctx).foldl (fun u f => fanRecant u f (fanOf u f).epoch 1) s

/-- A record becomes DIVERGED: a fault record and the ALERT_N cause (R409, R564). -/
def twinDiverge (s : State) (k epoch : Nat) : State :=
  let t := twinOf s k
  if t.st = .diverged then s
  else
    let s0 := setTwin s k { t with st := .diverged }
    let s1 := if t.replay then s0 else fansLost s0 t.ctx
    fbAlert (report s1 chTwin { evt s1 0x0502 .data 409 with
      part := some t.owner, peer := t.peer, detA := epoch, detB := k, alerts := 16 }) 16

/-- An ordered twin frame to the record's partner. -/
def twinSend (s : State) (k opc : Nat) (parts : List (Nat × Nat × Nat)) (data : List Datum) (len : Nat) : State :=
  let t := twinOf s k
  sendPeer s t.peer opc ([(160, 8, t.partnerRec)] ++ parts) data len (some t.owner)

/-- The slot of a PAIR header (R400). -/
def pairSlot (t : Twin) : Datum :=
  let ty := (List.range 8).flatMap fun i =>
    let o := t.ops.getD i {}
    leBytes 1 (if o.used && o.type != 15 then o.type else 0xFF)
  ⟨bytesGran (leBytes 2 t.prog ++ leBytes 2 (t.c1 + 1 - t.c0) ++ leBytes 2 (t.r1 + 1 - t.r0) ++ leBytes 8 t.origin
    ++ leBytes 4 t.nPer ++ ty ++ leBytes 1 t.mask ++ leBytes 1 0 ++ leBytes 4 t.first), false⟩

/-- Send the PAIR header (R400, R409). -/
def twinSendPair (s : State) (k : Nat) : State :=
  twinSend s k 0xD0 [(128, 32, 0), (168, 3, 4)] [pairSlot (twinOf s k)] 32

/-- Bytes of a twin data frame in the log: its header slot and its data. -/
def twinFrameBytes (p : Pkt) : Nat := 32 * (1 + p.data.length)

/-! ### The twin and smoke logs in the reserved area (R51, R312, R403, R415) -/

/-- A frame goes into the lowest 64-byte slot of a log at `base` that no frame has: header granule and data granule (R51; the layout
of a log is the model's, DESIGN CHOICE, log entry 29). The slot, and the state. -/
def logPut (s : State) (base cls : Nat) (used : List Nat) (h : BitVec 256) (d : Datum) : Nat × State :=
  let n := ((List.range (used.length + 1)).find? fun n => !(used.contains n)).getD 0
  let off := base + 64 * n
  (n, resWriteN (engNow s { cls := cls, places := resPlaces s off 2, rd := 0, wr := 2 }) off [⟨h, false⟩, d])

/-- The datum of a frame in a log at `base`, and the state: sent with the poison flag where either granule is lost (R312). -/
def logGet (s : State) (base cls slot : Nat) : Datum × State :=
  let off := base + 64 * slot
  let r := resReadN (engNow s { cls := cls, places := resPlaces s off 2, rd := 2, wr := 0 }) off 2
  match r.1 with
  | [(_, h), (_, d)] => ({ d with poison := d.poison || h.poison }, r.2)
  | _ => (⟨0, true⟩, r.2)

/-- Slots of the smoke log that frames of some stream hold. -/
def smkSlots (s : State) : List Nat := s.str.smokes.flatMap fun kv => kv.2.log.map (·.slot)

/-- TWIN_DATA of one granule: sent, or queued in the twin log (R401, R403). -/
def twinData (s : State) (k epoch opd cls addr : Nat) (d : Datum) : State :=
  let t := twinOf s k
  let parts := [(128, 32, epoch), (160, 8, t.partnerRec), (168, 3, opd)]
  let log : State :=
    let h := mkHdr ([(0, 8, 0xD1), (8, 1, 1), (10, 2, cls), (16, 10, peerPart t.peer), (56, 8, 1), (64, 48, addr),
      (208, 16, s.ports.peerId), (224, 16, t.peer)] ++ parts)
    let r := logPut s (resTwin s) cls (s.str.twinLog.map (·.slot)) h d
    modStr r.2 fun u =>
      { u with
        twinLog := u.twinLog ++ [⟨k, r.1, h⟩]
        twinBytes := u.twinBytes + 64
        twinHigh := max u.twinHigh (u.twinBytes + 64) }
  if s.str.twinLog.any fun e => e.who == k then log
  else match sendData s t.peer 0xD1 4 cls t.owner addr parts d with
    | some s1 => s1
    | none => log

/-- The digest slot of a TWIN_DIGEST frame (R400). -/
def digestSlot (d : Digest) : Datum :=
  ⟨bytesGran (leBytes 16 d.digest.toNat ++ leBytes 8 d.stored ++ leBytes 4 d.count ++ leBytes 2 d.bad ++ leBytes 2 0), false⟩

/-- Two digest slots of one epoch match (R408). -/
def digestsMatch (a b : Digest) : Bool :=
  a.digest == b.digest && a.stored == b.stored && a.bad == b.bad && a.status == b.status

/-- The record holds both digests of an epoch: compare them (R408, R409); the replay side compares too, and takes its own
transition. -/
def twinCompare (s : State) (k e : Nat) : State :=
  let t := twinOf s k
  match t.own.find? (fun d => d.epoch == e), t.other.find? (fun d => d.epoch == e) with
  | some a, some b =>
    let t1 := { t with
                own := t.own.filter fun d => d.epoch != e
                other := t.other.filter fun d => d.epoch != e
                counted := t.counted.filter fun q => q.1 != e }
    let aud := modStr (setTwin s k t1) fun u =>
      { u with audit := u.audit.map fun x => if x.1 == k && x.2.1 == e then (k, e, x.2.2.1, some a, some b) else x }
    if t.st ≠ .inStep then aud
    else if a.status ≠ 2 ∧ b.status ≠ 2 ∧ digestsMatch a b then
      let s1 := setTwin aud k { t1 with lastMatch := e, since := if t.lastHdr = e then false else t.since }
      if t.replay then s1 else (fansOf s1 t.ctx).foldl (fun u f => fanMatch u f e) s1
    else twinDiverge aud k e
  | _, _ => s

/-! ### Smoke (R413 to R416) -/

def smkOf (s : State) (k : Nat) : Smoke := smGet {} s.str.smokes k
def setSmk (s : State) (k : Nat) (x : Smoke) : State := modStr s fun t => { t with smokes := smSet t.smokes k x }

def smksOf (s : State) (ctx : Nat) : List Nat := (s.str.smokes.filter fun kv => kv.2.ctx == ctx).map (·.1)

/-- A SMOKE_MARK to every sink in the epoch (R414). -/
def smkMark (s : State) (k kind : Nat) (gap : Bool) (sent : Nat) : State :=
  let x := smkOf s k
  x.sinks.foldl (fun t d =>
    if (openPeer t d.peer).isSome then
      sendPeer t d.peer 0xD9 [(128, 32, if kind < 3 then x.epoch else x.snapEpoch), (160, 8, d.rx), (168, 4, kind),
        (172, 1, b2n (gap || (kind == 2 && !d.inEpoch))), (176, 32, sent)] [] 0 (some x.owner)
    else t) s

/-- Epoch `e` of the stream's context is exported (R413); `first` is the context's first epoch. -/
def smkExports (x : Smoke) (first e : Nat) : Bool := (e - first) % x.d == 0

/-- An exported epoch opens: SMOKE_MARK OPEN ahead of the first data (R414). -/
def smkBegin (s : State) (k : Nat) (f : FireF) : State :=
  let x := smkOf s k
  let first := (smGet ({} : StepCtx) s.stp.ctxs x.ctx).first
  if smkExports x first f.epoch && !x.active then
    let x1 := { x with
                active := true
                epoch := f.epoch
                gap := false
                sent := 0
                slice := tapSlice f f.opSmoke
                sinks := x.sinks.map fun d => { d with inEpoch := (openPeer s d.peer).isSome } }
    smkMark (setSmk s k x1) k 1 false 0
  else s

/-- SMOKE_DATA of one granule to one sink; none where egress cannot take it at once. -/
def smkSend (s : State) (x : Smoke) (d : Dest) (epoch cls addr : Nat) (g : Datum) : Option State :=
  sendData s d.peer 0xD8 5 cls x.owner addr [(128, 32, epoch), (160, 8, d.rx)] g

/-- A tapped granule: sent to each sink, or kept in the stream's log share, or lost with the rest of the epoch (R415). -/
def smkData (s : State) (k cls rank off : Nat) (g : Datum) : State :=
  let x := smkOf s k
  if !x.active || x.gap then s
  else
    let addr := rank * x.slice + off
    let h := BitVec.ofNat 256 (addr + x.epoch * 2 ^ 64 + cls * 2 ^ 128)
    let idx := (List.range x.sinks.length).zip x.sinks
    let r := idx.foldl (fun (t : State × List Nat) e =>
      if !e.2.inEpoch then t
      else if x.log.any (fun l => l.who == e.1) then (t.1, t.2 ++ [e.1])
      else match smkSend t.1 x e.2 x.epoch cls addr g with
        | some u => (u, t.2)
        | none => (t.1, t.2 ++ [e.1])) (s, [])
    let need := 64 * r.2.length
    if x.used + need ≤ x.share * 0x100000 then
      let l := r.2.foldl (fun (t : State × List LogEnt) i =>
        let q := logPut t.1 (resSmoke s) cls (smkSlots s ++ t.2.map (·.slot)) h g
        (q.2, t.2 ++ [⟨i, q.1, h⟩])) (r.1, [])
      setSmk l.1 k
        { x with
          log := x.log ++ l.2
          used := x.used + need
          high := max x.high (x.used + need)
          sent := x.sent + 1
          granules := (x.granules + 1) % 2 ^ 64 }
    else setSmk s k { x with gap := true }

/-- The exported epoch ends: SMOKE_MARK END with COMPLETE or GAP (R414, R415). -/
def smkEnd (s : State) (k : Nat) (gap : Bool) : State :=
  let x := smkOf s k
  if x.active then
    let g := gap || x.gap
    let s1 := smkMark s k 2 g x.sent
    setSmk s1 k
      { x with
        active := false
        lastComplete := if g then x.lastComplete else x.epoch
        lastGap := if g then x.epoch else x.lastGap
        gaps := x.gaps + b2n g }
  else s

/-! ### Handing over what the taps copied -/

/-- Send what the front of a smoke log waits for. -/
def smkDrain (s : State) (k : Nat) : Nat → State
  | 0 => s
  | fuel + 1 =>
    let x := smkOf s k
    match x.log with
    | [] => s
    | e :: rest =>
      let w := e.hdr.toNat
      match x.sinks[e.who]? with
      | none => smkDrain (setSmk s k { x with log := rest, used := x.used - 64 }) k fuel
      | some d =>
        let g := logGet s (resSmoke s) (w / 2 ^ 128 % 4) e.slot
        match smkSend g.2 x d (w / 2 ^ 64 % 2 ^ 32) (w / 2 ^ 128 % 4) (w % 2 ^ 64) g.1 with
        | some u => smkDrain (setSmk u k { x with log := rest, used := x.used - 64 }) k fuel
        | none => s

/-- Send what the front of the twin log waits for (R403). -/
def twinDrain (s : State) : Nat → State
  | 0 => s
  | fuel + 1 =>
    match s.str.twinLog with
    | [] => s
    | e :: rest =>
      let t := twinOf s e.who
      let h := e.hdr
      let g := logGet s (resTwin s) (hCls h) e.slot
      match sendData g.2 t.peer 0xD1 4 (hCls h) t.owner (hAddr h)
          [(128, 32, hdrF h 128 32), (160, 8, hdrF h 160 8), (168, 3, hdrF h 168 3)] g.1 with
      | some u => twinDrain (modStr u fun y => { y with twinLog := rest, twinBytes := y.twinBytes - 64 }) fuel
      | none => s

/-- One tapped granule: the state once the streams have taken it, or none where a fan-out stream must wait. -/
def tapOne (s : State) (kind hob off : Nat) (d : Datum) : Option State :=
  match curFiring s with
  | none => some s
  | some (k, x) =>
    let rank := rankOf x.f hob
    match kind with
    | 1 => match x.mirror with
      | some r =>
        let s1 := twinData s r x.f.epoch x.f.opTwin x.cls (rank * tapSlice x.f x.f.opTwin + off) d
        some (modFiring s1 k fun y => { y with tapCount := y.tapCount + 1 })
      | none => some (modFiring s k fun y => { y with tapCount := y.tapCount + 1 })
    | 2 => some ((smksOf s x.f.ctx).foldl (fun t q => smkData t q x.cls rank off d) s)
    | _ => (fansOf s x.f.ctx).foldl (fun (t : Option State) q => match t with
        | none => none
        | some u =>
          let v := if (fanOf u q).epoch = x.f.epoch ∧ (fanOf u q).ph ≠ .idle then u else fanBegin u q x
          let f := fanOf v q
          if f.epoch ≠ x.f.epoch then none
          else match f.ph with
            | .sending => fanData v q rank off d
            | .holding => some (setFan v q { f with wrote := f.wrote ++ [(hob, off)] })
            | _ => some v) (some s)

/-- Hand the tapped granules over, oldest first; a fan-out granule that must wait holds back the later ones of its
kind. -/
def tapDrain (s : State) : List (Nat × Nat × Nat × Datum) → List (Nat × Nat × Nat × Datum) → State
  | [], kept => modSched s fun c => { c with tapped := kept }
  | g :: gs, kept =>
    if kept.any (fun q => q.1 == g.1) then tapDrain s gs (kept ++ [g])
    else match tapOne s g.1 g.2.1 g.2.2.1 g.2.2.2 with
      | some u => tapDrain u gs kept
      | none => tapDrain s gs (kept ++ [g])

/-- Let every stream go on: the logs first, then what the taps copied (R394, R403, R415). -/
def streamPump (s : State) : State :=
  let s1 := twinDrain s (s.str.twinLog.length)
  let s2 := s1.str.smokes.foldl (fun t kv => smkDrain t kv.1 kv.2.log.length) s1
  if s2.sched.tapped.isEmpty then s2 else tapDrain s2 s2.sched.tapped []

end Sys2Proof.Machine
end

