-- ==== Sys2Proof/Machine/Library.lean ====
section
/-! DEFINITION. What the firing library computes: the layouts of its operands, the update rules, the matrix products and the
Gumbel-argmax record, element by element (R149 to R173, R214 to R225, R253 to R257). -/

namespace Sys2Proof.Machine

/-! ### Operand storage (R149, R151) -/

/-- Where element `j` of a storage type lies: its first bit from the operand base, and its bits (R149). -/
def elemBits (t j : Nat) : Nat × Nat :=
  match t with
  | 0 => (32 * j, 32)
  | 1 => (8 * (2080 * (j / 1024)) + 16 * (j % 1024), 16)
  | 2 => (8 * (2080 * (j / 2048)) + 8 * (j % 2048), 8)
  | 3 => (16 * j, 16)
  | 4 => (8 * j, 8)
  | 5 => (8 * (1056 * (j / 1024)) + 8 * (j % 1024), 8)
  | 6 => (8 * (800 * (j / 1024)) + 6 * (j % 1024), 6)
  | 7 => (8 * (544 * (j / 1024)) + 4 * (j % 1024), 4)
  | _ => (8 * j, 8)

/-- Byte offset of the scale of element `j`: the S16 scale, which its tag follows, the A8 scale field, or the MX block scale (R149). -/
def scaleByte (t j : Nat) : Nat :=
  match t with
  | 1 => 2080 * (j / 1024) + 2048 + 2 * (j % 1024 / 64)
  | 2 => 2080 * (j / 2048) + 2048 + 2 * (j % 2048 / 128)
  | 5 => 1056 * (j / 1024) + 1024 + j % 1024 / 32
  | 6 => 800 * (j / 1024) + 768 + j % 1024 / 32
  | 7 => 544 * (j / 1024) + 512 + j % 1024 / 32
  | _ => 0

/-- Granules of an operand, by byte offset from its base. -/
abbrev Grans := Nat → Datum

/-- `n` bits from bit `b` of an operand; none where a granule that holds one of them is poisoned. -/
def opBits (g : Grans) (b n : Nat) : Option Nat :=
  let lo := g (b / 256 * 32)
  let hi := g ((b + n - 1) / 256 * 32)
  if lo.poison || hi.poison then none
  else some (bitsAt (lo.bits.toNat + (if b / 256 = (b + n - 1) / 256 then 0 else hi.bits.toNat * 2 ^ 256)) (b % 256) n)

/-- Element `j` of an operand of type `t`. -/
def opElem (t : Nat) (g : Grans) (j : Nat) : Option Nat := opBits g (elemBits t j).1 (elemBits t j).2

/-- Value of an Adam-8 first moment: its code and its group's FP16 scale field (R151). -/
def a8First (q σ : Nat) : FV := (fvMul (elVal 5 q) (fvScale (decodeF fp16 σ) (-16))).1

/-- Value of an Adam-8 second moment (R151). -/
def a8Second (q σ : Nat) : FV :=
  let r := fvScale (decodeF fp16 σ) (-16)
  (fvMul (elVal 5 q) (fvMul r r).1).1

/-! ### Lane values with poison and flags (R106 to R109) -/

/-- An FP32 pattern, or none where its register is poisoned, and the flags that its making set. -/
abbrev LV := Option Nat × Nat

/-- A value that sets no flag. -/
def lv (x : Nat) : LV := (some x, 0)
def lvW (x : W32) : LV := lv x.toNat

/-- An operation on lane values, rounded to nearest even: poisoned where an operand is, with PZ (R109). -/
def lvOp (f : LaneFn) (xs : List LV) : LV :=
  let fl := xs.foldl (fun a x => a ||| x.2) 0
  if xs.any fun x => x.1.isNone then (none, fl ||| flPZ)
  else
    let r := f .rne true (xs.map fun x => x.1.getD 0)
    (some r.1, fl ||| r.2)

/-- a·x + b·y, a·x + b·y², x / (√y + c), the sign, a product and a quotient (R165). -/
def axpby (a x b y : LV) : LV := lvOp (fusedFn axpbyFn) [x, y, a, b]
def ema2 (a x b y : LV) : LV := lvOp (fusedFn ema2Fn) [x, y, a, b]
def divsq (x y c : LV) : LV := lvOp (fusedFn divsqFn) [x, y, c]
def lvSign (x : LV) : LV := lvOp (exactFn 0 0 fun _ xs => (fvSgn (opd xs 0), 0)) [x]
def lvMul (x y : LV) : LV := lvOp (exactFn 0 0 (bin fvMul)) [x, y]
def lvDiv (x y : LV) : LV := lvOp (exactFn 0 0 fun r => bin fvDiv r) [x, y]
def lvFma (x y z : LV) : LV := lvOp (fmaLane 0 0 false) [x, y, z]

/-- The tree sum of R83. -/
def lvLevel : List LV → List LV
  | a :: b :: xs => lvOp (exactFn 0 0 fun r => bin (fvAdd r) r) [a, b] :: lvLevel xs
  | xs => xs

def lvTree : Nat → List LV → LV
  | 0, xs => xs.headD (lv 0)
  | fuel + 1, xs => match xs with
    | [] => lv 0
    | [x] => x
    | _ => lvTree fuel (lvLevel xs)

def lvSum (xs : List LV) : LV := lvTree xs.length xs

/-- The flags of some values. -/
def lvFlags (xs : List LV) : Nat := xs.foldl (fun a x => a ||| x.2) 0

/-- The granule that registers of the values hold: zero with the poison mark where one is poisoned (R109). -/
def lvGran (xs : List LV) : Datum :=
  if xs.any fun x => x.1.isNone then ⟨0, true⟩ else ⟨packEls 0 (xs.map fun x => x.1.getD 0), false⟩

/-! ### Header, parameter block and derived constants (R156 to R158) -/

/-- The fields that the rules read. -/
structure LibP where
  mult : W32
  tag : Nat
  beta1 : LV
  beta2 : LV
  eps : LV
  lam : LV
  rows : Nat
  cols : Nat
  k : List LV
deriving DecidableEq, Repr

/-- The fields, from bytes 0x000 to 0x2FF of the segment. -/
def libP (seg : Grans) : LibP :=
  let w (o : Nat) : Nat := bitsAt (seg (o / 32 * 32)).bits.toNat (8 * (o % 32)) 32
  { mult := BitVec.ofNat 32 (w 0x004)
    tag := w 0x010 % 256
    beta1 := lv (w 0x104)
    beta2 := lv (w 0x108)
    eps := lv (w 0x10C)
    lam := lv (w 0x110)
    rows := w 0x120
    cols := w 0x124
    k := (List.range 10).map fun i => lv (w (0x200 + 4 * i)) }

/-- K0 to K9. -/
def LibP.kk (p : LibP) (i : Nat) : LV := p.k.getD i (lv 0)

/-! ### Gradients and the update rules (R165 to R169) -/

/-- The gradient of element `j` of an S16 operand (R165). -/
def gradOf (p : LibP) (acc : Grans) (j : Nat) : LV :=
  match opElem 1 acc j, opBits acc (8 * scaleByte 1 j) 16 with
  | some h, some st =>
    let r := s16Elem .rne (st / 256 == p.tag) (st % 256) (f32 p.mult) h
    (some r.1, r.2)
  | _, _ => (none, flPZ)

/-- What a rule makes of an element: its new master, and its new moments. -/
structure Updated where
  w : LV
  a : LV
  b : LV
deriving DecidableEq, Repr

/-- SGD with momentum (R166). -/
def sgdElem (p : LibP) (nesterov : Bool) (g w b : LV) : Updated :=
  let gd := axpby (lv 0x3F800000) g p.lam w
  let b2 := axpby p.beta1 b (p.kk 7) gd
  let dd := if nesterov then axpby (lv 0x3F800000) gd p.beta1 b2 else b2
  ⟨axpby (lv 0x3F800000) w (p.kk 6) dd, b2, lv 0⟩

/-- AdamW (R167). -/
def adamwElem (p : LibP) (g w m v : LV) : Updated :=
  let m2 := axpby p.beta1 m (p.kk 0) g
  let v2 := ema2 p.beta2 v (p.kk 1) g
  ⟨axpby (p.kk 5) w (p.kk 3) (divsq m2 v2 (p.kk 4)), m2, v2⟩

/-- Lion (R169). -/
def lionElem (p : LibP) (g w m : LV) : Updated :=
  let u := lvSign (axpby p.beta1 m (p.kk 0) g)
  ⟨axpby (p.kk 5) w (p.kk 6) u, axpby p.beta2 m (p.kk 1) g, lv 0⟩

/-- The factored rule's apply phase (R170), with the row's quotient `a` and the column's statistic. -/
def factoredElem (p : LibP) (g w cst a : LV) : LV := axpby (p.kk 5) w (p.kk 6) (divsq g (lvMul cst a) p.eps)

/-! ### Adam-8 (R168) -/

/-- An exact value rounded once into FP32, up or to nearest even, with the flags so far. -/
def rUp (v : FV × Nat) : LV := let r := deliver 0 .rup true v; (some r.1, r.2)
def rNe (v : FV × Nat) : LV := let r := deliver 0 .rne true v; (some r.1, r.2)

/-- The value of a lane value. -/
def LV.fv (x : LV) : FV := elVal 0 (x.1.getD 0)

/-- a·x + b·y before it is rounded. -/
def exactAxpby (r : Rnd) (a x b y : FV) : FV × Nat := axpbyFn r [x, y, a, b]

/-- A scale field: rounded up into FP16 and held between 2^−24 and 65504; NaN stays NaN, as in VMAX and VMIN (R168). -/
def a8Field (v : FV) : Nat × Nat :=
  let e := encodeF fp16 .rup true v
  let lo := (fvMax (decodeF fp16 e.1) (.fin false 1 (2 ^ 24))).1
  let hi := (fvMin lo (.fin false 65504 1)).1
  ((encodeF fp16 .rne true hi).1, e.2)

/-- The scales and coefficients of a group of 128 elements. -/
structure A8Group where
  /-- New scale fields of the first and second moment. -/
  nm : Nat
  nv : Nat
  a1 : LV
  b1 : LV
  a2 : LV
  b2 : LV
  e : LV
  kk : LV
  /-- Flags of the derivation. -/
  fl : Nat
deriving DecidableEq, Repr

/-- The bound on the group's gradients, from the block scales of its 128 gradients (R168, R115). -/
def a8Bound (gs : List Nat) : FV × Nat :=
  (List.range 4).foldl (fun (t : FV × Nat) b =>
    let x := mxScale 4 ((gs.drop (32 * b)).take 32)
    let fl := t.2 ||| (if x.2 then flNV else 0)
    if x.1 = 0xFF then (.inf false, fl)
    else if x.1 = 0x7F then (t.1, fl)
    else ((fvMax t.1 (fvScale (.fin false 1 1) ((x.1 : Int) - 111))).1, fl)) (fvZero false, 0)

/-- The derivation of R168 from the group's gradients and its scale fields. -/
def a8Group (p : LibP) (gs : List Nat) (σm σv : Nat) : A8Group :=
  let bd := a8Bound gs
  let bigg := bd.1
  let c127 : FV := .fin false 127 1
  let sm := fvScale (decodeF fp16 σm) (-16)
  let rv := fvScale (decodeF fp16 σv) (-16)
  let rv2x := (fvMul rv rv).1
  let t1 := rUp (fvDiv bigg c127)
  let t2 := rUp (exactAxpby .rup p.beta1.fv sm (p.kk 0).fv t1.fv)
  let nm := a8Field (fvScale t2.fv 16)
  let c := rUp (fvDiv (p.kk 1).fv c127)
  let t4 := rUp (exactAxpby .rup p.beta2.fv rv2x c.fv (fvMul bigg bigg).1)
  let t5 := rUp (fvSqrt t4.fv)
  let nv := a8Field (fvScale t5.fv 16)
  let sm2 := fvScale (decodeF fp16 nm.1) (-16)
  let rv2 := fvScale (decodeF fp16 nv.1) (-16)
  let rr2 := (fvMul rv2 rv2).1
  let a1a := rNe (fvMul p.beta1.fv sm)
  let a1 := rNe (fvDiv a1a.fv sm2)
  let b1 := rNe (fvDiv (p.kk 0).fv sm2)
  let a2a := rNe (fvMul p.beta2.fv rv2x)
  let a2 := rNe (fvDiv a2a.fv rr2)
  let b2 := rNe (fvDiv (p.kk 1).fv rr2)
  let e0 := rNe (fvDiv (p.kk 4).fv rv2)
  let e := rNe (fvMax e0.fv (elVal 0 0x3F3504F3))
  let kka := rNe (fvMul (p.kk 3).fv sm2)
  let kk := rNe (fvDiv kka.fv rv2)
  { nm := nm.1
    nv := nv.1
    a1 := lv (a1.1.getD 0)
    b1 := lv (b1.1.getD 0)
    a2 := lv (a2.1.getD 0)
    b2 := lv (b2.1.getD 0)
    e := lv (e.1.getD 0)
    kk := lv (kk.1.getD 0)
    fl := bd.2 ||| nm.2 ||| nv.2 ||| lvFlags [t1, t2, c, t4, t5, a1a, a1, b1, a2a, a2, b2, e0, e, kka, kk] }

/-- One element of Adam-8: its master and its moments in units of their scales (R168). -/
def adam8Elem (p : LibP) (q : A8Group) (g w m v : LV) : Updated :=
  let m2 := axpby q.a1 m q.b1 g
  let v2 := ema2 q.a2 v q.b2 g
  ⟨axpby (p.kk 5) w q.kk (divsq m2 v2 q.e), m2, v2⟩

/-- A lane value converted to an element of a narrower format, saturating (R111, R165). -/
def lvNarrow (dst : Nat) (x : LV) : LV :=
  match x.1 with
  | none => (none, x.2 ||| flPZ)
  | some v =>
    let r := elEnc dst .rne true (elVal 0 v)
    (some r.1, x.2 ||| r.2 ||| if elSNaN 0 v then flNV else 0)

/-! ### Short weights (R149, R152, R162, R165, R633) -/

/-- Storage type of a short format code (R149, R162). -/
def shortType (sh : Nat) : Nat :=
  match sh with
  | 0 => 3 | 1 => 4 | 2 => 4 | 3 => 5 | 4 => 5 | 5 => 6 | 6 => 6 | 7 => 7 | 8 => 5 | _ => 15

/-- Element format code of a short format code (R98, R162). -/
def shortEl (sh : Nat) : Nat :=
  match sh with
  | 0 => 1 | 1 => 3 | 2 => 4 | 3 => 3 | 4 => 4 | 5 => 9 | 6 => 0xA | 7 => 6 | _ => 0xB

/-- Position at which a program writes the short weight of element `j` (R152). -/
def shortPos (transpose : Bool) (j : Nat) : Nat :=
  if transpose then j / 4096 * 4096 + j % 64 * 64 + j / 64 % 64 else j

/-- The short weights of a block of 32 masters in an MX format: its scale, and its elements (R115, R165). The scale of a block with
a poisoned master is a free value (DESIGN CHOICE, log entry 41). -/
def mxBlock (sh tagNo : Nat) (ws : List LV) : LV × List LV :=
  if ws.any fun w => w.1.isNone then
    (lv (Config.openCode 11 tagNo % 256), ws.map fun w => match w.1 with
      | none => (none, flPZ)
      | some _ => (none, flPZ))
  else
    let vs := ws.map fun w => w.1.getD 0
    let x := mxScale (shortEl sh) vs
    ((some x.1, if x.2 then flNV else 0), vs.map fun v =>
      let r := if x.1 = 0xFF then ((elNaN (shortEl sh)).1, flNV)
        else elEnc (shortEl sh) .rne true (fvScale (elVal 0 v) (127 - (x.1 : Int)))
      (some r.1, r.2))

/-- `n` granules that hold values at bit offsets: a granule with a bit of a poisoned value is poisoned. -/
def packGrans (n : Nat) (vs : List (Nat × Nat × LV)) : List Datum :=
  let all := vs.foldl (fun a v => a ||| (v.2.2.1.getD 0 % 2 ^ v.2.1) <<< v.1) 0
  (List.range n).map fun i =>
    if vs.any fun v => v.2.2.1.isNone && v.1 < 256 * (i + 1) && 256 * i < v.1 + v.2.1 then ⟨0, true⟩
    else ⟨BitVec.ofNat 256 (all / 2 ^ (256 * i)), false⟩

/-- The granules of short weights that a program stores with unit `u`: byte offset and datum, and the flags. `ws` gives the new
masters of the unit, `prev` those of the unit before it, which FP8 in transposed order reads again (R633). -/
def shortStores (sh : Nat) (transpose : Bool) (u : Nat) (ws prev : List LV) : List (Nat × Datum) × Nat :=
  let at_ (l : List LV) (i : Nat) : LV := l.getD i (lv 0)
  if sh ≤ 2 then
    let es := ws.map (lvNarrow (shortEl sh))
    let bits := if sh = 0 then 16 else 8
    let per := 256 / bits
    let one (off : Nat) (xs : List LV) : Nat × Datum :=
      (off, (packGrans 1 (((List.range xs.length).zip xs).map fun e => (e.1 * bits, bits, e.2))).getD 0 ⟨0, true⟩)
    if !transpose then
      ((List.range (1024 / per)).map fun i => one ((1024 * u + per * i) * bits / 8) ((List.range per).map fun k => at_ es (per * i + k)),
        lvFlags es)
    else if sh = 0 then
      ((List.range 64).map fun c => one (shortPos true (1024 * u + c) * 2) ((List.range 16).map fun r => at_ es (64 * r + c)), lvFlags es)
    else if u % 2 = 0 then ([], 0)
    else
      let both := prev.map (lvNarrow (shortEl sh)) ++ es
      ((List.range 64).map fun c => one (shortPos true (1024 * (u - 1) + c)) ((List.range 32).map fun r => at_ both (64 * r + c)),
        lvFlags both)
  else
    let t := shortType sh
    let w := (elemBits t 0).2
    let base := 1024 * u / (storageUnit t).1 * (storageUnit t).2
    let blocks := (List.range 32).map fun b => mxBlock sh (32 * u + b) ((List.range 32).map fun k => at_ ws (32 * b + k))
    let vals := ((List.range 32).zip blocks).flatMap fun e =>
      (8 * (scaleByte t (32 * e.1)), 8, e.2.1) :: ((List.range 32).zip e.2.2).map fun x => ((32 * e.1 + x.1) * w, w, x.2)
    let n := (storageUnit t).2 / 32
    (((List.range n).zip (packGrans n vals)).map fun e => (base + 32 * e.1, e.2), lvFlags (blocks.flatMap fun b => b.1 :: b.2))

/-! ### The program IDs of the library (R150, R153, R161, R162, R214, R253) -/

/-- Rule, short format, transpose bit and options of a library ID (R162). -/
def libRule (id : Nat) : Nat := bitsAt id 8 4
def libShort (id : Nat) : Nat := bitsAt id 4 4
def libTrans (id : Nat) : Bool := bitAt id 3
def libOpt (id : Nat) : Nat := bitsAt id 0 3

/-- The IDs that the firing library registers (R162, R214, R253). -/
def libIdOk (id : Nat) : Bool :=
  let sh := libShort id
  let op := libOpt id
  let trOk := !(libTrans id) || sh ≤ 2
  id < 0x1000 && match libRule id with
  | 0 => sh == 15 && !(libTrans id) && op == 0
  | 1 => sh == 15 && !(libTrans id) && op == 0
  | 2 => sh ≤ 8 && trOk && op ≤ 1
  | 3 => sh ≤ 8 && trOk && op == 0
  | 4 => sh ≤ 2 && !(libTrans id) && op == 0
  | 5 => sh ≤ 8 && trOk && op == 0
  | 6 => sh == 15 && !(libTrans id) && op == 0
  | 7 => (sh ≤ 4 || sh == 7 || sh == 8) && !(libTrans id) && op == 0
  | 8 => sh ≤ 8 && !(libTrans id)
  | 9 => sh ≤ 8 && !(libTrans id)
  | 10 => id == 0xA00 || id == 0xA10
  | _ => false

/-- The rule is one of the update rules. -/
def libUpdate (id : Nat) : Bool := 2 ≤ libRule id && libRule id ≤ 7

/-- The short-weight operand of a rule that has one (R153). -/
def libShortOpd (id : Nat) : Option Nat :=
  match libRule id with
  | 2 => some 3 | 3 => some 4 | 4 => some 4 | 5 => some 3 | 7 => some 4
  | _ => none

/-- FP32 or A8 moment operands of a rule (R153). -/
def libMoments (id : Nat) : List Nat :=
  match libRule id with
  | 2 => [2] | 3 => [2, 3] | 4 => [2, 3] | 5 => [2]
  | _ => []

/-- What the library requires of operand `k`: its storage type, none where any will do; accumulator attribute; and its mode, banked or
open, none for either. None where the program has no such operand (R153, R172, R215, R254). -/
def libOperand (id k : Nat) : Option (Option Nat × Bool × Option Bool) :=
  let banked := some true
  match libRule id, k with
  | 0, 0 => some (none, false, none)
  | 1, 0 => some (none, false, none)
  | 1, 1 => some (none, false, none)
  | 8, 0 => some (some (shortType (libShort id)), false, none)
  | 9, 0 => some (some (shortType (libShort id)), false, none)
  | 8, 1 => some (some 15, false, none)
  | 9, 1 => some (some 15, false, none)
  | 10, 0 => some (some (if id = 0xA00 then 3 else 0), false, none)
  | 10, 1 => some (some 15, false, none)
  | r, 0 => if r ≤ 7 then some (some 0, false, banked) else none
  | r, 1 => if r ≤ 7 ∧ 2 ≤ r then some (some 1, true, banked) else none
  | 6, 2 => some (some 0, false, banked)
  | 7, 2 => some (some 0, false, banked)
  | 7, 3 => some (some 0, false, banked)
  | r, k =>
    if (libMoments id).contains k then some (some (if r = 4 then 2 else 0), false, banked)
    else if libShortOpd id = some k then some (some (shortType (libShort id)), false, some false)
    else none

/-- The broadcast segment of a library program in 4 KiB steps (R155, R172, R214, R253); the apply phase's follows its columns, and the
pick's own is taken (R170). -/
def libBseg (id : Nat) : Nat :=
  match libRule id with
  | 1 => 0
  | 8 => libOpt id + 1
  | 9 => libOpt id + 1
  | 10 => 0
  | _ => 1

/-- Taps that a library program allows, as R440 encodes them (R161). -/
def libTaps (id : Nat) : Nat :=
  let twin := libUpdate id && libRule id != 7
  let fan := (libShortOpd id).isSome
  let smoke := libUpdate id && libRule id != 6
  b2n twin * (1 + 2 ^ 9) + b2n fan * ((libShortOpd id).getD 0 * 8 + 2 ^ 10) + b2n smoke * 2 ^ 11

/-- The registration record of a library program; its words are the image's (R162, R176). -/
def libRecord (id : Nat) (words : List W64) : Prog :=
  { id := id
    code := words
    bseg := libBseg id
    ops := (List.range 8).map fun k => match libOperand id k with
      | some (t, acc, _) => t.getD 15 + 16 * b2n acc + 128
      | none => 15
    update := libUpdate id
    phases := if libRule id = 6 ∨ libRule id = 7 then 2 else 1
    phase := b2n (libRule id == 7)
    taps := libTaps id }

/-- Lane operations of eight parameters of a rule with its short format, in quarters (R162, R163). -/
def libLanes (id : Nat) : Nat :=
  let base := match libRule id with
    | 2 => if libOpt id = 1 then 18 else 14
    | 3 => 18 | 4 => 26 | 5 => 18 | 6 => 10 | 7 => 14
    | _ => 0
  let sh := match shortType (libShort id) with
    | 3 => if libTrans id then 10 else 2
    | 4 => if libTrans id then 6 else 1
    | 5 => 4 | 6 => 5 | 7 => 4
    | _ => 0
  base + sh

/-! ### Matrix products (R216 to R225) -/

/-- The matrix descriptor (R216). -/
structure MatDesc where
  m : Nat
  k : Nat
  whole : Nat
  vfmt : Nat
  wtype : Nat
  alpha : W32
  zero : Bool
deriving DecidableEq, Repr

def matDesc (d : Datum) : MatDesc :=
  let v := d.bits.toNat
  { m := bitsAt v 0 32
    k := bitsAt v 32 32
    whole := bitsAt v 64 8
    vfmt := bitsAt v 72 8
    wtype := bitsAt v 80 8
    alpha := BitVec.ofNat 32 (bitsAt v 96 32)
    zero := bitsAt v 88 8 == 0 && bitsAt v 128 128 == 0 }

/-- Element format and bytes of a vector format (R216, R221). -/
def vecEl (f : Nat) : Nat := match f with
  | 0 => 1 | 1 => 2 | 2 => 0 | 3 => 3 | _ => 4
def vecBytes (f : Nat) : Nat := elBits (vecEl f) / 8

/-- First vector element and count that a hob reads (R217): `fwd` is W·x. -/
def vecSpan (d : MatDesc) (fwd : Bool) (col row rank : Nat) : Nat × Nat :=
  if fwd then (if d.whole = 0 then col * d.k else 0, d.k) else (if d.whole = 0 then row * d.m else rank * d.m, d.m)

/-- The two checks of R219: the descriptor meets R216 and spans the slice, and the vector lies in the segment. -/
def matOk (d : MatDesc) (id nPer bseg : Nat) (span : Nat × Nat) : Bool :=
  8 ≤ d.m && d.m % 8 == 0 && 32 ≤ d.k && d.k % 32 == 0 && d.whole ≤ 1 && d.vfmt ≤ 4 && d.wtype == libShort id && d.zero
  && d.m * d.k == nPer && (span.1 + span.2) * vecBytes d.vfmt ≤ bseg

/-- A term of a product: its exact value, or none where a granule is poisoned, and flags. -/
abbrev TV := Option FV × Nat

/-- Weight (i, j): element i·k + j in its storage type, times its block's scale (R218, R224). -/
def matW (id : Nat) (d : MatDesc) (g : Grans) (i j : Nat) : TV :=
  let e := i * d.k + j
  let t := shortType (libShort id)
  match opElem t g e with
  | none => (none, 0)
  | some x =>
    let v := elVal (shortEl (libShort id)) x
    if t < 5 then (some v, 0)
    else match opBits g (8 * scaleByte t e) 8 with
      | none => (none, 0)
      | some X => if X = 0xFF then (some .nan, flNV) else (some (fvScale v ((X : Int) - 127)), 0)

/-- Vector element `n` (R221, R224). -/
def matV (d : MatDesc) (seg : Grans) (n : Nat) : TV :=
  match opBits seg (8 * (n * vecBytes d.vfmt)) (8 * vecBytes d.vfmt) with
  | none => (none, 0)
  | some x => (some (elVal (vecEl d.vfmt) x), 0)

/-- fma_f32_rne: the exact product added and rounded once; a NaN term sets NV (R224). -/
def tvFma (a b : TV) (c : LV) : LV :=
  let fl := a.2 ||| b.2 ||| c.2
  match a.1, b.1, c.1 with
  | some x, some y, some z =>
    let vz := elVal 0 z
    let r := deliver 0 .rne true (fmaFn false .rne x y vz)
    (some r.1, fl ||| r.2 ||| if x == .nan || y == .nan || vz == .nan then flNV else 0)
  | _, _, _ => (none, fl ||| flPZ)

/-- α times the tree sum of 32 running sums over `n` terms (R223). -/
def dotSum (alpha : W32) (n : Nat) (term : Nat → TV × TV) : LV :=
  let s := (List.range n).foldl (fun (s : List LV) j => listSet s (j % 32) (tvFma (term j).1 (term j).2 (s.getD (j % 32) (lv 0))))
    (List.replicate 32 (lv 0))
  lvMul (lvW alpha) (lvSum s)

/-- The partials of a hob in element order: of W·x by rows, of Wᵀ·y by columns (R223). -/
def matPartials (id : Nat) (d : MatDesc) (g seg : Grans) (off : Nat) : List LV :=
  if libRule id = 8 then
    (List.range d.m).map fun i => dotSum d.alpha d.k fun j => (matW id d g i j, matV d seg (off + j))
  else (List.range d.k).map fun j => dotSum d.alpha d.m fun i => (matW id d g i j, matV d seg (off + i))

/-! ### Gumbel-argmax (R254 to R257) -/

/-- The Gumbel-argmax descriptor (R254). -/
structure ArgDesc where
  invT : W32
  vmax : Nat
  stream : Nat
  lane : Nat
  zero : Bool
deriving DecidableEq, Repr

def argDesc (d : Datum) : ArgDesc :=
  let v := d.bits.toNat
  { invT := BitVec.ofNat 32 (bitsAt v 0 32)
    vmax := bitsAt v 32 32
    stream := bitsAt v 64 32
    lane := bitsAt v 96 16
    zero := bitsAt v 112 144 == 0 }

/-- The descriptor meets R254, and Vmax and the firing's logits stay within 2^24 (R257). -/
def argOk (d : ArgDesc) (origin nPer : Nat) : Bool :=
  0 < d.invT.toNat && d.invT.toNat < 0x7F800000 && d.zero && d.vmax ≤ 2 ^ 24 && origin + nPer ≤ 2 ^ 24

/-- The Gumbel sample of logit `v` (R118, R255). -/
def argGumbel (key : BitVec 128) (d : ArgDesc) (epoch v : Nat) : W32 :=
  let p := d.lane * 2 ^ 48 + 2 * (v / 8)
  let i := v % 8
  gumbel (bitsAt (heddle key (hedCtr (p + i / 4) d.stream 3 epoch)).toNat (32 * (i % 4)) 32)

/-- The best score and its index over the logits that take part; none where none does (R255). -/
def argBest (key : BitVec 128) (d : ArgDesc) (epoch ix : Nat) (logits : List W32) : Option (W32 × Nat) :=
  ((List.range logits.length).zip logits).foldl (fun (b : Option (W32 × Nat)) e =>
    let v := ix + e.1
    if d.vmax ≤ v then b
    else
      let s := f32Add (f32Mul e.2 d.invT) (argGumbel key d epoch v)
      if f32IsNaN s then b
      else match b with
        | none => some (s, v)
        | some (t, i) => if fvLt (f32 t) (f32 s) && !(fvEq (f32 t) (f32 s)) then some (s, v) else some (t, i)) none

/-- The record of a hob: the score and the index as FP32, then zeros; −∞ and −1.0 where no logit took part (R255). -/
def argRecord (b : Option (W32 × Nat)) : Datum :=
  let r : W32 × W32 := match b with
    | some (s, v) => (s, f32Enc .rne (.fin false v 1))
    | none => (0xFF800000, 0xBF800000)
  ⟨packEls 0 [r.1.toNat, r.2.toNat, 0, 0, 0, 0, 0, 0], false⟩

end Sys2Proof.Machine
end

