-- ==== Sys2Proof/Machine/Loader.lean ====
section
/-! DEFINITION. The loader's admission of programs (R124 to R126). -/

namespace Sys2Proof.Machine

/-- The cycles the loader counts for an instruction (R100). -/
def ldCharge (w : Nat) : Nat :=
  let o := iOpc w
  if o = 0x15 then 128
  else if o = 0x33 ∨ o = 0x34 then 64
  else if o = 0x52 ∨ o = 0x53 then 3
  else if o = 0x5A ∨ (0x5C ≤ o ∧ o ≤ 0x5E) ∨ o = 0x63 then 2
  else if o = 0x5F ∨ o = 0x60 then 4
  else if o = 0x61 then (if iRm w = 4 then 8 * (cvtN w / 8 + 1) else 1)
  else if o = 0x70 then 16
  else if o = 0x71 then 24
  else 1

/-- Loops matched so far, counters of the open ones, and whether every rule of R122 has held. -/
structure LoopScan where
  /-- Open loops, innermost first: place and counter. -/
  stack : List (Nat × Nat) := []
  /-- Matched loops: places of LOOP and ENDL. -/
  pairs : List (Nat × Nat) := []
  ok : Bool := true
deriving DecidableEq, Repr

/-- Match the LOOP and ENDL of a program (R122). -/
def loopScan (code : List Nat) : LoopScan :=
  let r := ((List.range code.length).zip code).foldl (fun (t : LoopScan) e =>
    let ln := dLN e.2
    if iOpc e.2 = 0x31 then
      { t with stack := (e.1, ln) :: t.stack, ok := t.ok && t.stack.length < 4 && !(t.stack.any fun x => x.2 == ln) }
    else if iOpc e.2 = 0x32 then
      match t.stack with
      | x :: q => { stack := q, pairs := (x.1, e.1) :: t.pairs, ok := t.ok && x.2 == ln }
      | [] => { t with ok := false }
    else t) {}
  { r with ok := r.ok && r.stack.isEmpty }

/-- A place lies in the body of a matched loop. -/
def inLoop (l : Nat × Nat) (i : Nat) : Bool := l.1 < i && i ≤ l.2

/-- The ENDL of the loop at `i`, and the LOOP of the ENDL at `i`. -/
def loopEndOf (ps : List (Nat × Nat)) (i : Nat) : Nat := ((ps.find? fun p => p.1 == i).map (·.2)).getD i
def loopBegOf (ps : List (Nat × Nat)) (i : Nat) : Nat := ((ps.find? fun p => p.2 == i).map (·.1)).getD i

/-- Where execution may go on after the instruction `w` at `i`. -/
def ldNext (ps : List (Nat × Nat)) (code : List Nat) (i w : Nat) : List Nat :=
  let o := iOpc w
  if o = 0x34 then []
  else if o = 0x30 then (if dCond w = 0 then [bitsAt w 0 10] else [bitsAt w 0 10, i + 1])
  else if o = 0x31 then (if dImm w = 0 then [i + 1, loopEndOf ps i + 1] else [i + 1])
  else if o = 0x32 then
    let l := loopBegOf ps i
    if dImm (code.getD l 0) = 1 then [i + 1] else [l + 1, i + 1]
  else [i + 1]

/-- Grow a set of places by what `f` adds to it, at most `fuel` times. -/
def ldClose (f : List Nat → List Nat) : Nat → List Nat → List Nat
  | 0, a => a
  | n + 1, a => let b := f a; if b.length = a.length then a else ldClose f n b

/-- Places that some path from instruction 0 reaches. -/
def ldReach (ps : List (Nat × Nat)) (code : List Nat) : List Nat :=
  ldClose (fun a => (a.flatMap fun i => match code[i]? with
    | some w => ldNext ps code i w
    | none => []).foldl (fun b j => if b.contains j then b else b ++ [j]) a) (code.length + 1) [0]

/-- Places from which some path reaches HALT. -/
def ldHalts (ps : List (Nat × Nat)) (code : List Nat) : List Nat :=
  let idx := (List.range code.length).zip code
  ldClose (fun a => idx.foldl (fun b e =>
      if b.contains e.1 then b
      else if iOpc e.2 = 0x34 ∨ (ldNext ps code e.1 e.2).any b.contains then b ++ [e.1] else b) a) (code.length + 1) []

/-- Check 8, LD_END: no path runs past the last instruction, and HALT can be reached from every place that is reached. -/
def ldEnd (ps : List (Nat × Nat)) (code : List Nat) : Bool :=
  let r := ldReach ps code
  let h := ldHalts ps code
  r.all fun i => i < code.length && h.contains i

/-! ### Measured paths (R124) -/

/-- A path being measured. -/
structure LdPath where
  pc : Nat
  /-- Loops entered on the path, innermost first: place and bodies left; none where the count is not immediate. -/
  stack : List (Nat × Option Nat)
  /-- Loads on the path whose figure is not used up: register, charge since, figure. -/
  loads : List (Nat × Nat × Nat)
  cost : Nat
deriving DecidableEq, Repr

/-- One instruction of a path: the paths it goes on as, or none where it costs too much. A path that begins at a checkpoint inside a
loop with an immediate count has at most one repetition fewer than that before it (R124). -/
def ldStep (ps : List (Nat × Nat)) (code : List Nat) (p : LdPath) : Option (List LdPath) :=
  match code[p.pc]? with
  | none => some []
  | some w =>
    let o := iOpc w
    let rd := vReads w
    let extra := p.loads.foldl (fun m l => if rd.contains l.1 then max m (l.2.2 - l.2.1) else m) 0
    let c := ldCharge w + extra
    let cost := p.cost + c
    if 2000 < cost then none
    else if o = 0x33 ∨ o = 0x34 then some []
    else
      let wr := vWrites w
      let kept := (p.loads.map fun l => (l.1, l.2.1 + c, l.2.2)).filter fun l => l.2.1 < l.2.2 && !(wr.contains l.1)
      let loads := if o = 0x10 ∨ o = 0x12 ∨ o = 0x13 then
          (kept.filter fun l => l.1 != iVD w) ++ [(iVD w, 0, if o = 0x10 then 48 else 12)] else kept
      let at_ (j : Nat) (st : List (Nat × Option Nat)) : LdPath :=
        ⟨j, st.filter fun l => inLoop (l.1, loopEndOf ps l.1) j, loads, cost⟩
      if o = 0x30 then some ((ldNext ps code p.pc w).map fun j => at_ j p.stack)
      else if o = 0x31 then
        if dImm w = 0 then some [at_ (p.pc + 1) ((p.pc, none) :: p.stack), at_ (loopEndOf ps p.pc + 1) p.stack]
        else some [at_ (p.pc + 1) ((p.pc, some (dImm w)) :: p.stack)]
      else if o = 0x32 then
        let l := loopBegOf ps p.pc
        match p.stack with
        | (b, some n) :: q =>
          if b = l then (if n ≤ 1 then some [at_ (p.pc + 1) q] else some [at_ (l + 1) ((b, some (n - 1)) :: q)])
          else some [at_ (l + 1) p.stack, at_ (p.pc + 1) p.stack]
        | st =>
          let n := dImm (code.getD l 0)
          if n = 0 then some [at_ (l + 1) st, at_ (p.pc + 1) st]
          else if n = 1 then some [at_ (p.pc + 1) st]
          else some [at_ (l + 1) ((l, some (n - 1)) :: st), at_ (p.pc + 1) st]
      else some [at_ (p.pc + 1) p.stack]

/-- Add a path to a set, keeping the dearer of two that differ in cost alone. -/
def ldAdd (a : List LdPath) (p : LdPath) : List LdPath :=
  match a.find? fun q => q.pc == p.pc && q.stack == p.stack && q.loads == p.loads with
  | some q => if q.cost < p.cost then p :: a.erase q else a
  | none => p :: a

/-- Every path of a set ends at a checkpoint within 2,000 cycles; each instruction costs at least one. -/
def ldWalk (ps : List (Nat × Nat)) (code : List Nat) : Nat → List LdPath → Bool
  | 0, a => a.isEmpty
  | n + 1, a =>
    if a.isEmpty then true
    else
      let r := a.map (ldStep ps code)
      if r.any Option.isNone then false
      else ldWalk ps code n ((r.flatMap fun x => x.getD []).foldl ldAdd [])

/-- Check 9, LD_PATH: every path from instruction 0 or a checkpoint to the next one (R123, R124). -/
def ldPaths (ps : List (Nat × Nat)) (code : List Nat) : Bool :=
  let starts := 0 :: ((ldReach ps code).filter fun i => iOpc (code.getD i 0) == 0x33).map (· + 1)
  starts.all fun i => ldWalk ps code 2001 [⟨i, [], [], 0⟩]

/-! ### Scratch (R73, R125 check 10) -/

/-- Scratch areas initialised on every path to each place since the last checkpoint, as masks. -/
def ldAreas (ps : List (Nat × Nat)) (code : List Nat) : Nat → SMap Nat → SMap Nat
  | 0, m => m
  | n + 1, m =>
    let m1 := ((List.range code.length).zip code).foldl (fun (t : SMap Nat) e =>
      match smFind t e.1 with
      | none => t
      | some a =>
        let out := if iOpc e.2 = 0x33 then 0 else if iOpc e.2 = 0x15 then a ||| 2 ^ cArea e.2 else a
        (ldNext ps code e.1 e.2).foldl (fun u j => match smFind u j with
          | some b => smSet u j (b &&& out)
          | none => smSet u j out) t) m
    if m1 = m then m else ldAreas ps code n m1

/-- Check 10, LD_SCRATCH. -/
def ldScratch (ps : List (Nat × Nat)) (code : List Nat) (bseg : Nat) : Bool :=
  let m := ldAreas ps code (17 * (code.length + 1)) [(0, 0)]
  ((List.range code.length).zip code).all fun e =>
    let o := iOpc e.2
    !(0x13 ≤ o && o ≤ 0x15) || (bseg * 4096 + 4096 * (cArea e.2 + 1) ≤ 65536
      && (o != 0x13 || (match smFind m e.1 with
          | some a => bitAt a (cArea e.2)
          | none => true)))

/-- The fields of a registration record lie within their ranges (R176, R440). -/
def progRecordOk (p : Prog) : Bool :=
  p.taps < 4096 && p.ops.all (fun o => bitsAt o 5 2 == 0 && (bitsAt o 0 4 < 8 || bitsAt o 0 4 == 15))
  && 1 ≤ p.code.length && (p.phases == 1 || p.phases == 2) && p.phase < p.phases && (!p.update || 1 ≤ p.bseg)

/-- The reason code of the first check that a program fails; 0 where it is admitted (R125). -/
def loaderCode (p : Prog) : Nat :=
  let code := p.code.map (·.toNat)
  let sc := loopScan code
  let idx := (List.range code.length).zip code
  if 1024 < code.length ∨ 8 < p.bseg then 1
  else if !(code.all ldOpcode) then 2
  else if !(code.all ldFormat) then 3
  else if !(code.all ldRegister) then 4
  else if !(code.all fun w => opFmt (iOpc w) != some .b || bitAt (p.ops.getD (bOpd w) 0) 7) then 5
  else if !(idx.all fun e => iOpc e.2 != 0x30 || (bitsAt e.2 0 10 < code.length
      && sc.pairs.all fun l => !(inLoop l (bitsAt e.2 0 10)) || inLoop l e.1)) then 6
  else if !sc.ok then 7
  else if !(ldEnd sc.pairs code) then 8
  else if !(ldPaths sc.pairs code) then 9
  else if !(ldScratch sc.pairs code p.bseg) then 10
  else if !(code.all fun w => !(iOpc w == 0x70 || iOpc w == 0x71) || bitsAt w 0 8 != 1) then 11
  else 0

end Sys2Proof.Machine
end

