-- ==== Sys2Proof/Machine/Context.lean ====
section
/-! DEFINITION. Context slots: the context record of a hob, and its save and restore (R74, R134 to R136). -/

namespace Sys2Proof.Machine

/-- The offset in the reserved area of the record of hob `n` in a slot: a record for every active hob, by its logical number
(R51, R87; the place within the slot is the model's, DESIGN CHOICE, log entry 21). -/
def ctxOff (s : State) (slot n : Nat) : Nat := resCtx + slot * ctxSlotBytes s + 1280 * n

/-- The bytes of a context record from 0x400 on (R74). -/
def ctxTail (h : Hob) : List Byte :=
  ((List.range 16).flatMap fun i => leBytes 4 (smGet 0 h.sr i).toNat)
  ++ leBytes 4 (h.pc % 1024 + h.flags % 64 * 1024) ++ leBytes 4 h.sticky.toNat
  ++ ((List.range 4).flatMap fun i => leBytes 4 (smGet 0 h.loops i).toNat)
  ++ leBytes 8 h.pred.toNat ++ leBytes 4 h.ctl.toNat ++ leBytes 4 h.ckpt ++ leBytes 152 0

/-- The 40 granules of a hob's context record (R74): a vector register that is poisoned or uncorrectable is a poison mark, and so
is a granule of scalar registers one of which is uncorrectable. -/
def ctxGrans (h : Hob) : List Datum :=
  ((List.range 32).map fun i =>
    let d := smGet ⟨0, false⟩ h.vr i
    if h.vrUe.contains i ∨ d.poison then ⟨0, true⟩ else d)
  ++ ((List.range 8).map fun i =>
    if h.srUe.any (fun r => r / 8 == i) then ⟨0, true⟩
    else ⟨bytesGran (((ctxTail h).drop (32 * i)).take 32), false⟩)

/-- Granules of a record in transfer, those of a 64-byte part that the weft bus could not carry marked poison (R136, R306). -/
def ctxBadParts (x : Firing) (n : Nat) (ds : List Datum) : List Datum :=
  ((List.range ds.length).zip ds).map fun e => if x.badCtx.contains (n, e.1 / 2) then ⟨0, true⟩ else e.2

/-- What the granules of a record give a hob, and whether one of them that holds no vector register cannot be read, so that the
hob ends with HOB_STATE_ERROR (R74, R136). -/
def ctxHob (ds : List Datum) (k : CtxKeep) : Hob × Bool :=
  let g (i : Nat) : Datum := ds.getD i ⟨0, false⟩
  let bs := (rangeFrom 32 4).flatMap fun i => granBytes (g i).bits
  let w (o : Nat) : Nat := leAt bs o 4
  ({ vr := (List.range 32).map fun i => (i, g i)
     sr := (List.range 16).map fun i => (i, BitVec.ofNat 32 (w (4 * i)))
     loops := (List.range 4).map fun i => (i, BitVec.ofNat 32 (w (0x48 + 4 * i)))
     pc := w 0x40 % 1024
     flags := w 0x40 / 1024 % 64
     sticky := BitVec.ofNat 32 (w 0x44)
     pred := BitVec.ofNat 64 (leAt bs 0x58 8)
     ctl := BitVec.ofNat 32 (w 0x60)
     ckpt := w 0x64
     passed := k.passed
     digest := k.digest
     stored := k.stored }, (rangeFrom 32 4).any fun i => (g i).poison)

/-- Write the record of hob `n` into a slot (R134). -/
def ctxSave (s : State) (x : Firing) (slot n : Nat) : State :=
  let ds := ctxBadParts x n (ctxGrans (hobOf s n))
  let off := ctxOff s slot n
  resWriteN (engNow s { cls := x.cls, places := resPlaces s off 40, rd := 0, wr := 40 }) off ds

/-- Read the record of hob `n` from a slot: the hob, whether it ends at once, and the state in which the reads are counted
(R135, R136, R310). -/
def ctxLoad (s : State) (x : Firing) (slot n : Nat) (k : CtxKeep) : (Hob × Bool) × State :=
  let off := ctxOff s slot n
  let r := resReadN (engNow s { cls := x.cls, places := resPlaces s off 40, rd := 40, wr := 0 }) off 40
  (ctxHob (ctxBadParts x n (r.1.map (·.2))) k, r.2)

/-- The granules of the record of hob `n` as they stand in a slot. -/
def ctxPeek (s : State) (slot n : Nat) : List Datum :=
  (List.range 40).map fun i =>
    let p := resPlace s (ctxOff s slot n + 32 * i)
    (granAt s p.loc (locAddr s p.die p.pos p.loc)).2

/-- The hob as its record in the slot of a suspended firing gives it. -/
def ctxView (s : State) (x : Firing) (e : Nat × CtxKeep) : Hob :=
  match x.slot with
  | some q => (ctxHob (ctxPeek s q e.1) e.2).1
  | none => {}

/-- The checkpoint at which the first stopped hob of a firing stands (R555, R556). -/
def stopCkpt (s : State) (x : Firing) : Nat :=
  match x.saved with
  | e :: _ => if x.st = .saving then (hobOf s e.1).ckpt else (ctxView s x e).ckpt
  | [] => 0

/-! ### Program copies (R129, R177) -/

/-- The offset of copy `i` of the program at place `p` of the stoker data area: 16 KiB a program, its copies 8 KiB and so eight
stripes apart, on different pairs (R49, R51, R94, R129; the places are the model's, DESIGN CHOICE, log entry 21). -/
def progOff (s : State) (p i : Nat) : Nat := resStoker s + 16384 * p + 8192 * i

/-- Granules of a copy. -/
def progGrans (p : Prog) : Nat := (p.len + 3) / 4

/-- Read the words of a registered program: from the first copy, or, where a granule of it cannot be read, from the second, from
which the first is then rewritten; none where both fail (R129). -/
def progRead (s : State) (cls : Nat) (p : Prog) : Option (List W64) × State :=
  let n := progGrans p
  let use (i : Nat) : EngUse := { cls := cls, places := resPlaces s (progOff s p.place i) n, rd := n, wr := 0 }
  let words (ds : List Datum) : List W64 :=
    let bs := ds.flatMap fun d => granBytes d.bits
    (List.range p.len).map fun i => BitVec.ofNat 64 (leAt bs (8 * i) 8)
  let a := resReadN (engNow s (use 0)) (progOff s p.place 0) n
  if !(anyBad (a.1.map (·.2))) then (some (words (a.1.map (·.2))), a.2)
  else
    let b := resReadN (engNow a.2 (use 1)) (progOff s p.place 1) n
    let ds := b.1.map (·.2)
    if anyBad ds then (none, b.2)
    else (some (words ds), resWriteN (engNow b.2 { use 0 with rd := 0, wr := n }) (progOff s p.place 0) ds)

/-- The lowest place of the stoker data area that no registered program and no admitted firing uses (R177). -/
def progPlace (s : State) : Nat :=
  let used := s.fir.progs.map (·.place) ++ s.fir.all.map fun kv => kv.2.code.place
  ((List.range (used.length + 1)).find? fun n => !(used.contains n)).getD 0

/-- Register a program: its two copies are written, and the registry keeps its record (R126, R129). -/
def progAdd (s : State) (p : Prog) : State :=
  let q := { p with place := progPlace s, len := p.code.length, code := [] }
  let ds : List Datum := (bytesGrans (padTo (32 * progGrans q) (p.code.flatMap fun w => leBytes 8 w.toNat))).map fun g => ⟨g, false⟩
  let n := ds.length
  let put (t : State) (i : Nat) : State :=
    let off := progOff s q.place i
    resWriteN (engNow t { cls := 3, places := resPlaces s off n, rd := 0, wr := n }) off ds
  modFir (put (put s 0) 1) fun f => { f with progs := f.progs ++ [q] }

end Sys2Proof.Machine
end

