-- ==== Sys2Proof/Machine/Runnable.lean ====
section
/-! DEFINITION. Runnable firings, ember preemption and held stops (R131, R137, R141, R145). -/

namespace Sys2Proof.Machine

/-- The tile of a test lies in the rectangle. -/
def scanIn (s : State) (f : FireF) (ok : ScanT → Bool) : Bool :=
  match s.flt.scan with
  | some t => match t.pos with
    | some p => ok t && inRect f (t.die * 32 + p)
    | none => false
  | none => false

/-- The position of a migration in SWITCHING lies in the rectangle (R318). -/
def switchIn (s : State) (f : FireF) : Bool :=
  match s.warp.migr with
  | some g => g.switching && inRect f (g.die * 32 + g.pos)
  | none => false

/-- A tile whose test deferral bound has passed lies in the rectangle (R145), or a position that is about to be switched over
(R318). -/
def testBlocks (s : State) (f : FireF) : Bool := scanIn s f (fun t => t.bound) || switchIn s f

/-- A tile of the rectangle waits for its test, or a position for its switchover (R137, R145, R318). -/
def testDue (s : State) (f : FireF) : Bool := scanIn s f (fun t => t.phase ≤ 1) || switchIn s f

/-- The in-field test cause of a firing that reaches RUNNING (R137, R145). -/
def testStop (s : State) : State :=
  match curFiring s with
  | none => s
  | some (_, x) => if testDue s x.f then requestStop s .test else s

/-- Earlier FIRE picks of the firing's spool have completed, and with ORDER every earlier pick (R334, R428). -/
def fireOrder (s : State) (x : Firing) : Bool :=
  match x.pick with
  | none => true
  | some n => match pickOf s n with
    | none => true
    | some p => orderMet s p && !(s.spl.picks.any fun kv =>
        kv.2.spool == p.spool && kv.2.opc == 1 && !(pickIsDone kv.2) && sub32 p.seq kv.2.seq < 2 ^ 31 && kv.2.seq != p.seq)

/-- The firing is QUEUED or SUSPENDED and its partition holds hob-time tokens; a breakpoint, a test for which it was suspended or
an earlier pick may still hold it (R141, R145, R334, R556). A fill of a re-initialisation needs no tokens (R465). -/
def runnable (s : State) (x : Firing) : Bool :=
  ((x.st == .queued && fireOrder s x) || (x.st == .suspended && x.brkHeld.isNone && !(x.testWait && scanIn s x.f fun _ => true)))
  && (x.fill || holdsTokens s x.part .hob x.cls) && !(testBlocks s x.f)

/-- Stop the running firing for an ember firing that is runnable; the stop is charged to the ember firing's partition
(R137, R459). -/
def preemptCheck (s : State) : State :=
  match curFiring s with
  | none => s
  | some (k, x) =>
    if x.cls = 0 ∨ x.st ≠ .running then s
    else match s.fir.all.find? fun kv => kv.2.cls == 0 && runnable s kv.2 with
      | none => s
      | some (_, e) => requestStop (modFiring s k fun y => { y with payer := some e.part }) .ember

/-- The cause of a stop that is pending still stands (R137). -/
def causeStands (s : State) (x : Firing) : StopCause → Bool
  | .ember => s.fir.all.any fun kv => kv.2.cls == 0 && runnable s kv.2
  | .slice => s.fir.all.any fun kv => kv.2.part != x.part && kv.2.cls ≤ x.cls && runnable s kv.2
  | .hobTime => !x.fill && !(holdsTokens s x.part .hob x.cls)
  | .test => testDue s x.f
  | .brk _ => true

/-- Signal a stop that was held, if its cause still stands; causes that no longer stand are dropped (R131, R137). -/
def heldStop (s : State) : State :=
  match curFiring s with
  | none => s
  | some (k, x) =>
    if x.st = .running then signalStop (setFiring s k { x with causes := x.causes.filter (causeStands s x) }) else s

end Sys2Proof.Machine
end

