-- ==== Sys2Proof/Machine/StepOps.lean ====
section
/-! DEFINITION. The step engine: accumulation, epochs, ash bin, norm exchange, decision and release (R155 to R159, R179 to
R211, R402, R410). -/

namespace Sys2Proof.Machine

def ctxOf (s : State) (k : Nat) : StepCtx := smGet {} s.stp.ctxs k
def setCtx (s : State) (k : Nat) (c : StepCtx) : State := modStp s fun t => { t with ctxs := smSet t.ctxs k c }
def modCtx (s : State) (k : Nat) (f : StepCtx → StepCtx) : State :=
  match smFind s.stp.ctxs k with
  | some c => setCtx s k (f c)
  | none => s

def epOf (c : StepCtx) (e : Nat) : Option Epoch := c.eps.find? fun x => x.e == e
def setEp (c : StepCtx) (x : Epoch) : StepCtx := { c with eps := c.eps.map fun y => if y.e == x.e then x else y }
def modEp (c : StepCtx) (e : Nat) (f : Epoch → Epoch) : StepCtx :=
  { c with eps := c.eps.map fun y => if y.e == e then f y else y }

/-- The books of an epoch (R212). -/
def bookOf (c : StepCtx) (e : Nat) : Book := smGet {} c.books e
def modBook (c : StepCtx) (e : Nat) (f : Book → Book) : StepCtx := { c with books := smMod {} c.books e f }

/-- The context that binds a region (R179). -/
def ctxOfRgn (s : State) (rgn : Nat) : Option (Nat × StepCtx) :=
  s.stp.ctxs.find? fun kv => kv.2.rgns.any fun r => r.rgn == rgn

/-- 2^k as FP32. -/
def f32Pow (k : Int) : W32 := f32Enc .rne (mkFin false 1 k)

/-! ### The accumulating write (R183 to R191) -/

/-- Stochastic rounding of a value to FP16 by the draw of parameter index `p` (R187). -/
def sr16 (key : BitVec 128) (y : FV) (p stream epoch : Nat) : Nat :=
  if fvIsZero y then 0 else (encodeF fp16 (.sr (paramDraw key p stream epoch)) true y).1

/-- Magnitude as a fraction; 0 for what is not finite. -/
def fvMag : FV → Nat × Nat
  | .fin _ n d => (n, d)
  | _ => (0, 1)

/-- The largest magnitude of a list of values, as a fraction. -/
def maxMag (xs : List FV) : Nat × Nat :=
  xs.foldl (fun m v => let q := fvMag v; if m.1 * q.2 < q.1 * m.2 then q else m) (0, 1)

/-- `pick` of R186: the scale that puts the largest sum in [2^8, 2^9). -/
def pickScale (m : Nat × Nat) : Nat := if m.1 = 0 then 0 else (ilogQ m.1 m.2 - 8 + 127).toNat

/-- A value is a NaN or infinite. -/
def notFinite : FV → Bool
  | .fin _ _ _ => false
  | _ => true

/-- Elements of a payload half by format: 0 BF16, 1 FP16, 2 FP32. -/
def accElems (fmt : Nat) (g : Gran) : List FV :=
  let c := if fmt = 0 then 1 else if fmt = 1 then 2 else 0
  (elems c g).map (elVal c)

/-- What an S16 block becomes (R186, R189, R191). -/
structure BlkOut where
  /-- Granules to write back, with the data granule's number. -/
  grans : List (Nat × Datum)
  scale : Nat
  ovf : Bool
  /-- Sum of the changes of the squares, exact. -/
  dss : FV

/-- The new contents of a block (R186): `k0` the first covered position, `pay` its elements (none where its payload half
carries the poison mark), `old` the 64 stored patterns, `p0` the parameter index of the block's element 0. -/
def accBlock (key : BitVec 128) (e stream rtag p0 k0 : Nat) (w : FV) (pay : List (Option FV)) (fresh : Bool) (x : Nat)
    (bits : List Nat) : BlkOut :=
  let val (k : Nat) : FV := if fresh then fvZero false else fvScale (decodeF fp16 (bits.getD k 0)) ((x : Int) - 127)
  let payAt (k : Nat) : Option FV := if k0 ≤ k then (pay[k - k0]?).join else none
  let sum (k : Nat) : FV := match payAt k with
    | some v => (fvAdd .rne (val k) (fvMul v w).1).1
    | none => val k
  let ks := List.range 64
  let bad := (!fresh && (x == 0xFF || ks.any fun k => notFinite (val k)))
    || pay.any (fun v => match v with
      | some u => notFinite u || notFinite w
      | none => false)
  let m := maxMag (ks.map sum)
  let grow := m.1 * 2 ^ 127 ≥ 2 ^ 15 * m.2 * 2 ^ x
  let xn := if fresh || grow then pickScale m else x
  let cov (k : Nat) : Bool := k0 ≤ k && k < k0 + pay.length
  let pois (g : Nat) : Bool := (List.range 16).any fun i => cov (16 * g + i) && (payAt (16 * g + i)).isNone
  if bad || 254 < xn then ⟨((List.range 4).filter pois).map fun g => (g, ⟨0, true⟩), 0xFF, true, fvZero false⟩
  else
    let new (k : Nat) : Nat :=
      if cov k then sr16 key (fvScale (sum k) (127 - (xn : Int))) (p0 + k) (stream * 65536 + rtag) e
      else if fresh then 0
      else if xn ≠ x then sr16 key (fvScale (val k) (127 - (xn : Int))) (p0 + k) (2 * 65536 + rtag) e
      else bits.getD k 0
    let touched (g : Nat) : Bool := fresh || xn ≠ x || (List.range 16).any fun i => cov (16 * g + i)
    let sq (v : FV) : FV := (fvMul v v).1
    let d := ks.foldl (fun a k =>
      if pois (k / 16) || !(touched (k / 16)) then a
      else
        let q := sq (fvScale (decodeF fp16 (new k)) ((xn : Int) - 127))
        (fvAdd .rne a (fvAdd .rne q (fvNeg (sq (val k)))).1).1) (fvZero false)
    ⟨((List.range 4).filter touched).map fun g =>
        (g, if pois g then ⟨0, true⟩ else ⟨packEls 2 ((List.range 16).map fun i => new (16 * g + i)), false⟩),
      xn, false, d⟩

/-- Add to a hob's running sum of squares of a parity, or set its overflow flag (R189). -/
def addSquares (c : StepCtx) (hob par : Nat) (d : FV) (ovf : Bool) : StepCtx :=
  let k := hob * 2 + par
  if ovf then { c with ovf := insN c.ovf k }
  else
    let v := f32Add (smGet 0 c.ss k) (f32Enc .rne d)
    let c1 := { c with ss := smSet c.ss k v }
    if notFinite (f32 v) then { c1 with ovf := insN c1.ovf k } else c1

/-- Where the S16 block of an accumulating write lies: its unit within the half, the local offset of the unit's first byte, the
block, and the first covered position in it (R149, R185, R186). -/
structure AccAt where
  u : Nat
  ub : Nat
  b : Nat
  k0 : Nat
deriving DecidableEq, Repr

def accAt (s : State) (a : AccReq) : AccAt :=
  let r := (rgnAt s a.rgn).getD {}
  let half := r.first * unitBytes + a.epoch % 2 * (sliceBytes r / 2)
  let off := a.loc - half
  { u := off / 2080
    ub := half + 2080 * (off / 2080)
    b := off % 2080 / 128
    k0 := off % 2080 % 128 / 2 }

/-- Read the four data granules of a block: the decode results, the data, and the state in which errors are queued (R307, R310). -/
def accReads (s : State) (a : AccReq) (base : Nat) : List (WarpRes × Datum) × State :=
  (List.range 4).foldl (fun (q : List (WarpRes × Datum) × State) g =>
    let y := readRaw q.2 a.die a.pos (base + 32 * g)
    (q.1 ++ [(y.1, y.2.1)], scrubPush y.2.2 a.die a.pos (base + 32 * g) y.1)) ([], s)

/-- Granules of a block that was not fresh which were corrected when read and are written back as they stand (R191). -/
def accFixed (rd : List (WarpRes × Datum)) (out : List (Nat × Datum)) : List (Nat × Datum) :=
  (List.range 4).filterMap fun g => match rd[g]? with
    | some (WarpRes.correctable, d) => if out.any (fun e => e.1 == g) then none else some (g, d)
    | _ => none

/-- Apply an accumulating write at its place (R186, R191): whether it failed, and the state. Its grant has charged the read of
the scale-and-tag granule and the elements; the other columns are charged as they turn out to be needed (R190). ACC_FAIL counts
the failures by a data granule, which are those that R191 says to count. -/
def accApply (s : State) (a : AccReq) : Bool × State :=
  let q := accAt s a
  let tg := a.epoch % 256
  let st := readRaw s a.die a.pos (q.ub + 2048)
  let s1 := scrubPush st.2.2 a.die a.pos (q.ub + 2048) st.1
  let fail (t : State) (n : Nat) : Bool × State :=
    (true, modCtx t a.ctx fun c => modEp { c with accFail := c.accFail + n } a.epoch fun e => { e with fails := e.fails + 1 })
  if st.2.1.poison then fail s1 0
  else
    let sb := st.2.1.bits.toNat
    let x := bitsAt sb (16 * q.b) 8
    let fresh := bitsAt sb (16 * q.b + 8) 8 != tg
    let rd := accReads s1 a (q.ub + 128 * q.b)
    let s2 := if fresh then s1 else spendAlways rd.2 (2 * eRd s)
    if !fresh && anyBad (rd.1.map (·.2)) then fail s2 1
    else
      let pay := a.data.flatMap fun d =>
        let xs := accElems a.fmt d.bits
        if d.poison then xs.map fun _ => none else xs.map some
      let out := accBlock a.key a.epoch a.stream a.rtag (a.pbase + q.u * 1024 + 64 * q.b) q.k0 (f32 a.w) pay fresh x
        (rd.1.flatMap fun d => elems 2 d.2.bits)
      let grans := out.grans ++ if fresh then [] else accFixed rd.1 out.grans
      let s3 := grans.foldl (fun t g => writeGran t a.die a.pos (q.ub + 128 * q.b + 32 * g.1) g.2)
        (spendAlways s2 (grans.length * eWr s))
      let nb := (sb - x * 2 ^ (16 * q.b) - bitsAt sb (16 * q.b + 8) 8 * 2 ^ (16 * q.b + 8)) + out.scale * 2 ^ (16 * q.b)
        + tg * 2 ^ (16 * q.b + 8)
      let s4 := if nb ≠ sb ∨ st.1 = .correctable then
          writeGran (spendAlways s3 (eWr s)) a.die a.pos (q.ub + 2048) ⟨BitVec.ofNat 256 nb, false⟩ else s3
      let s5 := modCtx s4 a.ctx fun c =>
        modBook (addSquares c (a.die * 32 + a.pos) (a.epoch % 2) out.dss out.ovf) a.epoch fun k => { k with app := k.app + 1 }
      (false, pmcEvent (chargeLane s5 (accCount a.fmt / 8)) 0x08 (some a.part) none (.pair a.die a.pos) (accCount a.fmt))

/-! ### Sums, norm messages (R198, R203, R204) -/

/-- Hobs of a context's regions, ascending (R198). -/
def ctxHobs (s : State) (c : StepCtx) : List Nat :=
  (List.range (pairCount s)).filter fun n => c.rgns.any fun q => match rgnAt s q.rgn with
    | some r => r.c0 ≤ n % 32 && n % 32 ≤ r.c1 && r.r0 ≤ n / 32 && n / 32 ≤ r.r1
    | none => false

/-- The owner's partial: the binary64 sum of the hobs' values, a negative one read as +0 (R198). -/
def ownPartial (s : State) (c : StepCtx) (par : Nat) : W64 :=
  (ctxHobs s c).foldl (fun t n =>
    let v := smGet (0 : W32) c.ss (n * 2 + par)
    f64Add t (if fvSign (f32 v) then 0 else f64OfF32 v)) 0

/-- The NORM frame of an epoch to one owner (R203, R377). -/
def normSend (s : State) (c : StepCtx) (x : Epoch) (id : Nat) : State :=
  sendPeer s id 0xB0 [(128, 32, x.e), (160, 12, c.n - 1), (172, 12, c.own), (184, 1, b2n x.ovf)]
    [⟨bytesGran (leBytes 8 x.part.toNat ++ leBytes 4 c.group), false⟩] 32 (some c.owner)

/-- The NORM frame of an epoch to every other owner. -/
def normSendAll (s : State) (c : StepCtx) (x : Epoch) : State :=
  (List.range c.n).foldl (fun t j => if j = c.own then t else normSend t c x (c.peers.getD j 0)) s

/-! ### Opening an epoch (R196) -/

/-- STEP trace record (R549): 1 open, 2 close, 3 decision. -/
def sootEp (s : State) (k ev cause : Nat) (x : Epoch) : State :=
  sootStep s (ctxOf s k).owner k ev cause x.e x.cf.toNat x.fences.length

/-- The update of epoch `e` is complete, as far as the context still knows it. -/
def epDone (c : StepCtx) (e : Nat) : Bool :=
  match epOf c e with
  | some x => x.st == .done
  | none => true

/-- Begin the drains that may begin: the fence has come, the epoch is decided, and its successor is open (R201). -/
def drainTry (s : State) (k : Nat) : State :=
  modCtx s k fun c =>
    let ready (d : Nat × Nat) : Bool := c.isOpen && c.openEpoch == d.2 + 1 && (match epOf c d.2 with
      | some x => x.decision != 0
      | none => false)
    let go := c.drainWait.filter ready
    go.foldl (fun c d =>
      let has := c.ash.any fun r => r.contrib == d.1 && r.epoch == d.2
      let sE := match epOf c d.2 with
        | some x => x.scale
        | none => 0
      let wt := f32Enc .rne (fvScale (f32 c.ashW) ((c.scaleNext : Int) - sE))
      if has && !(c.drains.any fun q => q.contrib == d.1 && q.epoch == d.2) then
        modEp { c with drains := c.drains ++ [{ contrib := d.1, epoch := d.2, w := wt }] } (d.2 + 1) fun x =>
          { x with drained := if x.drained.contains d.1 then x.drained else x.drained ++ [d.1] }
      else c) { c with drainWait := c.drainWait.filter fun d => !(ready d) }

/-- Open the next epoch, where its predecessor has closed and the update of the epoch before that is complete
(R27, R196). -/
def openTry (s : State) (k : Nat) : State :=
  match smFind s.stp.ctxs k with
  | none => s
  | some c =>
    let e := c.openEpoch
    if c.isOpen || (c.first + 2 ≤ e && !(epDone c (e - 2))) then s
    else
      let x : Epoch := { e := e }
      let c1 := { c with
                  isOpen := true
                  eps := (c.eps.filter fun y => e ≤ y.e + 3) ++ [x]
                  books := smFilter c.books fun k _ => e ≤ k + 3
                  ss := c.ss.filter fun q => q.1 % 2 != e % 2
                  ovf := c.ovf.filter fun q => q % 2 != e % 2 }
      drainTry (sootEp (setCtx s k c1) k 1 0 x) k

/-! ### Release of update firings (R131, R155 to R159, R402, R410) -/

/-- A field of the parameter block as a number, from its two granules (R157). -/
def pbF (pb : List Datum) (o : Nat) : W32 := BitVec.ofNat 32 (leAt (gransBytes pb 0 64) (o - 0x100) 4)

/-- An exact real result as FP32; a zero is +0 (R158). -/
def realF32 (v : FV) : W32 :=
  match v with
  | .fin _ 0 _ => 0
  | v => BitVec.ofNat 32 (encodeF fp32 .rne false v).1

/-- a − b, for exact reals. -/
def fvSub (a b : FV) : FV := (fvAdd .rne a (fvNeg b)).1
def fvOne : FV := .fin false 1 1
/-- v^t for an exact real. -/
def fvPow (v : FV) (t : Nat) : FV :=
  match v with
  | .fin s n d => .fin (s && t % 2 == 1) (n ^ t) (d ^ t)
  | v => v

/-- x × √a / b for exact reals, with the sign of x / b; NaN where there is no value (R158). -/
def fvRootRatio (x a b : FV) : FV :=
  match x, a, b with
  | .fin sx nx dx, .fin sa na da, .fin sb nb db =>
    if nb = 0 ∨ (sa ∧ na ≠ 0) then .nan
    else if nx = 0 ∨ na = 0 then fvZero false
    else
      let q := sqrtQ (nx * nx * na * (db * db)) (dx * dx * da * (nb * nb))
      .fin (sx != sb) q.1 q.2
  | _, _, _ => .nan

/-- An expression that uses a non-finite field has no value (R158). -/
def fvGuard (fs : List FV) (v : FV) : FV := if fs.any notFinite then .nan else v

/-- K0 to K9 (R158), from the parameter block. -/
def derivedK (pb : List Datum) : List W32 :=
  let lr := f32 (pbF pb 0x100)
  let b1 := f32 (pbF pb 0x104)
  let b2 := f32 (pbF pb 0x108)
  let ep := f32 (pbF pb 0x10C)
  let la := f32 (pbF pb 0x110)
  let ta := f32 (pbF pb 0x114)
  let t := max (pbF pb 0x118).toNat 1
  let bias := bitAt (pbF pb 0x11C).toNat 0
  let rows := (pbF pb 0x120).toNat
  let cols := (pbF pb 0x124).toNat
  let a := fvSub fvOne (fvPow b2 t)
  let alpha := if bias then fvGuard [lr, b1, b2] (fvRootRatio lr a (fvSub fvOne (fvPow b1 t))) else fvGuard [lr] lr
  let eps := if bias then fvGuard [ep, b2] (fvRootRatio ep a fvOne) else fvGuard [ep] ep
  let ratio (n : Nat) : FV := if n = 0 then .nan else (fvDiv (fvSub fvOne b2) (.fin false n 1)).1
  [fvGuard [b1] (fvSub fvOne b1), fvGuard [b2] (fvSub fvOne b2), alpha, fvNeg alpha, eps,
   fvGuard [lr, la] (fvSub fvOne (fvMul lr la).1), fvGuard [lr] (fvNeg lr), fvGuard [ta] (fvSub fvOne ta),
   fvGuard [b2] (ratio cols), fvGuard [b2] (ratio rows)].map realF32

/-- Bytes 0x000 to 0x3FF of an update firing's segment, as 32 granules (R155 to R159): the epoch, the multiplier, clip
factor and loss scale, the phase number, and the eight granules of the parameter block. -/
def updateSeg (e : Nat) (mul cf scale : W32) (phase : Nat) (pb : List Datum) : List Datum :=
  let hdr : Datum := ⟨bytesGran (leBytes 4 e ++ leBytes 4 mul.toNat ++ leBytes 4 cf.toNat ++ leBytes 4 scale.toNat
    ++ leBytes 4 (e % 256) ++ leBytes 4 phase), false⟩
  let z : Datum := ⟨0, false⟩
  let p0 := (pb.getD 0 z).poison
  let p1 := (pb.getD 1 z).poison
  let ks := derivedK pb
  let k0 : Datum := ⟨if p0 then 0 else bytesGran ((ks.take 8).flatMap fun k => leBytes 4 k.toNat), p0⟩
  let k1 : Datum := ⟨if p0 || p1 then 0 else bytesGran ((ks.drop 8).flatMap fun k => leBytes 4 k.toNat), p0 || p1⟩
  [hdr] ++ List.replicate 7 z ++ ((List.range 8).map fun i => pb.getD i z) ++ [k0, k1] ++ List.replicate 6 z
    ++ List.replicate 8 z

/-- Two operands touch a common granule of a slice. -/
def opOverlap (f g : FireF) (j k : Nat) : Bool :=
  let a := opWord f j
  let b := opWord g k
  b.used && a.rgn == b.rgn && a.d < b.d + storageBytes b.type g.nPer && b.d < a.d + storageBytes a.type f.nPer

/-- An update firing's pick matches the owner record and taps the gradient operand (R398, R399). -/
def mirrorMatch (t : Twin) (x : Firing) : Bool :=
  x.f.prog == t.prog && x.f.c1 - x.f.c0 == t.c1 - t.c0 && x.f.r1 - x.f.r0 == t.r1 - t.r0 && x.f.origin == t.origin
  && x.f.nPer == t.nPer && (List.range 8).all (fun i =>
      let a := opWord x.f i
      let b := t.ops.getD i {}
      (if a.used then a.type else 255) == (if b.used then b.type else 255))
  && x.f.tapTwin && x.f.opTwin == 1

/-- A firing is a statistics phase, and an apply phase, of a two-phase rule (R156, R170, R171). -/
def isStats (x : Firing) : Bool := x.code.phases == 2 && x.code.phase == 0
def isApply (x : Firing) : Bool := x.code.phases == 2 && x.code.phase == 1

/-- Two firings are the phases of one update: they work on the same parameters of the same hobs (R170, R171; the pairing is the
model's, DEDUCED, log entry 16). -/
def samePhases (f g : FireF) : Bool :=
  f.c0 == g.c0 && f.c1 == g.c1 && f.r0 == g.r0 && f.r1 == g.r1 && f.origin == g.origin && f.nPer == g.nPer

/-- Whether anything but the decision holds the release of an update firing back (R171, R391, R402, R410, R416). -/
def releaseHeld (s : State) (x : Firing) (ep : Epoch) : Bool :=
  let e := x.f.epoch
  (isApply x && !(ep.stats.any fun f => samePhases f x.f))
  || (match ownerRec s x.f.ctx with
      | none => false
      | some (_, t) =>
        t.st == .diverged || t.st == .resync || (t.st == .degraded && t.hold)
        || (t.st == .inStep && t.own.any fun d => d.epoch + 2 == e))
  || (smksOf s x.f.ctx).any (fun q => (smkOf s q).snap != 0 && (smkOf s q).snapEpoch < e)
  || (fansOf s x.f.ctx).any (fun q =>
      let f := fanOf s q
      (f.ph == .holding || f.ph == .reading) && f.epoch != e
        && (List.range 8).any fun k => opOverlap f.fire x.f f.fire.opFan k)

/-- An entry of the audit part of the twin log. -/
abbrev AuditEnt := Nat × Nat × List Datum × Option Digest × Option Digest

/-- Without the first `n` entries of record `k`. -/
def auditDrop (k : Nat) : List AuditEnt → Nat → List AuditEnt
  | [], _ => []
  | l, 0 => l
  | a :: l, n + 1 => if a.1 == k then auditDrop k l n else a :: auditDrop k l (n + 1)

/-- The twin log keeps the header data and both digests of the last 1,024 mirrored epochs of each owner record (R403). -/
def auditAdd (l : List AuditEnt) (k e : Nat) (seg : List Datum) : List AuditEnt :=
  auditDrop k l ((l.filter fun a => a.1 == k).length + 1 - 1024) ++ [(k, e, seg, none, none)]

/-- Release a held update firing (R131, R159, R399, R401). -/
def releaseOne (s : State) (n : Nat) (x : Firing) (ep : Epoch) : State :=
  let rd := engFetch s (some x.part) x.cls (x.f.bsrc + 0x100) 0x100
  let seg := updateSeg x.f.epoch ep.mul ep.cf (f32Pow ep.scale) (if x.code.phases = 2 then x.code.phase else 0) rd.1
  let rec? := ownerRec s x.f.ctx
  let inStep := match rec? with
    | some r => r.2.st == .inStep && r.2.next ≤ x.f.epoch
    | none => false
  let k := match rec? with
    | some r => r.1
    | none => 0
  let good := match rec? with
    | some r => inStep && mirrorMatch r.2 x
    | none => false
  let x1 := { x with
              seg := seg
              mirror := if good then some k else none
              diverge := if inStep && !good then some k else none }
  let s1 := setFirSt (setFiring rd.2 n x1) n .queued
  let s2 := modCtx s1 x.f.ctx fun c => modEp c x.f.epoch fun e => { e with released := e.released ++ [n] }
  match rec? with
  | none => s2
  | some (k, t) =>
    if good then
      let s3 := twinSend s2 k 0xD0 [(128, 32, x.f.epoch), (168, 3, 1), (176, 32, (tapSlice x.f x.f.opTwin + 31) / 32)] seg 32
      modStr (setTwin s3 k { t with lastHdr := x.f.epoch, since := true }) fun u =>
        { u with
          audit := auditAdd u.audit k x.f.epoch seg }
    else if t.st = .degraded then setTwin s2 k { t with unverified := t.unverified + 1 }
    else s2

/-- Release every held update firing of the context that nothing holds back; an ember one that is runnable then preempts the
running firing (R137). -/
def releaseTry (s : State) (k : Nat) : State :=
  preemptCheck <| s.fir.all.foldl (fun t kv =>
    let x := firingOf t kv.1
    if x.st = .held ∧ x.f.update ∧ x.f.ctx = k ∧ x.replay = none then
      match epOf (ctxOf t k) x.f.epoch with
      | some ep => if ep.st = .updating ∧ !(releaseHeld t x ep) then releaseOne t kv.1 x ep else t
      | none => t
    else t) s

/-! ### Decision (R205 to R211) -/

/-- Norm slots that a context holds for an epoch. -/
def heldFor (c : StepCtx) (e : Nat) : List NormSlot := c.slots.filter fun m => m.epoch == e

/-- The partial of owner `i`, if it is held. -/
def partialOf (c : StepCtx) (x : Epoch) (i : Nat) : Option W64 :=
  if i = c.own then some x.part else ((heldFor c x.e).find? fun m => m.idx == i).map (·.part)

/-- Global total over the partials held, a missing one taken as +0 (R206, R211). -/
def normTotal (c : StepCtx) (x : Epoch) : W64 :=
  (List.range c.n).foldl (fun t i => f64Add t ((partialOf c x i).getD 0)) 0

/-- The decision that the rows of R205 fix, if one is fixed. -/
def decideRow (c : StepCtx) (x : Epoch) : Option Nat :=
  let held := 1 + (heldFor c x.e).length
  if x.ovf || (heldFor c x.e).any (·.ovf) then some 2
  else if held = c.n then some 1
  else if x.timedOut then (if c.q ≤ held then some 1 else some 3)
  else none

/-- The clip factor (R206). -/
def clipFactor (c : StepCtx) (scale : Nat) (tot : W64) : W32 :=
  let se := f64Enc (mkFin false 1 scale)
  let nrm := f64Sqrt (f64Div tot (f64Mul se se))
  let cl := f64OfF32 c.clip
  if c.clip = 0x7F800000 ∨ !(fvLt (f64 cl) (f64 nrm)) ∧ f64 nrm ≠ .nan then 0x3F800000
  else f32OfF64 (f64Div cl nrm)

/-- The loss scale and clean-epoch counter after a decision (R207). -/
def nextScale (c : StepCtx) (dec : Nat) : Nat × Nat :=
  if !c.dynamic then (c.scaleNext, c.clean)
  else if dec = 1 then
    (if c.clean + 1 = c.g then (min (c.scaleNext + 1) c.sMax, 0) else (c.scaleNext, c.clean + 1))
  else if dec = 2 then (max (c.scaleNext - 1) c.sMin, 0)
  else (c.scaleNext, c.clean)

/-- The 64 bytes of a step record (R211). -/
def stepRecord (k : Nat) (c : StepCtx) (x prev : Epoch) (dec : Nat) (tot : W64) (cf : W32) (sNext : Nat) : List Byte :=
  let missing := (List.range c.n).find? fun i => (partialOf c x i).isNone
  leBytes 4 x.e ++ leBytes 1 x.cause ++ leBytes 1 dec ++ leBytes 2 k ++ leBytes 2 x.fences.length ++ leBytes 2 c.expect
    ++ leBytes 2 (1 + (heldFor c x.e).length) ++ leBytes 2 (missing.getD 0xFFFF) ++ leBytes 8 tot.toNat
    ++ leBytes 4 cf.toNat ++ leBytes 4 (f32Pow c.scaleNext).toNat ++ leBytes 4 (f32Pow sNext).toNat
    ++ leBytes 4 prev.stored ++ leBytes 4 prev.dropped ++ leBytes 2 x.drained.length ++ leBytes 2 x.ovfHobs
    ++ leBytes 4 x.fails ++ leBytes 4 0 ++ leBytes 8 x.gtc

/-- A firing names a region as an operand (R58). -/
def firingNames (f : FireF) (rgn : Nat) : Bool := f.ops.any fun o => o.used && o.rgn == rgn

/-- Some firing admitted, running or suspended names the region (R58). -/
def rgnInUse (s : State) (rgn : Nat) : Bool := s.fir.all.any fun kv => firingNames kv.2.f rgn

/-- A region takes a mode and its pick completes (R58). -/
def modeSet (s : State) (rgn : Nat) (banked : Bool) : State :=
  match rgnAt s rgn with
  | none => s
  | some r =>
    let s1 := modRgn s rgn fun g => { g with banked := banked, st := .idle, pick := none, drain := [] }
    match r.pick with
    | some n => pickDone s1 n stDone 0 []
    | none => s1

/-- Open the regions whose last firing has ended (R58 Awaiting firings). -/
def modeFirings (s : State) : State :=
  s.regions.foldl (fun t kv => if kv.2.st = .awaitFirings ∧ !(rgnInUse t kv.1) then modeSet t kv.1 false else t) s

/-- Complete the held update firings of a skipped epoch with SKIPPED (R131, R196). -/
def skipFirings (s : State) (k e : Nat) : State :=
  modeFirings <| s.fir.all.foldl (fun t kv =>
    let x := firingOf t kv.1
    if x.st = .held ∧ x.f.update ∧ x.f.ctx = k ∧ x.f.epoch = e ∧ x.replay = none then
      let t1 := match x.pick with
        | some n => pickDone t n stSkipped 0 (fireResult x false)
        | none => t
      let t2 := sootFiring t1 x.part x.cls x.spool x.seq x.f.prog 9 stSkipped e
      modFir t2 fun f => { f with all := smDel f.all kv.1 }
    else t) s

/-- A snapshot that waits for the update of a skipped epoch ends: the epoch has no update (R196, R416). -/
def skipSnaps (s : State) (k e : Nat) : State :=
  (smksOf s k).foldl (fun t q =>
    let y := smkOf t q
    if y.snap = 1 ∧ y.snapEpoch = e then
      let u := setSmk t q { y with snap := 0, snapPick := none, snapFires := [] }
      match y.snapPick with
      | some n => pickDone u n stSkipped 0 []
      | none => u
    else t) s

/-- Take the decision `dec` for epoch `x` of context `k` (R205 to R211). -/
def decide_ (s : State) (k : Nat) (c : StepCtx) (x : Epoch) (dec : Nat) : State :=
  let tot := normTotal c x
  let cf := if dec = 1 then clipFactor c c.scaleNext tot else 0
  let mul := f32Mul cf (f32Pow (-(c.scaleNext : Int)))
  let ns := nextScale c dec
  let prev := (if x.e = 0 then none else epOf c (x.e - 1)).getD { e := x.e - 1 }
  let bs := stepRecord k c x prev dec tot cf ns.1
  let s1 := engStore s 1 (c.ring + 64 * (c.recs % 2 ^ c.ringLog)) bs
  let x1 := { x with
              st := if dec = 1 then .updating else .done
              decision := dec
              cf := cf
              mul := mul
              scale := c.scaleNext }
  let c1 := setEp
    { c with
      recs := c.recs + 1
      last := x.e
      dec := x.e + 1
      heard := c.own :: (heldFor c x.e).map (·.idx)
      slots := c.slots.filter fun m => m.epoch != x.e
      scaleNext := ns.1
      clean := ns.2 } x1
  let s2 := sootEp (setCtx s1 k c1) k 3 dec x1
  let s3 := if dec = 1 then releaseTry s2 k
    else
      let a := partAlert (skipSnaps (skipFirings s2 k x.e) k x.e) c.owner 4
      let b := (smksOf a k).foldl (fun t q =>
        let y := smkOf t q
        if smkExports y c.first x.e ∧ !y.active then
          smkEnd (setSmk t q { y with active := true, epoch := x.e, gap := true, sent := 0,
                                      sinks := y.sinks.map fun d => { d with inEpoch := true } }) q true
        else t) a
      match ownerRec b k with
      | some (r, t) =>
        if t.st = .inStep ∧ t.next ≤ x.e then
          twinSend (setTwin b r { t with lastHdr := x.e, since := true }) r 0xD0 [(128, 32, x.e), (168, 3, dec)] [] 0
        else b
      | none => b
  drainTry (openTry s3 k) k

/-- Take every decision that is fixed, in the order of the epochs (R205). -/
def decideTry (s : State) (k : Nat) : Nat → State
  | 0 => s
  | fuel + 1 =>
    match smFind s.stp.ctxs k with
    | none => s
    | some c => match epOf c c.dec with
      | none => s
      | some x =>
        if x.st ≠ .deciding then s
        else match decideRow c x with
          | none => s
          | some d => decideTry (decide_ s k c x d) k fuel

/-- A NORM message arrives (R204, R387). -/
def normArrive (s : State) (group n e idx : Nat) (ovf : Bool) (part : W64) : State :=
  match s.stp.ctxs.find? fun kv => kv.2.group == group && kv.2.n == n with
  | none => modStp s fun t => { t with stray := t.stray + 1 }
  | some (k, c) =>
    if idx = c.own ∨ c.n ≤ idx ∨ (e ≠ c.dec ∧ e ≠ c.dec + 1) ∨ (heldFor c e).any (fun m => m.idx == idx) then
      setCtx s k { c with discard := c.discard + 1 }
    else decideTry (setCtx s k { c with slots := c.slots ++ [{ epoch := e, idx := idx, ovf := ovf, part := part }] }) k 3

/-- An update firing of an epoch has committed, with any status (R140, R171, R196); `stat` a statistics phase that committed
with DONE or HOB_FAULT. -/
def updateCommitted (s : State) (k e : Nat) (stat : Option FireF) : State :=
  let s1 := modCtx s k fun c => modEp c e fun x =>
    { x with
      upd := x.upd + 1
      stats := x.stats ++ stat.toList
      st := if x.st = .updating ∧ c.u ≤ x.upd + 1 then .done else x.st }
  releaseTry (drainTry (openTry s1 k) k) k

/-! ### Ash bin (R199 to R202) -/

/-- Drop and free a contributor's records of an epoch (R193, R199). -/
def ashDrop (c : StepCtx) (contrib e extra : Nat) : StepCtx :=
  let held := (c.ash.filter fun r => r.contrib == contrib && r.epoch == e).length
  let gone := held + extra
  modBook (modEp { c with
          ash := c.ash.filter fun r => !(r.contrib == contrib && r.epoch == e)
          dropped := c.dropped + gone } e fun x => { x with dropped := x.dropped + gone }) e
    fun k => { k with gone := k.gone + held }

/-- The three granules of an ash record (R200). -/
def ashGrans (e contrib fmt rtag addr : Nat) (data : List Datum) : List Datum :=
  let p (i : Nat) : Nat := b2n ((data[i]?.map (·.poison)).getD false)
  ⟨bytesGran (leBytes 4 e ++ leBytes 2 (contrib % 4096 + fmt % 4 * 4096 + p 0 * 16384 + p 1 * 32768) ++ leBytes 2 rtag
    ++ leBytes 8 addr), false⟩ :: (List.range 2).map fun i => data.getD i ⟨0, false⟩

/-- Offset of an ash record in the reserved area: 96 bytes each (R51, R200). -/
def ashOff (s : State) (slot : Nat) : Nat := resAsh s + 96 * slot

/-- The lowest slot of the ash bin that no context holds; none where the area is full (R199). -/
def ashFree (s : State) : Option Nat :=
  let used := s.stp.ctxs.flatMap fun kv => kv.2.ash.map (·.slot)
  (List.range (min (used.length + 1) (s.boot.cfg.ashBytes / 96))).find? fun n => !(used.contains n)

/-- A fence of the contributor for epoch `e` has come (R193, R201). -/
def fenceCame (c : StepCtx) (contrib e : Nat) : Bool :=
  match epOf c e with
  | some x => x.fences.contains contrib || x.late.contains contrib
  | none => false

/-- An ACCW of a closed epoch enters context `k`'s ash bin (R199): a record of it is stored in the ash-bin area, whose writes are
charged and not held; a full area counts as a full quota (DESIGN CHOICE, log entry 17). A record whose fence has come drains as
soon as the other moments of R201 have passed. -/
def ashEnter (s : State) (k : Nat) (c : StepCtx) (e contrib fmt rtag addr : Nat) (data : List Datum) : State :=
  let last := c.isOpen && e + 1 == c.openEpoch && c.first ≤ e
  if !last || !c.ashAdd || c.dropLater.contains (contrib, e) then
    setCtx s k (modEp { c with dropped := c.dropped + 1 } e fun x => { x with dropped := x.dropped + 1 })
  else match (if c.quota ≤ c.ash.length then none else ashFree s) with
    | none =>
      let c1 := ashDrop c contrib e 1
      setCtx s k { c1 with dropLater := c1.dropLater ++ [(contrib, e)] }
    | some n =>
      let c1 := modEp { c with ash := c.ash ++ [⟨n, e, contrib⟩] } e fun x => { x with stored := x.stored + 1 }
      let c2 := if fenceCame c contrib e && !(c.drainWait.contains (contrib, e)) then
          { c1 with drainWait := c1.drainWait ++ [(contrib, e)] } else c1
      drainTry (setCtx (spendAlways (resWriteN s (ashOff s n) (ashGrans e contrib fmt rtag addr data)) (3 * eWr s)) k c2) k

/-- What the drain reads of a record: address, format, rounding tag and payload; none where its header granule is lost, which
drops the record (R200, R312). -/
def ashRead (ds : List (WarpRes × Datum)) : Option (Nat × Nat × Nat × List Datum) :=
  match ds with
  | [(_, h), (_, a), (_, b)] =>
    if h.poison then none
    else
      let v := h.bits.toNat
      some (bitsAt v 64 48, bitsAt v 44 2, bitsAt v 48 16,
        [{ a with poison := a.poison || bitAt v 46 }, { b with poison := b.poison || bitAt v 47 }])
  | _ => none

/-- The place of an ACCW: its address must lie in the even half of an accumulator region, in the FP16 slots of a whole unit,
at the alignment of its payload (R185). Die, position, offset in the slice's even half. -/
def accPlace (s : State) (r : Region) (addr fmt : Nat) : Option Place :=
  let pl := rgnPlace s r (addr - r.base)
  let off := pl.loc - r.first * unitBytes
  let half := sliceBytes r / 2
  let w := off % 2080
  if r.kind = .bankLocal ∧ r.acc ∧ (off / 2080 + 1) * 2080 ≤ half ∧ w < 2048
      ∧ w % (if fmt = 2 then 32 else 64) = 0 then some pl else none

/-- Rank of a place in the region's rectangle (R50, R186). -/
def accRank (r : Region) (pl : Place) : Nat := (pl.die - r.r0) * (r.c1 + 1 - r.c0) + (pl.pos - r.c0)

/-- The accepted form of an ACCW to region `rgn` of context `k` (R186, R201, R242). -/
def mkAcc (s : State) (k rgn : Nat) (c : StepCtx) (r : Region) (pl : Place) (e fmt contrib rtag : Nat) (data : List Datum)
    (w : W32) (stream : Nat) (from_ : Option (Bool × Nat × BitVec 256)) (chan part : Nat) : AccReq :=
  let q := (c.rgns.find? fun x => x.rgn == rgn).getD ⟨rgn, 0, 0⟩
  { ctx := k, epoch := e, rgn := rgn, die := pl.die, pos := pl.pos, loc := pl.loc + e % 2 * (sliceBytes r / 2), fmt := fmt,
    contrib := contrib, rtag := rtag, data := data, pbase := q.origin + accRank r pl * q.nPer, key := partKey s part, w := w,
    stream := stream, from_ := from_, chan := chan, part := part }

/-! ### The weft bus (R34, R79) -/

/-- An epoch of the context is closed and its last accepted ACCW applied: its sums are being collected (R196, R198). -/
def collecting (s : State) (kv : Nat × StepCtx) : Bool :=
  kv.2.eps.any fun x => x.st == .closed && !(s.stp.acc.any fun a => a.2.ctx == kv.1 && a.2.epoch == x.e)

/-- A die holds hobs of the firing. -/
def dieOf (f : FireF) (die : Nat) : Bool := f.r0 ≤ die && die ≤ f.r1

/-- No user of a rank before `rank` holds the weft bus of a die: 0 context save and restore, 1 broadcast, 2 collection, 3 register
access, 4 test patterns (R34, R79). -/
def weftFree (s : State) (die rank : Nat) : Bool :=
  (match curFiring s with
    | some (_, x) => !(dieOf x.f die) || !((0 < rank && (x.st == .saving || x.st == .restoring)) || (1 < rank && x.st == .launching))
    | none => true)
  && (rank ≤ 2 || !(s.stp.ctxs.any fun kv => collecting s kv && (ctxHobs s kv.2).any fun n => n / 32 == die))
  && (rank ≤ 3 || !(s.ports.waitQ.any fun kv => kv.2.any fun w => w.why == .weft))

/-- The register at a window offset is a hob's, read over the weft bus of its die: every hob register but HOB_ID (R606). -/
def onWeft (off : Nat) : Bool := 0x110000 ≤ off && off < 0x118000 && 8 ≤ off % 64

/-- Die of the hob register at a window offset (R605). -/
def weftDie (off : Nat) : Nat := (off - 0x110000) / 64 / 32

/-- The register access of a requester is over: its unit on the weft bus is accepted or given up (R306). -/
def weftOver (s : State) (rq : Requester) : State :=
  let mine : TsvUnit → Bool
    | .register q _ => q == rq
    | _ => false
  modSched (modFir s fun f => { f with weftLost := f.weftLost.filter (· != rqKey rq) }) fun c =>
    { c with dies := smMap c.dies fun _ d => { d with naks := d.naks.filter fun e => !(mine e.1) } }

/-- A requester's access exhausted its retries on the weft bus, and completes with an error (R306). -/
def weftFailed (s : State) (rq : Requester) (off : Nat) : Bool := onWeft off && s.fir.weftLost.contains (rqKey rq)

/-- Status of that error completion: one that a port has, and not OK; which, R357 does not say (DESIGN CHOICE, log entry 28: a free
value). -/
def weftStatus : Nat := 1 + Config.openCode 10 0 % 9

end Sys2Proof.Machine
end

