-- ==== Sys2Proof/Machine/FireEnd.lean ====
section
/-! DEFINITION. The twin's digest of a firing, and the end of a firing before its commit (R131, R140, R143, R144, R400, R407,
R459). -/

namespace Sys2Proof.Machine

/-! ### The twin's digest of a firing (R400, R407, R408) -/

/-- The digest slot's contents of a firing that ends with a status (R400). -/
def firingDigest (x : Firing) (status count : Nat) : Digest :=
  { epoch := x.f.epoch
    status := status
    digest := x.ended.foldl (fun d h => d + h.2.2.2.1) 0
    stored := x.ended.foldl (fun n h => n + h.2.2.2.2) 0
    count := count
    bad := (rectHobs x.f).length - (x.ended.filter fun h => h.2.1 == hobDone).length }

/-- Send and keep a side's digest, and compare if both are held (R401, R408); a replay counts the granules it received
(R400). -/
def digestSend (s : State) (r : Nat) (d : Digest) : State :=
  let t := twinOf s r
  let d := if t.replay then { d with count := (t.recv.filter fun q => q.1 == d.epoch).length } else d
  let s1 := twinSend s r 0xD2 [(128, 32, d.epoch), (168, 1, b2n t.replay), (169, 3, d.status)] [digestSlot d] 32
  let s2 := setTwin s1 r
    { t with
      own := (t.own.filter fun y => y.epoch != d.epoch) ++ [d]
      recv := t.recv.filter fun q => q.1 != d.epoch }
  if d.status = 2 then twinDiverge s2 r d.epoch else twinCompare s2 r d.epoch

/-- The record that mirrors a firing or that it replays. -/
def firingRec (x : Firing) : Option Nat :=
  match x.replay with
  | some r => some r
  | none => x.mirror

/-! ### Ending -/

/-- Hob time of `ns` nanoseconds of a firing is charged and posted (R452, R459). -/
def postHobTime (s : State) (n ns : Nat) : State :=
  let x := firingOf s n
  let q := (rectHobs x.f).length * ns
  charge (modFiring s n fun y => { y with hobTime := y.hobTime + q }) (x.payer.getD x.part) .hob q

/-- The firing has its start or restore strobe behind it and holds the hobs: its hob time runs (R459). -/
def hobsRun (x : Firing) : Bool := x.st == .running || x.st == .stopping || x.st == .saving || x.st == .ending

/-- The hob time since the last 1 µs boundary of a firing that leaves the hobs by a command which does not carry it is posted: a
free value below 1,000 ns (R459; log entry 22). -/
def postRest (s : State) (n : Nat) : State :=
  if hobsRun (firingOf s n) then
    let f := takeFree s
    postHobTime f.2 n (f.1.toNat % 1000)
  else s

/-- Note the sticky flags of the hobs of a firing that are halted before their end: from their tiles while it holds the hobs, from
its context slot while it is suspended (R108, R143, R144). -/
def noteHalted (s : State) (n : Nat) : State :=
  let x := firingOf s n
  let hs := if hobsRun x then ((rectHobs x.f).filter fun m => !(x.ended.any fun e => e.1 == m)).map fun m => (hobOf s m).sticky
    else x.saved.map fun e => (ctxView s x e).sticky
  setFiring s n { x with halted := hs.foldl (· ||| ·) x.halted }

/-- The firing leaves the hobs: those of its rectangle are idle, loads not landed are dropped, and its requests still in the
pairs' queues are completed (stores issued are made, R144). -/
def clearHobs (s : State) (x : Firing) : State :=
  let hs := rectHobs x.f
  let s1 := modFir s fun f =>
    { f with
      hobs := f.hobs.map fun kv => if hs.contains kv.1 then (kv.1, { kv.2 with st := .idle }) else kv
      cur := none }
  modSched s1 fun c => { c with landing := c.landing.filter fun l => !(hs.contains l.1) }

/-- Carry out at once every request of a hob that its pair still queues, or that waits at the port (R134, R144: column requests in
flight complete), each after what it may not pass (R326). -/
def drainHob (s : State) (n fuel : Nat) : State :=
  let ws := s.sched.portWait.filter fun w => colOfHob n w.2
  let s1 := modSched s fun c => { c with portWait := c.portWait.filter fun w => !(colOfHob n w.2) }
  let p := pairAt s1 (n / 32) (n % 32)
  let s2 := setPair s1 (n / 32) (n % 32) { p with q := p.q ++ ws.map (·.2) }
  drainPair s2 (n / 32) (n % 32) (colOfHob n) (p.q.length + fuel)

/-- Complete the column requests in flight of every hob of a firing. -/
def drainFiring (s : State) (x : Firing) : State := (rectHobs x.f).foldl (fun t n => drainHob t n 16) s

/-- A snapshot that waits for this epoch's update may begin (R416). -/
def snapStart (s : State) (ctx e : Nat) : State :=
  if epDone (ctxOf s ctx) e then
    (smksOf s ctx).foldl (fun t q =>
      let y := smkOf t q
      if y.snap = 1 ∧ y.snapEpoch = e then smkMark (setSmk t q { y with snap := 2 }) q 3 false 0 else t) s
  else s

/-- The update firing of an epoch in UPDATING has ended, by a commit with DONE or HOB_FAULT if `ok`; a snapshot of the epoch may
begin (R171, R196, R416). -/
def updateEnded (s : State) (x : Firing) (ok : Bool) : State :=
  if x.f.update ∧ x.replay = none then
    match epOf (ctxOf s x.f.ctx) x.f.epoch with
    | some e =>
      if e.st = .updating then 
        snapStart (updateCommitted s x.f.ctx x.f.epoch (if ok && isStats x then some x.f else none)) x.f.ctx x.f.epoch
      else s
    | none => s
  else s

/-- Remove a firing that is COMPLETE, and let what waited for it go on (R58, R131). -/
def firingGone (s : State) (n : Nat) : State := modeFirings (modFir s fun f => { f with all := smDel f.all n })

/-- The completion record of a replay firing, in the replay spool (R404). -/
def replayRecord (s : State) (x : Firing) (status : Nat) (ovf : Bool) : State :=
  recWrite s x.spool (recBytes 0 x.f.epoch (splOf s x.spool).retired 1 2 status false 0 (fireResult x ovf))

/-- End a firing before its commit with a status of R143: its column requests in flight complete, the streams it feeds end
(R388, R414), its partner is told (R408), its hobs, slot and reducer context are freed, and its pick completes. -/
def firingEnd (s : State) (n status : Nat) (record : Bool) : State :=
  let held := s.fir.cur == some n
  let s0 := postRest (noteHalted s n) n
  let s1 := if held then streamPump (drainFiring s0 (firingOf s0 n)) else s0
  let x := firingOf s1 n
  let s2 := if x.launched then
      let a := if x.f.tapFan then (fansOf s1 x.f.ctx).foldl (fun t q =>
          if (fanOf t q).epoch = x.f.epoch then fanEnd t q 1 else t) s1 else s1
      if x.f.tapSmoke then (smksOf a x.f.ctx).foldl (fun t q =>
          if (smkOf t q).epoch = x.f.epoch then smkEnd t q true else t) a else a
    else s1
  let s3 := if held then modSched (clearHobs s2 x) fun c => { c with tapped := [] } else s2
  let s4 := sootFiring s3 x.part x.cls x.spool x.seq x.f.prog (firStNum .ending + 1) status x.f.epoch
  let s5 := match x.pick with
    | some k => if record then pickDone s4 k status 0 (fireResult x false) else s4
    | none => if x.fill ∨ status = stPartReset then s4 else replayRecord s4 x status false
  let s6 := match (if status = stPartReset then none else firingRec x) with
    | some r => digestSend s5 r (firingDigest x (if status = stAborted then 2 else 3) x.tapCount)
    | none => s5
  updateEnded (firingGone s6 n) x false

end Sys2Proof.Machine
end

