-- ==== Sys2Proof/Machine/FireCmds.lean ====
section
/-! DEFINITION. Meanings of the picks FIRE, REGION_MODE and REGION_INIT and of the firing events
(R56 to R62, R82 to R91, R127 to R146). -/

namespace Sys2Proof.Machine

/-! ### The FIRE pick (R127, R128, R437) -/

/-- Operand word of OBk (R437). -/
def parseOp (w : Nat) : OpWord :=
  { rgn := bitsAt w 0 13, d := bitsAt w 16 27, type := bitsAt w 48 4, used := bitAt w 63 }

/-- The fields of a FIRE pick (R437). -/
def parseFire (x : PickR) : FireF :=
  let fl := pkF x 0x12 1
  { prog := pkF x 0x10 2
    update := bitAt fl 0
    tapTwin := bitAt fl 1
    tapFan := bitAt fl 2
    tapSmoke := bitAt fl 3
    mode := pkF x 0x13 1
    c0 := pkF x 0x14 1
    c1 := pkF x 0x15 1
    r0 := pkF x 0x16 1
    r1 := pkF x 0x17 1
    epoch := pkF x 0x18 4
    nPer := pkF x 0x1C 4
    origin := pkF x 0x20 8
    bsrc := pkF x 0x28 8 % 2 ^ 48
    bsize := bitsAt (pkF x 0x28 8) 48 4
    out := pkF x 0x30 8 % 2 ^ 48
    outLen := pkF x 0x38 4
    opTwin := bitsAt (pkF x 0x3C 2) 0 3
    opFan := bitsAt (pkF x 0x3C 2) 3 3
    opSmoke := bitsAt (pkF x 0x3C 2) 6 3
    ctx := pkF x 0x3F 1
    ops := (List.range 8).map fun k => parseOp (pkF x (0x40 + 8 * k) 8) }

/-- An operand word's reserved bits are zero and its storage type is one of R149 or raw bytes. -/
def opWordOk (w : Nat) : Bool :=
  bitsAt w 13 3 == 0 && bitsAt w 43 5 == 0 && bitsAt w 52 11 == 0 && (bitsAt w 48 4 < 8 || bitsAt w 48 4 == 15)

/-- The reserved fields of a FIRE pick are zero (R436, R437). -/
def fireFieldsOk (x : PickR) : Bool :=
  pkF x 0x12 1 < 16 && pkF x 0x13 1 < 4 && pkF x 0x14 1 < 32 && pkF x 0x15 1 < 32 && pkF x 0x16 1 < 16 && pkF x 0x17 1 < 16
  && pkF x 0x28 8 / 2 ^ 52 == 0 && pkF x 0x30 8 / 2 ^ 48 == 0 && pkF x 0x3C 2 / 512 == 0 && pkF x 0x3E 1 == 0
  && (List.range 8).all fun k => opWordOk (pkF x (0x40 + 8 * k) 8)

/-- The registered program of an ID. -/
def findProg (s : State) (id : Nat) : Option Prog := s.fir.progs.find? fun p => p.id == id

/-- Check 1, FL_PROGRAM: registered, allowed for the partition, and for a library ID one of the combinations of R162. -/
def flProgram (s : State) (part id : Nat) : Bool :=
  match findProg s id with
  | none => false
  | some p =>
    (0x1000 ≤ id || libIdOk id) && (match p.owner with
      | some o => o == part
      | none => true) && (match p.parts with
      | some l => l.contains part
      | none => true)

/-- Check 2, FL_RECT (R90). -/
def flRect (s : State) (f : FireF) : Bool :=
  f.c0 ≤ f.c1 && f.r0 ≤ f.r1 && f.c1 < 32 && f.r1 < s.boot.dies && f.ops.all fun o =>
    !o.used || (match rgnAt s o.rgn with
      | none => true
      | some r => r.kind != .bankLocal || (r.c0 ≤ f.c0 && f.c1 ≤ r.c1 && r.r0 ≤ f.r0 && f.r1 ≤ r.r1))

/-- Slice or half-slice bytes of an operand's region (R89). -/
def opSpan (r : Region) : Nat := if r.acc then sliceBytes r / 2 else sliceBytes r

/-- An operand that a registration record declares: it is used, and its region has the accumulator attribute as declared
(R128, R176). -/
def declaredOk (s : State) (p : Prog) (f : FireF) (k : Nat) : Bool :=
  let d := p.ops.getD k 0
  let o := opWord f k
  !(bitAt d 7) || (o.used && match rgnAt s o.rgn with
    | none => false
    | some r => r.acc == bitAt d 4)

/-- An operand of a library program: used, in a region of the accumulator attribute and the mode that the library requires (R153, R215,
R254). -/
def libraryOk (s : State) (f : FireF) (k : Nat) : Bool :=
  match libOperand f.prog k with
  | none => true
  | some (_, acc, mode) =>
    let o := opWord f k
    o.used && match rgnAt s o.rgn with
      | none => false
      | some r => r.acc == acc && (match mode with
        | some m => r.banked == m
        | none => true)

/-- A tap names the operand that the program lets its stream tap (R161, R176): of a library program, as R161 gives it. -/
def tapsOk (p : Prog) (f : FireF) : Bool :=
  (!f.tapTwin || (bitAt p.taps 9 && bitsAt p.taps 0 3 == f.opTwin))
  && (!f.tapFan || (bitAt p.taps 10 && bitsAt p.taps 3 3 == f.opFan))
  && (!f.tapSmoke || (bitAt p.taps 11 && bitsAt p.taps 6 3 == f.opSmoke))

/-- Check 3, FL_OPERAND (R54, R89, R128, R153, R161, R176, R215, R254). -/
def flOperand (s : State) (part : Nat) (p : Prog) (f : FireF) : Bool :=
  f.ops.all (fun o => !o.used || (match rgnAt s o.rgn with
    | none => false
    | some r => r.kind == .bankLocal && r.owner == part && !r.block && !r.reassign && o.d % 32 == 0 && o.d < opSpan r))
  && (List.range 8).all (fun k => if isLibrary f then libraryOk s f k else declaredOk s p f k)
  && tapsOk p f

/-- The unit that n_per_hob of a library program is a multiple of (R150, R254). -/
def libUnit (id : Nat) : Nat :=
  if 0x1000 ≤ id ∨ id < 0x200 then 1
  else if libRule id = 10 then 8
  else if 8 ≤ libRule id then 1
  else if libTrans id then 4096
  else if libRule id = 4 then 2048
  else 1024

/-- Check 4, FL_COUNT (R149, R150). -/
def flCount (s : State) (f : FireF) : Bool :=
  let o := opWord f 0
  f.nPer % libUnit f.prog == 0 && (!o.used || (match rgnAt s o.rgn with
    | none => false
    | some r => storageBytes o.type f.nPer + o.d ≤ opSpan r))

/-- The broadcast segment's size is the registered one; of the factored apply phase it follows the columns, so that any from 8 KiB
on may be (R155, R170). -/
def bsegOk (p : Prog) (f : FireF) : Bool :=
  if isLibrary f ∧ libRule f.prog = 7 then 2 ≤ f.bsize && f.bsize ≤ 8 else f.bsize == p.bseg

/-- Check 5, FL_BROADCAST (R155). The source of a replay holds the bytes from 0x400 onward alone (R404). -/
def flBroadcast (s : State) (part : Nat) (p : Prog) (f : FireF) (replay : Bool) : Bool :=
  bsegOk p f && (f.bsize == 0 || ownedRange s part f.bsrc (4096 * f.bsize - if replay then 0x400 else 0))

/-- Output vectors of a firing (R82). -/
def redVectors (f : FireF) : Nat :=
  match f.mode with
  | 1 => f.c1 + 1 - f.c0
  | 2 => f.r1 + 1 - f.r0
  | 3 => 1
  | _ => (f.c1 + 1 - f.c0) * (f.r1 + 1 - f.r0)

/-- Check 6, FL_REDUCE (R86). -/
def flReduce (s : State) (part : Nat) (f : FireF) : Bool :=
  let tot := f.outLen * redVectors f
  f.outLen % 32 == 0 && tot ≤ 0x200000 && (tot == 0 || ownedRange s part f.out tot)

/-- The most recently closed epoch of a context whose update is not complete (R128). -/
def latestClosed (c : StepCtx) : Option Nat :=
  (c.eps.filter fun e => (e.st == .closed || e.st == .deciding || e.st == .updating) && e.upd < c.u).foldl
    (fun b e => match b with
      | none => some e.e
      | some m => some (max m e.e)) none

/-- Check 7, FL_EPOCH: an update firing is of an update program and of the owner's context, for its latest closed epoch. -/
def flEpoch (s : State) (part : Nat) (p : Prog) (f : FireF) : Bool :=
  f.update == p.update && (!f.update || (match smFind s.stp.ctxs f.ctx with
    | none => false
    | some c => c.owner == part && latestClosed c == some f.epoch))

/-- The first launch check of R128 that a firing fails, by its code; 0 where it passes all. `epoch` is false for a replay,
which skips FL_EPOCH (R404). -/
def launchChecks (s : State) (part : Nat) (f : FireF) (epoch : Bool) : Nat :=
  if !(flProgram s part f.prog) then 1
  else
    let p := (findProg s f.prog).getD {}
    if !(flRect s f) then 2
    else if !(flOperand s part p f) then 3
    else if !(flCount s f) then 4
    else if !(flBroadcast s part p f !epoch) then 5
    else if !(flReduce s part f) then 6
    else if epoch && !(flEpoch s part p f) then 7
    else 0

/-- Admit a firing (R131): its number and the state. -/
def admitFiring (s : State) (x : Firing) : Nat × State :=
  let n := s.fir.next
  (n, setFirSt (modFir s fun f => { f with all := smSet f.all n x, next := n + 1 }) n x.st)

/-- FIRE: the launch checks are made when the pick is fetched, whatever its ORDER (R128, R131, R436). -/
def fireEff (s : State) (n : Nat) : State :=
  match pickOf s n with
  | none => s
  | some x =>
    if x.opc ≠ 1 ∨ x.st ≠ .fetched then s
    else
      let s1 := setPick s n { x with st := .started }
      let f := parseFire x
      if !(fireFieldsOk x) then pickDone s1 n stBadField 0 []
      else
        let c := launchChecks s1 x.part f true
        if c ≠ 0 then
          pickDone (sootFiring s1 x.part x.cls x.spool x.seq f.prog 9 stLaunchRejected f.epoch) n stLaunchRejected c
            (fireResult { f := f } false)
        else
          let r := admitFiring s1
            { f := f
              pick := some n
              part := x.part
              cls := x.cls
              spool := x.spool
              seq := x.seq
              st := if f.update then .held else .queued
              code := (findProg s1 f.prog).getD {} }
          preemptCheck (if f.update then releaseTry r.2 f.ctx else r.2)

def execFire (pick : Nat) (s : State) : Host.Outcome State Fault Refusal := act s fun s => fireEff s pick

/-! ### Region modes (R56 to R58) -/

/-- Start a mode change at the fetch of its pick, from an idle region or one whose doorbell is held (R58). With ORDER the pick acts at
its start under R431, after the earlier picks (DESIGN CHOICE, log entry 39). -/
def modeStart (s : State) (n rgn : Nat) (r : Region) (toBanked : Bool) : State :=
  let upd (st : ModeSt) : State := modRgn s rgn fun g => { g with st := st, pick := some n }
  let drop : State := modRgn s rgn fun g => { g with st := .idle, drain := [] }
  match r.st with
  | .idle =>
    if r.banked = toBanked then pickDone s n stDone 0 []
    else if r.banked && rgnInUse s rgn then pickDone s n stRegionInUse 0 []
    else upd (.await toBanked)
  | .held _ =>
    if r.banked = toBanked then pickDone drop n stDone 0 []
    else if toBanked then upd .draining
    else if rgnInUse s rgn then pickDone drop n stRegionInUse 0 []
    else modeSet (upd .draining) rgn false
  | _ => pickDone s n stModeBusy 0 []

/-- REGION_MODE (R56, R58). -/
def regionModeEff (s : State) (n : Nat) : State :=
  pickStart s n 0x02 fun x s =>
    let i := pkF x 0x10 2
    let tgt := pkF x 0x12 1
    if 0x2000 ≤ i ∨ 2 ≤ tgt ∨ !(pkZero x 0x13 0x80) then pickDone s n stBadField 0 []
    else match rgnAt s i with
      | none => pickDone s n stBadField 0 []
      | some r =>
        if r.kind = .reserved ∨ r.block ∨ r.owner ≠ x.part then pickDone s n stDenied 0 []
        else if r.kind = .striped then pickDone s n stBadField 0 []
        else withCtl s [.region i] fun s => modeStart s n i r (tgt == 1)

def execRegionMode (pick : Nat) (s : State) : Host.Outcome State Fault Refusal := act s fun s => regionModeEff s pick

/-- REGION_INIT (R62). -/
def regionInitEff (s : State) (n : Nat) : State :=
  pickStart s n 0x03 fun x s =>
    let i := pkF x 0x10 2
    if 0x2000 ≤ i ∨ !(pkZero x 0x12 0x80) then pickDone s n stBadField 0 []
    else match rgnAt s i with
      | none => pickDone s n stBadField 0 []
      | some r =>
        if r.kind = .reserved ∨ r.block ∨ r.owner ≠ x.part then pickDone s n stDenied 0 []
        else pickDone (modRgn s i fun g => { g with init := true }) n stDone 0 []

def execRegionInit (pick : Nat) (s : State) : Host.Outcome State Fault Refusal := act s fun s => regionInitEff s pick

/-- Writes of an agent or peer that are accepted and not yet visible: transaction numbers (R57). -/
def writesOf (s : State) (rq : Requester) : List Nat :=
  (s.ports.txns.filter fun kv => kv.2.isWrite && (match rq with
    | .hearth _ src _ => !kv.2.flue && hSrc kv.2.hdr == src
    | .flue peer _ => kv.2.flue && (peerOf s (hSpeer kv.2.hdr)).map (·.1) == some peer
    | .mgmt => false)).map (·.1)

/-- REGION_MODE_DOORBELL: a write of `len` bytes to a region's mode doorbell (R56, R58); a 4-byte write is none (R56). -/
def modeDoorbellEff (s : State) (rq : Requester) (rgn len : Nat) : State :=
  match rqPart rq with
  | none => s
  | some p =>
    if len ≠ 8 then strayDb s p
    else match rgnAt s rgn with
      | none => strayDb s p
      | some r =>
        if r.kind ≠ .bankLocal ∨ r.owner ≠ p ∨ r.block then strayDb s p
        else
          let w := writesOf s rq
          match r.st with
          | .idle => modRgn s rgn fun g => { g with st := .held g.banked, drain := w }
          | .held _ => modRgn s rgn fun g => { g with drain := w }
          | .await true => modRgn s rgn fun g => { g with st := .draining, drain := w }
          | .await false =>
            if rgnInUse s rgn then modRgn s rgn fun g => { g with st := .awaitFirings }
            else modeSet s rgn false
          | _ => strayDb s p

def execRegionModeDoorbell (rq : Requester) (region len : Nat) (s : State) : Host.Outcome State Fault Refusal :=
  act s fun s => portAccess s rq fun t => modeDoorbellEff t rq region len

/-- MODE_TIMER_EXPIRES: T of a region ends (R58). -/
def modeTimerEff (s : State) (rgn : Nat) : State :=
  match rgnAt s rgn with
  | none => s
  | some r => match r.st with
    | .held _ => strayDb (modRgn s rgn fun g => { g with st := .idle, drain := [] }) r.owner
    | .await _ =>
      let s1 := modRgn s rgn fun g => { g with st := .idle, pick := none, drain := [] }
      match r.pick with
      | some n => pickDone s1 n stDoorbellTimeout 0 []
      | none => s1
    | _ => s

def execModeTimerExpires (region : Nat) (s : State) : Host.Outcome State Fault Refusal := act s fun s => modeTimerEff s region

/-- MODE_DRAIN_DONE: the last ordered write of a draining region is written, and the region is banked (R58). -/
def modeDrainEff (s : State) (rgn : Nat) : State :=
  match rgnAt s rgn with
  | none => s
  | some r =>
    if r.st = .draining ∧ r.drain.all (fun t => (smFind s.ports.txns t).isNone) then modeSet s rgn true else s

def execModeDrainDone (region : Nat) (s : State) : Host.Outcome State Fault Refusal := act s fun s => modeDrainEff s region

/-! ### Selection, launch, stop, save and restore -/

/-- The firing of class `c` to run next among those runnable: partitions in turn, within one the first admitted (R141). -/
def classChoice (s : State) (c : Nat) : Option Nat :=
  let xs := s.fir.all.filter fun kv => kv.2.cls == c && runnable s kv.2
  let after := match smFind s.fir.turn c with
    | none => []
    | some t => xs.filter fun kv => t < kv.2.part
  let pool := if after.isEmpty then xs else after
  let p := pool.foldl (fun m kv => min m kv.2.part) 1024
  (pool.find? fun kv => kv.2.part == p).map (·.1)

/-- The firing that the block selects when the hobs are free (R141). -/
def selectChoice (s : State) : Option Nat :=
  match classChoice s 0 with
  | some n => some n
  | none => match s.fir.all.find? fun kv => kv.2.preempted && runnable s kv.2 with
    | some kv => some kv.1
    | none => (List.range 4).findSome? (classChoice s)

/-- FIRING_SELECT: the hobs are free and the next firing is launched or restored with the program that its stored copies give; one
of which both copies fail completes with PROGRAM_ERROR, and the program is registered no more (R129, R131, R135, R141). R129 says so
of a launch; a restore does the same (DESIGN CHOICE, log entry 23). -/
def firingSelectEff (s : State) : State :=
  if s.fir.cur.isSome ∨ tilesSleep s then s
  else match selectChoice s with
    | none => s
    | some n => withCtl s [.stoker 0] fun s =>
      let x := firingOf s n
      let r := progRead s x.cls x.code
      match r.1 with
      | none => firingEnd (modFir r.2 fun f => { f with progs := f.progs.filter fun p => p.place != x.code.place }) n stProgramError true
      | some ws =>
        let y := { x with code := { x.code with code := ws }, preempted := false }
        let s1 := modFir r.2 fun f => { f with cur := some n, turn := smSet f.turn x.cls x.part }
        setFirSt (setFiring s1 n y) n (if x.st = .suspended then .restoring else .launching)

def execFiringSelect (s : State) : Host.Outcome State Fault Refusal := act s fun s => firingSelectEff s

/-- The broadcast segment as the weft bus carries it (R130, R135, R159): bytes 0x000 to 0x3FF of an update or replay firing
are those kept with it, and a fill of a re-initialisation has its pattern with it (R172, R465). -/
def broadcastSeg (s : State) (x : Firing) : List Datum × State :=
  if x.f.bsize = 0 then ([], s)
  else if x.fill then (x.seg, s)
  else if x.seg.isEmpty then
    engFetch s none x.cls x.f.bsrc (4096 * x.f.bsize)
  else
    let a := if x.replay.isSome then x.f.bsrc else x.f.bsrc + 0x400
    let n := 4096 * x.f.bsize - 0x400
    let r := engFetch s none x.cls a n
    (x.seg ++ r.1, r.2)

/-- The launch parameters of a hob (R88, R89, R91, R102). -/
def launchParams (s : State) (f : FireF) (n : Nat) : LaunchP :=
  { rank := rankOf f n
    ob := (List.range 8).map fun k => if (opWord f k).used then opBase s f k else 0
    obEnd := (List.range 8).map fun k => if (opWord f k).used then opEnd s f k else 0
    ix := f.origin + rankOf f n * f.nPer
    epoch := f.epoch
    col := n % 32
    row := n / 32
    nPer := f.nPer
    bseg := 4096 * f.bsize }

/-- The words of a segment in the hob store. -/
def segStore (seg : List Datum) : SMap Datum := (List.range seg.length).zip seg

/-- The segment as a hob receives it: a part that the weft bus could not carry is marked poison in its words (R147, R306). -/
def segBad (x : Firing) (seg : List Datum) (n : Nat) : List Datum :=
  ((List.range seg.length).zip seg).map fun e =>
    if x.badUnits.contains (n, true, e.1 / 2) then { e.2 with poison := true } else e.2

/-- Instruction words of a part that the weft bus could not carry: uncorrectable (R72, R306). -/
def imemBad (x : Firing) (n : Nat) : List Nat :=
  x.badUnits.flatMap fun u => if u.1 = n ∧ u.2.1 = false then rangeFrom (8 * u.2.2) 8 else []

/-- Load a hob at launch: registers zero, predicates one, program and segment in place (R95, R130). What the hob store holds
beyond the segment is kept. -/
def loadHob (s : State) (x : Firing) (seg : List Datum) (n : Nat) : State :=
  let h := hobOf s n
  setHob s n
    { st := if x.replay.isSome then .gated else .run
      store := segStore (segBad x seg n) ++ h.store.filter fun w => seg.length ≤ w.1
      scr := h.scr
      imem := x.code.code
      imemUe := imemBad x n
      lp := launchParams s x.f n
      ce := h.ce
      halts := h.halts
      endSt := h.endSt
      firings := h.firings }

/-- The streams of a launch begin their epoch (R388, R391, R414). -/
def streamsBegin (s : State) (x : Firing) : State :=
  let a := if x.f.tapSmoke && x.f.update then (smksOf s x.f.ctx).foldl (fun t q => smkBegin t q x.f) s else s
  if x.f.tapFan && x.f.update then (fansOf a x.f.ctx).foldl (fun t q => fanBegin t q x) a else a

/-- Halt the running or stopping firing over a tile with TEST_PREEMPTED (R131, R145, R318, R564). -/
def testHaltAt (s : State) (rule die pos : Nat) : State :=
  match curFiring s with
  | none => s
  | some (k, x) =>
    if executing x ∧ inRect x.f (die * 32 + pos) then
      report (firingEnd s k stTestPreempted true) chHob { pairEvt s 0x0203 .info rule die pos (physPair s die pos) with
        part := some x.part, detA := x.spool, detB := x.seq }
    else s

/-- A firing that reaches RUNNING over a tile whose deferral bound has passed is halted at once (R145; the bound may pass between
its selection and its strobe, DEDUCED, log entry 24). -/
def testHalt (s : State) : State :=
  match s.flt.scan with
  | some t => match t.pos with
    | some p => if t.bound ∧ t.phase ≤ 1 then testHaltAt s 145 t.die p else s
    | none => s
  | none => s

/-- LAUNCH_COMPLETE: every die has taken the launch; the start strobe (R130, R131, R242, R399, R555). -/
def launchCompleteEff (s : State) : State :=
  match curFiring s with
  | none => s
  | some (k, x) =>
    if x.st ≠ .launching then s
    else
      let r := broadcastSeg s x
      let s1 := (rectHobs x.f).foldl (fun t n => loadHob t x r.1 n) r.2
      let s2 := setFirSt (setFiring s1 k { x with key := partKey s1 x.part, launched := true, causes := [], badUnits := [] }) k .running
      let s3 := match x.diverge with
        | some t => twinDiverge s2 t x.f.epoch
        | none => s2
      preemptCheck (testStop (testHalt (brkHit (streamsBegin s3 (firingOf s3 k)) k none)))

def execLaunchComplete (s : State) : Host.Outcome State Fault Refusal := act s fun s => launchCompleteEff s

/-- HELD_STOP_SIGNAL: a hold of R137 has ended and a stop whose cause still stands is signalled. -/
def execHeldStopSignal (s : State) : Host.Outcome State Fault Refusal := act s fun s => heldStop s

/-- A hob has stopped at a checkpoint, or waits at one (R123, R406). -/
def hobStopped (h : Hob) : Bool := h.st == .stopped || h.st == .gated

/-- STOP_COMPLETE: every hob has stopped or ended; those stopped are saved into a free slot, or the stop is cancelled
(R131, R134). -/
def stopCompleteEff (s : State) : State :=
  match curFiring s with
  | none => s
  | some (k, x) =>
    let hs := rectHobs x.f
    let st := hs.filter fun n => hobStopped (hobOf s n)
    if x.st ≠ .stopping ∨ !(hs.all fun n => hobStopped (hobOf s n) || (hobOf s n).st == .ended) then s
    else if st.isEmpty then setFirSt (setFiring s k { x with causes := [], payer := none }) k .ending
    else match freeSlot s with
      | none => s
      | some q =>
        let keep (n : Nat) : Nat × CtxKeep := (n, ⟨(hobOf s n).passed, (hobOf s n).digest, (hobOf s n).stored⟩)
        setFirSt (qBump (setFiring s k { x with saved := st.map keep, slot := some q, badCtx := [] }) (qKey 10 0 0 0 0)) k .saving

def execStopComplete (s : State) : Host.Outcome State Fault Refusal := act s fun s => stopCompleteEff s

/-- The breakpoint among the causes of a stop (R555). -/
def causeBrk (cs : List StopCause) : Option Nat := cs.findSome? fun c => match c with
  | .brk b => some b
  | _ => none

/-- SAVE_COMPLETE: the last context record is written and the hobs are free; `ns` nanoseconds of hob time are not yet posted
(R131, R134, R145, R459, R555). -/
def saveCompleteEff (s : State) (ns : Nat) : State :=
  match curFiring s with
  | none => s
  | some (k, x) =>
    if x.st ≠ .saving then s
    else
      let s0 := match x.slot with
        | some q => x.saved.foldl (fun t e => ctxSave t x q e.1) s
        | none => s
      let s1 := clearHobs (postHobTime s0 k ns) x
      let b := causeBrk x.causes
      let s2 := setFirSt (modFiring s1 k fun y =>
        { y with
          preempted := y.causes.contains .ember
          testWait := y.causes.contains .test
          suspensions := y.suspensions + 1
          brkHeld := b
          causes := []
          badCtx := []
          slice := false }) k .suspended
      match b with
      | none => s2
      | some b =>
        sootBreak (modObs s2 fun o => { o with brk := smMod {} o.brk b fun r => { r with held := some k } }) b 2 (stopCkpt s x)
          x.spool x.seq x.f.epoch

def execSaveComplete (ns : Nat) (s : State) : Host.Outcome State Fault Refusal := act s fun s => saveCompleteEff s ns

/-- Restore a stopped hob: what its context record gives, `h`, with CX set, the program and the segment; its scratch is undefined, a
free value for each word (R73, R74, R135; log entry 57). -/
def restoreHob (s : State) (x : Firing) (seg : List Datum) (n : Nat) (h : Hob) : State :=
  let c := s.freeCtr
  let h1 := raise h flCX
  let now := hobOf s n
  setHob { s with freeCtr := c + 2048 } n
    { h1 with
      st := if x.replay.isSome then .gated else .run
      store := segStore (segBad x seg n)
      scr := c
      imem := x.code.code
      lp := launchParams s x.f n
      imemUe := imemBad x n
      ce := now.ce
      halts := now.halts
      endSt := now.endSt
      firings := now.firings }

/-- Restore one stopped hob from the slot `q`: whether it ends at once, and the state (R135, R136). -/
def restoreOne (s : State) (x : Firing) (seg : List Datum) (q : Nat) (e : Nat × CtxKeep) : Bool × State :=
  let r := ctxLoad s x q e.1 e.2
  (r.1.2, restoreHob r.2 x seg e.1 r.1.1)

/-- Restore the stopped hobs in turn: those that end at once, and the state. -/
def restoreAll (s : State) (x : Firing) (seg : List Datum) : List Nat × State :=
  match x.slot with
  | none => ([], s)
  | some q => x.saved.foldl (fun (a : List Nat × State) e =>
      let r := restoreOne a.2 x seg q e
      (if r.1 then a.1 ++ [e.1] else a.1, r.2)) ([], s)

/-- RESTORE_COMPLETE: every die is restored; the strobe (R131, R135). A test whose deferral bound has passed meanwhile halts the
firing (R145). -/
def restoreCompleteEff (s : State) : State :=
  match curFiring s with
  | none => s
  | some (k, x) =>
    if x.st ≠ .restoring then s
    else
      let r := broadcastSeg s x
      let q := restoreAll r.2 x r.1
      let s2 := x.ended.foldl (fun t h => setHob t h.1 { hobOf t h.1 with st := .ended }) q.2
      let y := { x with saved := [], slot := none, payer := none, causes := [], badUnits := [], badCtx := [], testWait := false }
      let s3 := setFirSt (setFiring s2 k y) k .running
      let s4 := q.1.foldl (fun t n => hobFinish t n hobStateError) s3
      preemptCheck (testStop (testHalt (brkHit s4 k none)))

def execRestoreComplete (s : State) : Host.Outcome State Fault Refusal := act s fun s => restoreCompleteEff s

/-! ### Stops by time and by test -/

/-- QUANTUM_EXPIRES: a stop is requested where another partition has a runnable firing of the same or a higher class; a new
quantum starts otherwise (R137, R142). -/
def quantumExpiresEff (s : State) : State :=
  match curFiring s with
  | none => s
  | some (k, x) =>
    if x.st ≠ .running then s
    else if s.fir.all.any fun kv => kv.2.part != x.part && kv.2.cls ≤ x.cls && runnable s kv.2 then
      requestStop (setFiring s k { x with slice := true }) .slice
    else s

def execQuantumExpires (s : State) : Host.Outcome State Fault Refusal := act s fun s => quantumExpiresEff s

/-- TEST_DEFERRAL_BOUND: the firing over the tile is halted with TEST_PREEMPTED unless it has stopped, and none over it is selected
until the test has run (R145, R564); the bound of a switchover halts the firing over its position (R318). -/
def testBoundEff (s : State) : State :=
  let sw (s : State) : State := match s.warp.migr with
    | some g => if g.switching then testHaltAt s 318 g.die g.pos else s
    | none => s
  match s.flt.scan with
  | some t =>
    if t.bound ∨ 2 ≤ t.phase then sw s
    else testHalt (modFlt s fun f => { f with scan := some { t with bound := true } })
  | none => sw s

def execTestDeferralBound (s : State) : Host.Outcome State Fault Refusal := act s fun s => testBoundEff s

/-- STOP_WATCHDOG_EXPIRES: the hobs that have not stopped are halted; the firing ends with STOP_TIMEOUT through ENDING, and a
fault record names the first of them and its last checkpoint (R131, R146, R564, R573). -/
def stopWatchdogEff (s : State) : State :=
  match curFiring s with
  | none => s
  | some (k, x) =>
    let late := (rectHobs x.f).filter fun n => (hobOf s n).st == .run
    match late with
    | [] => s
    | n :: _ =>
      if x.st ≠ .stopping then s
      else
        let s1 := drainFiring s x
        let s2 := modSched s1 fun c => { c with landing := c.landing.filter fun l => !(inRect x.f l.1) }
        let s3 := (rectHobs x.f).foldl (fun t m => setHob t m { hobOf t m with st := .ended }) s2
        let s4 := late.foldl (fun t m =>
          let q := tileKey t (m / 32) (m % 32)
          scanDueNow (modFlt t fun f =>
            { f with tiles := smMod {} f.tiles q fun y => { y with wdTotal := satAdd 32 y.wdTotal 1 } }) q) s3
        let s5 := report s4 chHob { evt s4 0x0202 .data 146 with
          part := some x.part, die := n / 32, pos := n % 32, pair := physPair s4 (n / 32) (n % 32),
          detA := (hobOf s n).ckpt, detB := x.spool }
        let st := late.foldl (fun v m => v ||| (hobOf s m).sticky) x.halted
        setFirSt (setFiring s5 k { firingOf s5 k with status := some stStopTimeout, causes := [], halted := st }) k .ending

def execStopWatchdogExpires (s : State) : Host.Outcome State Fault Refusal := act s fun s => stopWatchdogEff s

/-! ### Reduction and commit (R82 to R86, R133, R140, R632) -/

/-- The hobs whose partials an output vector sums, in groups: each group is summed, then the groups (R82, R83). -/
def redGroups (f : FireF) (v : Nat) : List (List Nat) :=
  let cols := rangeFrom f.c0 (f.c1 + 1 - f.c0)
  let rows := rangeFrom f.r0 (f.r1 + 1 - f.r0)
  match f.mode with
  | 1 => [rows.map fun r => r * 32 + f.c0 + v]
  | 2 => [cols.map fun c => (f.r0 + v) * 32 + c]
  | 3 => cols.map fun c => rows.map fun r => r * 32 + c
  | _ => [[hobAtRank f v]]

/-- Partials that a hob pushed for the group of eight elements `g`. -/
def pushedBy (x : Firing) (n g : Nat) : List Datum :=
  (x.partials.filter fun p => p.1 == rankOf x.f n && p.2.1 == g).map fun p => p.2.2

/-- The hob did not end with HOB_DONE (R133). -/
def abnormal (x : Firing) (n : Nat) : Bool := !(x.ended.any fun h => h.1 == n && h.2.1 == hobDone)

/-- Element `i` of a granule as FP32. -/
def granF32 (d : Datum) (i : Nat) : W32 := BitVec.ofNat 32 (bitsAt d.bits.toNat (32 * i) 32)

/-- One output element and whether a finite sum overflowed (R83, R84, R632). In ALL mode a column of which no hob pushed the element
is left out of the second sum (DESIGN CHOICE, log entry 31). -/
def redElem (gs : List (List Datum)) (i : Nat) : W32 × Bool :=
  let sums := (gs.filter fun g => !g.isEmpty).map fun g =>
    let xs := g.map fun d => granF32 d i
    (treeSum xs.length xs, treeOver xs.length xs)
  let ys := sums.map (·.1)
  (treeSum ys.length ys, sums.any (·.2) || treeOver ys.length ys)

/-- Output granule `g` of vector `v` (R85, R133): its datum and the overflow. -/
def redGran (x : Firing) (v g : Nat) : Datum × Bool :=
  let gs := redGroups x.f v
  let parts := gs.map fun hs => hs.flatMap fun n => pushedBy x n g
  if gs.any (fun hs => hs.any fun n => abnormal x n && (pushedBy x n g).isEmpty) || parts.any anyBad then (⟨0, true⟩, false)
  else
    let es := (List.range 8).map (redElem parts)
    (⟨packEls 0 (es.map fun e => e.1.toNat), false⟩, es.any (·.2))

/-- Every output granule, vector by vector, and the reducer-overflow bit. -/
def reduction (x : Firing) : List Datum × Bool :=
  let n := x.f.outLen / 32
  let gs := (List.range (redVectors x.f)).flatMap fun v => (List.range n).map fun g => redGran x v g
  (gs.map (·.1), gs.any (·.2))

/-- A fill firing of the library that covers every granule of its operand's region (R62, R172); one of a re-initialisation leaves the
flag to its last step (R465). -/
def fillCovers (s : State) (x : Firing) : Option Nat :=
  let o := opWord x.f 0
  if !x.fill ∧ x.f.prog < 0x100 ∧ o.used ∧ o.d = 0 then
    match rgnAt s o.rgn with
    | none => none
    | some r =>
      if !r.acc ∧ r.c0 = x.f.c0 ∧ r.c1 = x.f.c1 ∧ r.r0 = x.f.r0 ∧ r.r1 = x.f.r1
          ∧ sliceBytes r ≤ storageBytes o.type x.f.nPer then some o.rgn else none
  else none

/-- The frames of a firing's streams that the twin and smoke logs still keep (R140, R403, R415). -/
def logsHold (s : State) (x : Firing) : Bool :=
  (x.f.tapTwin && (match firingRec x with
    | some r => s.str.twinLog.any fun e => e.who == r && hdrF e.hdr 128 32 == x.f.epoch
    | none => false))
  || (x.f.tapSmoke && (smksOf s x.f.ctx).any fun q => (smkOf s q).log.any fun e => bitsAt e.hdr.toNat 64 32 == x.f.epoch)

/-- The commit conditions of R140 hold, but for the writing of the output: every hob has ended, no request of theirs waits, and the
streams have handed their last bytes to the egress queues. -/
def commitReady (s : State) (x : Firing) : Bool :=
  allEnded s x.f && (rectHobs x.f).all (fun n => hobFlight s n == 0) && s.sched.tapped.isEmpty && !(logsHold s x)

/-- The streams of a committed firing end their epoch (R388, R414). -/
def streamsEnd (s : State) (x : Firing) (status : Nat) : State :=
  let fs := if status = stDone then 0 else if status = stHobFault then 2 else 1
  let a := if x.f.tapFan then (fansOf s x.f.ctx).foldl (fun t q =>
      if (fanOf t q).epoch = x.f.epoch then fanEnd t q fs else t) s else s
  if x.f.tapSmoke then (smksOf a x.f.ctx).foldl (fun t q =>
      let y := smkOf t q
      let t1 := if y.snap = 1 ∧ y.snapEpoch = x.f.epoch then setSmk t q { y with snapFires := y.snapFires ++ [x.f] } else t
      if y.epoch = x.f.epoch then smkEnd t1 q false else t1) a else a

/-- FIRING_COMMIT: the reduction is written, and the firing commits with its status; `ns` nanoseconds of hob time are not yet
posted (R131, R140, R143, R196, R331, R400, R404, R459). -/
def firingCommitEff (s0 : State) (ns : Nat) : State :=
  let s := streamPump s0
  match curFiring s with
  | none => s0
  | some (k, x) =>
    if x.st ≠ .ending ∨ !(commitReady s x) then s0
    else
      let red := if x.f.outLen = 0 then ([], false) else reduction x
      let s1 := postHobTime (engWrite (engNow s (engWrites s x.cls x.f.out (32 * red.1.length))) x.f.out red.1) k ns
      let y := firingOf s1 k
      let status := match x.status with
        | some v => v
        | none => if (rectHobs x.f).all (fun n => !(abnormal x n)) then stDone else stHobFault
      let s2 := match fillCovers s1 x with
        | some r => if status = stDone then modRgn s1 r fun g => { g with init := true } else s1
        | none => s1
      let s3 := clearHobs (streamsEnd s2 x status) x
      let s4 := sootFiring s3 x.part x.cls x.spool x.seq x.f.prog 9 status x.f.epoch
      let s5 := match x.pick with
        | some n => pickDone s4 n status 0 (fireResult y red.2)
        | none => if x.fill then s4 else replayRecord s4 y status red.2
      let s6 := match firingRec x with
        | some r =>
          let st := if status = stDone then 0 else if status = stHobFault then 1 else 3
          digestSend s5 r (firingDigest x st x.tapCount)
        | none => s5
      updateEnded (firingGone s6 k) x (status = stDone || status = stHobFault)

def execFiringCommit (ns : Nat) (s : State) : Host.Outcome State Fault Refusal := act s fun s => firingCommitEff s ns

end Sys2Proof.Machine
end

