-- ==== Sys2Proof/Machine/FltOps.lean ====
section
/-! DEFINITION. The calendar, fault records and their bytes, the recent-record list, the commit queue and the register
ring (R482 to R484, R560 to R569). -/

namespace Sys2Proof.Machine

/-! ### Calendar (R482 to R484) -/

/-- A year, counted from 2000, is a leap year (R483). -/
def leap (y : Nat) : Bool := (y % 4 == 0 && y % 100 != 0) || y % 400 == 0

/-- Days of month `m` of year 2000 + `y` (R483). -/
def monthDays (y m : Nat) : Nat :=
  match m with
  | 2 => if leap y then 29 else 28
  | 4 => 30 | 6 => 30 | 9 => 30 | 11 => 30
  | _ => 31

/-- Days before 1 January of year 2000 + `y`. -/
def daysBefore (y : Nat) : Nat := 365 * y + (y + 3) / 4 - (y + 99) / 100 + (y + 399) / 400

/-- The year that day `d` since 2000-01-01 lies in, searching from `y`. -/
def yearOf : Nat → Nat → Nat → Nat
  | 0, y, _ => y
  | f + 1, y, d => if d < daysBefore (y + 1) then y else yearOf f (y + 1) d

/-- Month and day of a day of a year, searching from month `m`. -/
def monthOf (y : Nat) : Nat → Nat → Nat → Nat × Nat
  | 0, m, d => (m, d + 1)
  | f + 1, m, d => if d < monthDays y m then (m, d + 1) else monthOf y f (m + 1) (d - monthDays y m)

/-- A calendar instant: year − 2000, month, day, hour, minute, second, microsecond. -/
structure CalF where
  y : Nat
  mo : Nat
  d : Nat
  h : Nat
  mi : Nat
  sec : Nat
  us : Nat
deriving DecidableEq, Repr

/-- The fields of a count of microseconds since 2000-01-01 (R482). -/
def calFields (c : Nat) : CalF :=
  let day := c / 86400000000
  let r := c % 86400000000
  let y := yearOf 400 (day / 366) day
  let md := monthOf y 12 1 (day - daysBefore y)
  ⟨y, md.1, md.2, r / 3600000000, r / 60000000 % 60, r / 1000000 % 60, r % 1000000⟩

/-- The calendar's last value, 2399-12-31 23:59:59.999999 (R484). -/
def calLast : Nat := daysBefore 400 * 86400000000 - 1

/-- FB_CAL as it reads (R482); 2000-01-01 was a Saturday. -/
def calWord (c : Nat) : W64 :=
  let f := calFields c
  put 0 20 f.us ||| put 20 6 f.sec ||| put 26 6 f.mi ||| put 32 5 f.h ||| put 37 5 f.d ||| put 42 4 f.mo ||| put 46 9 f.y
    ||| put 55 3 ((c / 86400000000 + 5) % 7)

/-- The microseconds that a calendar value names, or none where R485 refuses it. -/
def calParse (w : W64) : Option Nat :=
  let us := fld w 0 20
  let sec := fld w 20 6
  let mi := fld w 26 6
  let h := fld w 32 5
  let d := fld w 37 5
  let mo := fld w 42 4
  let y := fld w 46 9
  if us < 1000000 ∧ sec < 60 ∧ mi < 60 ∧ h < 24 ∧ 1 ≤ mo ∧ mo ≤ 12 ∧ y < 400 ∧ 1 ≤ d ∧ d ≤ monthDays y mo ∧ fld w 58 6 = 0 then
    some ((daysBefore y + ((List.range (mo - 1)).map fun i => monthDays y (i + 1)).foldl (· + ·) 0 + (d - 1)) * 86400000000
      + h * 3600000000 + mi * 60000000 + sec * 1000000 + us)
  else none

/-! ### Record bytes (R561 to R563) -/

def bcd (n : Nat) : Nat := n / 10 % 10 * 16 + n % 10

/-- Number of a class in the Bremaosh section (R562). -/
def clsNum : FClass → Nat
  | .info => 0 | .corrected => 1 | .data => 2 | .block => 3 | .stack => 4

/-- CPER severity of a class (R558). -/
def severity : FClass → Nat
  | .info => 3 | .corrected => 2 | .data => 0 | .block => 1 | .stack => 1

/-- The UEFI BCD timestamp: second, minute, hour, flags, day, month, year, century (R561). -/
def calBcd (c : Nat) (valid : Bool) : List Byte :=
  let f := calFields c
  ([bcd f.sec, bcd f.mi, bcd f.h, b2n valid, bcd f.d, bcd f.mo, bcd (f.y % 100), bcd (20 + f.y / 100)] : List Nat).map
    (BitVec.ofNat 8)

/-- The bytes of GUID 5d8a2c4x-7e0b-4f93-a6d2-19c4b87e03f5 in the UEFI layout. -/
def guid (x : Nat) : List Byte :=
  ([0x40 + x, 0x2C, 0x8A, 0x5D, 0x0B, 0x7E, 0x93, 0x4F, 0xA6, 0xD2, 0x19, 0xC4, 0xB8, 0x7E, 0x03, 0xF5] : List Nat).map
    (BitVec.ofNat 8)

/-- ASCII bytes of a text. -/
def ascii (t : String) : List Byte := t.toList.map fun c => BitVec.ofNat 8 c.toNat

/-- Two decimal digits. -/
def twoDig (n : Nat) : List Byte := [BitVec.ofNat 8 (48 + n / 10 % 10), BitVec.ofNat 8 (48 + n % 10)]

/-- The event names a die. -/
def namesDie (e : FEvent) : Bool := e.die != 0xFF

/-- The Bremaosh section (R562). -/
def sectionBytes (r : FRec) : List Byte :=
  let e := r.ev
  leBytes 2 1 ++ leBytes 2 e.code ++ leBytes 1 (clsNum e.cls) ++ leBytes 1 r.rung ++ leBytes 2 r.faultCause
    ++ leBytes 4 r.alertCause ++ leBytes 2 (e.part.getD 0xFFFF) ++ leBytes 1 e.die ++ leBytes 1 e.pos ++ leBytes 1 e.pair
    ++ leBytes 1 e.module ++ leBytes 2 e.peer ++ leBytes 4 e.rule ++ leBytes 8 e.gtc ++ leBytes 8 e.addr
    ++ leBytes 4 r.suppressed ++ leBytes 4 e.detA ++ leBytes 8 e.detB

/-- The 256 bytes of a fault record (R561). -/
def recordBytes (r : FRec) : List Byte :=
  let e := r.ev
  let sev := severity e.cls
  ascii "CPER" ++ leBytes 2 0x0101 ++ leBytes 4 0xFFFFFFFF ++ leBytes 2 1 ++ leBytes 4 sev
    ++ leBytes 4 (3 + 4 * b2n e.part.isSome) ++ leBytes 4 256 ++ calBcd r.cal r.calValid
    ++ leBytes 8 Config.fusedUid.toNat ++ leBytes 8 0 ++ leBytes 16 (e.part.getD 0) ++ guid 1 ++ guid 3
    ++ leBytes 8 r.id ++ leBytes 4 0 ++ leBytes 8 r.id ++ leBytes 12 0
    ++ leBytes 4 200 ++ leBytes 4 56 ++ leBytes 2 0x0100 ++ leBytes 1 (3 * b2n (namesDie e)) ++ leBytes 5 0
    ++ guid 2 ++ (if namesDie e then leBytes 1 e.die ++ leBytes 1 e.pair ++ leBytes 14 0 else leBytes 16 0)
    ++ leBytes 4 sev
    ++ padTo 20 (if namesDie e then ascii "DSK die " ++ twoDig e.die ++ ascii " pair " ++ twoDig e.pair else [])
    ++ sectionBytes r

/-- The 32 bytes of a register ring entry (R568). -/
def ringBytes (r : FRec) : List Byte :=
  leBytes 8 r.id ++ leBytes 2 r.ev.code ++ leBytes 1 (clsNum r.ev.cls) ++ leBytes 1 r.rung ++ leBytes 2 (r.ev.part.getD 0xFFFF)
    ++ leBytes 1 r.ev.die ++ leBytes 1 r.ev.pos ++ leBytes 8 (calWord r.cal).toNat ++ leBytes 4 r.ev.rule
    ++ leBytes 4 r.suppressed

/-- The 128 bytes of a pair history entry, the pair serving logical position `pos`; 255 when none (R571). -/
def pairHistBytes (h : PairHist) (pos : Nat) : List Byte :=
  leBytes 1 (histNum h.st) ++ leBytes 1 pos ++ leBytes 2 h.hard ++ leBytes 4 h.ceTotal ++ leBytes 4 h.ueTotal ++ leBytes 4 0
    ++ ((List.range 24).flatMap fun i => leBytes 2 (smGet 0 h.hours i))
    ++ (List.range 16).flatMap fun i => leBytes 4 (h.hardList.getD i 0)

/-- The 32 bytes of a tile history entry (R571): the manual gives its contents in this order and no offsets (DESIGN CHOICE, log entry
60). -/
def tileHistBytes (t : TileHist) : List Byte :=
  leBytes 1 t.st ++ leBytes 1 t.mask ++ leBytes 2 t.halts.length ++ leBytes 4 t.haltTotal ++ leBytes 4 t.wdTotal
    ++ leBytes 4 t.ceTotal ++ leBytes 8 t.lastPass ++ leBytes 4 t.passed ++ leBytes 4 t.failed

/-- Words of a byte list: word `i`, little-endian. -/
def wordAt (bs : List Byte) (i : Nat) : W64 := BitVec.ofNat 64 (leAt bs (8 * i) 8)

/-! ### The log -/

/-- The rate window of an event: its code and its unit, which is the pair of a die, else the module, else the partition that it names
(R560, which does not say what a unit is: DESIGN CHOICE, log entry 64). -/
def rateKey (e : FEvent) : Nat :=
  e.code * 2 ^ 20 + (if namesDie e then e.die * 34 + e.pair % 64 else if e.module ≠ 0xFF then 1024 + e.module
    else match e.part with
      | some p => 4096 + p
      | none => 2048)

/-- Events that are never suppressed (R560). -/
def neverSuppressed (e : FEvent) : Bool := e.cls == .block || e.cls == .stack || e.keep

/-- Write a record's summary to the register ring (R568). -/
def ringAdd (f : Flt) (r : FRec) : Flt :=
  { f with
    ring := smSet f.ring f.ringNext r
    ringNext := if f.ringNext = 63 then 1 else f.ringNext + 1
    overwritten := f.overwritten + b2n (smFind f.ring f.ringNext).isSome }

/-- Build the record of an event and place it in the recent-record list and the queue for flash, with its FAULT soot record
(R559, R563, R565, R568). -/
def recordBuild (s : State) (e : FEvent) (rung suppressed : Nat) : State :=
  let r : FRec := { ev := e, id := s.fb.coldBoots * 2 ^ 32 + s.flt.seq, rung := rung,
                    faultCause := s.fb.faultCause ||| e.causes, alertCause := s.fb.alertCause ||| e.alerts, cal := s.fb.cal,
                    calValid := s.fb.calValid, suppressed := suppressed }
  let s1 := modFlt s fun f =>
    let g := { f with
               seq := f.seq + 1
               recent := (r :: f.recent).take 256
               newest := r.id
               commitQ := if f.commitQ.length < 256 then f.commitQ ++ [r] else f.commitQ.drop 1 ++ [r] }
    if f.fallback then ringAdd g r else g
  soot s1 5 none (payload [(0, 64, r.id), (64, 16, e.causes)])

/-- The record of an event under the rate window, `lost` events of its channel lost before it (R559, R560). -/
def logRecord (s : State) (e : FEvent) (rung lost : Nat) : State :=
  let k := rateKey e
  let w := smFind s.flt.rate k
  let open_ : Bool := match w with
    | some x => s.fb.uptime < x.start + 1000000 * regF s 0xF10020 0 12
    | none => false
  let n := match w with
    | some x => x.suppressed
    | none => 0
  if open_ ∧ !(neverSuppressed e) then
    modFlt s fun f => { f with rate := smMod ⟨s.fb.uptime, 0⟩ f.rate k fun x => { x with suppressed := x.suppressed + 1 } }
  else
    recordBuild (modFlt s fun f => { f with rate := smSet f.rate k ⟨if open_ then (w.getD ⟨0, 0⟩).start else s.fb.uptime, 0⟩ })
      e rung (n + lost)

/-- Record an event of the fireback's own, setting the causes it names (R559). -/
def fbEvent (s : State) (e : FEvent) : State := fbFault (fbAlert (logRecord s e 0 0) e.alerts) e.causes

/-- The fault log falls back to its register ring (R568): `op` and `off` the flash operation, 0 a record, 1 the history, 2 the fireback
store, and its offset; the numbers are the model's (R564; DESIGN CHOICE, log entry 58). -/
def logFallback (s : State) (op off : Nat) : State :=
  if s.flt.fallback then modFlt s fun f => { f with flash := 2, flashOk := false }
  else
    let e : FEvent := { evt s 0x0901 .info 568 with detA := op, detB := off, causes := 64, keep := true }
    let s1 := fbFault (recordBuild s e 0 0) 64
    modFlt s1 fun f =>
      { f with
        fallback := true
        flash := 2
        flashOk := false
        ring := match f.recent with
          | r :: _ => smSet f.ring 0 r
          | [] => f.ring }

/-- Program the oldest queued record into the next log slot; the sector about to be entered is erased (R566, R567). -/
def commitOne (s : State) : State :=
  match s.flt.commitQ with
  | [] => s
  | r :: q => modFlt s fun f =>
      let kept := if f.logPos % 256 = 0 then smFilter f.log fun k _ => k / 256 != f.logPos / 256 else f.log
      { f with
        commitQ := q
        log := smSet kept f.logPos ⟨r, true⟩
        logPos := (f.logPos + 1) % 60416
        committed := max f.committed r.id
        flash := 0 }

/-- Write the history and the sparing map to flash, as the copy in SRAM stands (R566, R574, R320). -/
def historyCommit (s : State) : State :=
  modWarp (modFlt s fun f =>
    { f with histDue := false, histSeq := f.histSeq + 1, histPairs := f.pairs, histTiles := f.tiles }) fun w =>
    { w with mapFlash := w.map }

end Sys2Proof.Machine
end

