-- ==== Sys2Proof/Machine/LinkOps.lean ====
section
/-! DEFINITION. Link states, link loss, light states, and sessions with their loss (R364, R365, R382 to R386, R409). -/

namespace Sys2Proof.Machine

/-! ### Streams of a peer that is lost or returns (R386, R392, R409) -/

/-- A receive stream in RECEIVING becomes INCOMPLETE, counted in FL_LOSS_CNT (R392). -/
def rxShort (s : State) (smoke : Bool) (k : Nat) : State :=
  let upd (m : SMap Rx) : SMap Rx := smMod {} m k fun r => { r with st := .incomplete, want := none }
  let s1 := modStr s fun t => if smoke then { t with rxSmoke := upd t.rxSmoke } else { t with rxFan := upd t.rxFan }
  modPorts s1 fun p => { p with lossRx := p.lossRx + 1 }

/-- Receive streams of a peer that are RECEIVING become INCOMPLETE (R386). -/
def rxLose (s : State) (smoke : Bool) (id : Nat) : State :=
  (if smoke then s.str.rxSmoke else s.str.rxFan).foldl (fun t kv =>
    if kv.2.src = id ∧ kv.2.st = .receiving then rxShort t smoke kv.1 else t) s

/-- The replay firing of a mirror record. -/
def replayFiring (s : State) (k : Nat) : Option Nat := (s.fir.all.find? fun kv => kv.2.replay == some k).map (·.1)

/-- Abort the replay firing of a mirror record, if there is one (R409). -/
def replayAbort (s : State) (k status : Nat) : State :=
  match replayFiring s k with
  | some n => firingEnd s n status false
  | none => s

/-- Complete the pick that a mirror record carries: TWIN_PAIR gives the record number, TWIN_RESYNC the granules written
(R436). -/
def twinPickDone (s : State) (k status : Nat) : State :=
  let t := twinOf s k
  let res : List Byte := if status ≠ stDone then [] else if t.st = .pairing then leBytes 1 k else leBytes 4 t.written
  match t.pick with
  | some n => pickDone (setTwin s k { t with pick := none }) n status 0 res
  | none => s

/-- The update firing of an epoch of a context has not committed yet. -/
def updateRuns (s : State) (ctx e : Nat) : Bool :=
  s.fir.all.any fun kv => kv.2.f.update && kv.2.replay.isNone && kv.2.f.ctx == ctx && kv.2.f.epoch == e

/-- Fan-out of a context whose owner record degrades with loss action CONTINUE, or is freed: an epoch that awaits its digest is made
final, as R410 ends each epoch then (of an epoch that was already waiting the spec says nothing: DESIGN CHOICE, log entry 46). One
whose firing still runs is settled at its end. -/
def fanSettle (s : State) (ctx : Nat) : State :=
  (fansOf s ctx).foldl (fun t k =>
    let f := fanOf t k
    if f.ph = .awaiting then fanMatch t k f.epoch
    else if f.ph = .holding && !(updateRuns t ctx f.epoch) then fanMatch t k f.epoch
    else t) s

/-- The session of a record's partner is lost, or its digest did not come in time (R409). -/
def twinLose (s : State) (k : Nat) : State :=
  let t := twinOf s k
  match t.st with
  | .pairing => setTwin (twinPickDone s k stPairTimeout) k { twinOf (twinPickDone s k stPairTimeout) k with st := .unpaired }
  | .inStep =>
    let s1 := setTwin s k { t with st := .degraded }
    if t.replay then replayAbort s1 k stAborted
    else
      let s2 := if t.hold then s1 else fanSettle s1 t.ctx
      releaseTry s2 t.ctx
  | .resync =>
    let s1 := twinPickDone s k stResyncFailed
    twinDiverge (setTwin s1 k { twinOf s1 k with want := none, source := false }) k t.next
  | _ => s

/-- What the loss of a session does to the streams (R386). -/
def sessStreams (s : State) (id : Nat) : State :=
  let s1 := s.str.fans.foldl (fun t kv =>
    setFan t kv.1
      { fanOf t kv.1 with
        dests := (fanOf t kv.1).dests.map fun d => if d.peer = id then { d with inEpoch := false, restart := true } else d }) s
  let s2 := rxLose (rxLose s1 false id) true id
  let s3 := s2.str.smokes.foldl (fun t kv =>
    let x := smkOf t kv.1
    let gone := (x.log.filter fun l => match x.sinks[l.who]? with
      | some d => d.peer == id
      | none => true).length
    setSmk t kv.1
      { x with
        sinks := x.sinks.map fun d => if d.peer = id then { d with inEpoch := false } else d
        log := x.log.filter fun l => match x.sinks[l.who]? with
          | some d => d.peer != id
          | none => false
        used := x.used - 64 * gone }) s2
  s3.str.twins.foldl (fun t kv => if kv.2.peer = id then twinLose t kv.1 else t) s3

/-! ### Sessions (R383 to R386) -/

/-- This block's release of its transaction layer (R1, R593). -/
def glbRelease : Nat := 0x0201

/-- Modules that carry frames, as HELLO gives them. -/
def litMods (s : State) : Nat := (List.range 16).foldl (fun v m => v + b2n (modLive s m) * 2 ^ m) 0

/-- The slot of a HELLO or HELLO_ACK (R377). -/
def helloSlot (s : State) (roles : Nat) : Datum :=
  ⟨bytesGran (leBytes 2 glbRelease ++ leBytes 2 s.ports.peerId ++ leBytes 2 roles ++ leBytes 2 (litMods s)
    ++ leBytes 4 s.ports.bootInst), false⟩

/-- Send HELLO (0xA0) or HELLO_ACK (0xA1) to the peer of entry `k`. -/
def helloSend (s : State) (k opc : Nat) : State :=
  sendOrd s k opc [] [helloSlot s (smGet ({} : Peer) s.ports.peers k).roles] 32 none

/-- CLOSED with an anchor: n ← 1, send HELLO, start T (R383). -/
def sessStart (s : State) (k : Nat) : State :=
  let p := smGet ({} : Peer) s.ports.peers k
  if p.enabled ∧ (anchorOf s p).isSome then helloSend (modPeer (setSess s k .helloSent) k fun q => { q with n := 1 }) k 0xA0
  else s

/-- Discard the frames queued for a peer; ordered frames are counted in FL_LOSS_CNT (R386). -/
def dropPeer (s : State) (k : Nat) : State :=
  (List.range 16).foldl (fun t m =>
    let x := modOf t true m
    let gone := x.egress.filter fun e => e.peer == some k
    if gone.isEmpty then t
    else
      let bytes := (gone.map fun e => 32 * (1 + e.pkt.data.length)).foldl (· + ·) 0
      modPorts (setModule t true m { x with egress := x.egress.filter fun e => e.peer != some k }) fun p =>
        { p with lossSess := p.lossSess + gone.length, lossBytes := p.lossBytes + bytes }) s

/-- The session of entry `k` is lost: with reason 3 after a sequence gap a BYE is sent. It is CLOSED, and starts again at
once where the peer still has an anchor (R383, R386). -/
def sessLose (s : State) (k : Nat) (gap : Bool) : State :=
  let p := smGet ({} : Peer) s.ports.peers k
  if p.sess ≠ .open then s
  else
    let s1 := dropPeer s k
    let s2 := if gap then sendOrd s1 k 0xA2 [(128, 8, 3)] [] 0 none else s1
    let s3 := muteReqs s2 false fun fl _ h => fl && hSpeer h == p.id
    sessStart (sessStreams (setSess s3 k .closed) p.id) k

/-- FAN_STATE of every stream to a peer, before any other stream frame (R386). -/
def fanStates (s : State) (id : Nat) : State :=
  s.str.fans.foldl (fun t kv =>
    kv.2.dests.foldl (fun u d =>
      if d.peer = id then
        let f := kv.2
        sendPeer u id 0xC5 [(128, 32, f.lastFinal), (160, 32, f.lastSent), (192, 8, d.rx),
          (200, 1, b2n (f.lastRecant == f.lastSent && f.lastFinal != f.lastSent))] [] 0 (some f.owner)
      else u) t) s

/-- NORM again for each epoch still DECIDING of a group that the peer belongs to (R386). -/
def normAgain (s : State) (id : Nat) : State :=
  s.stp.ctxs.foldl (fun t kv =>
    if (List.range kv.2.n).any fun j => j != kv.2.own && kv.2.peers.getD j 0 == id then
      kv.2.eps.foldl (fun u x => if x.st = .deciding then normSend u kv.2 x id else u) t
    else t) s

/-- The records degraded by the loss of a session exchange PAIR headers, and are IN_STEP or DIVERGED (R409). -/
def twinReopen (s : State) (id : Nat) : State :=
  s.str.twins.foldl (fun t kv =>
    let w := twinOf t kv.1
    if w.peer = id ∧ w.st = .degraded then
      let u := twinSendPair t kv.1
      if w.since then twinDiverge u kv.1 w.lastHdr
      else releaseTry (setTwin u kv.1 { w with st := .inStep }) w.ctx
    else t) s

/-- The session with a peer opens: every SSEQ is reset (R378, R383, R386). -/
def sessOpen (s : State) (k boot : Nat) : State :=
  let s1 := modPeer (setSess s k .open) k fun p =>
    { p with
      boot := some boot
      txSseq := []
      rxSseq := []
      unreach := false }
  let p := smGet ({} : Peer) s1.ports.peers k
  twinReopen (normAgain (fanStates s1 p.id) p.id) p.id

/-- The anchors that peers have now (R375). -/
def anchors (s : State) : List (Nat × Option Nat) := s.ports.peers.map fun kv => (kv.1, anchorOf s kv.2)

/-- Sessions whose anchor stopped carrying frames, `before` being the anchors until then (R382, R383). -/
def anchorsLost (s : State) (m : Nat) (before : List (Nat × Option Nat)) : State :=
  before.foldl (fun t kv =>
    if kv.2 = some m ∧ kv.1 < 4096 then
      let p := smGet ({} : Peer) t.ports.peers kv.1
      match p.sess with
      | .open => sessLose t kv.1 false
      | .helloSent =>
        let u := dropPeer t kv.1
        if (anchorOf u p).isSome then sessStart u kv.1 else setSess u kv.1 .closed
      | _ => t
    else t) s

/-! ### Light (R382) -/

/-- Bytes discarded from egress, by group (R342). -/
def egLose (s : State) (gone : List EgPkt) : State :=
  modPorts s fun p => { p with egDisc := gone.foldl (fun t e => smMod 0 t e.grp (· + pktBytes e.pkt)) p.egDisc }

/-- Number of a light state. -/
def lightNum : Light → Nat
  | .dark => 0 | .settling => 1 | .lit => 2

/-- Move a flue module's light to a state, with its LINK soot record (R382, R549). -/
def setLight (s : State) (m : Nat) (l : Light) : State :=
  let old := (modOf s true m).light
  let s1 := modModule s true m fun x => { x with light := l }
  if old = l then s1 else sootLink s1 1 m 0xFFFF 1 (lightNum old) (lightNum l)

/-- A module goes DARK: its stream data frames are discarded and counted, and the sessions anchored on it are lost. -/
def goDark (s : State) (m : Nat) : State :=
  let before := anchors s
  let x := modOf s true m
  let gone := x.egress.filter fun e => 3 ≤ e.grp ∧ e.grp ≤ 5
  let bytes := (gone.map fun e => 32 * (1 + e.pkt.data.length)).foldl (· + ·) 0
  let s0 := setLight (setModule (egLose s gone) true m
      { x with egress := x.egress.filter fun e => !(3 ≤ e.grp && e.grp ≤ 5) }) m .dark
  let s1 := modPorts s0 fun p =>
    { p with lossDark := p.lossDark + gone.length, lossBytes := p.lossBytes + bytes }
  anchorsLost s1 m before

/-- LIGHT_INPUT_CHANGE: the levels of FL_LOL_N and FL_ATT_N, true for high (R382). -/
def lightInputEff (s : State) (m : Nat) (lol att : Bool) : State :=
  if 16 ≤ m then s
  else
    let s1 := modModule s true m fun x => { x with lol := lol, att := att }
    match (modOf s1 true m).light with
    | .dark => if lol && !att then setLight s1 m .settling else s1
    | _ => if lol && !att then s1 else goDark s1 m

def execLightInputChange (module : Nat) (lol att : Bool) (s : State) : Host.Outcome State Fault Refusal :=
  act s fun s => lightInputEff s module lol att

/-- ATTACH_SETTLED: both levels have held for tFAD (R382). -/
def attachSettledEff (s : State) (m : Nat) : State :=
  if (modOf s true m).light = .settling ∧ m < 16 then setLight s m .lit else s

def execAttachSettled (module : Nat) (s : State) : Host.Outcome State Fault Refusal := act s fun s => attachSettledEff s module

/-! ### Link states (R364, R365) -/

/-- A port-module event (R564 code 0x0501) with its ALERT_N causes. -/
def modEvent (s : State) (flue : Bool) (m viol cnt mask : Nat) : State :=
  fbAlert (report s (if flue then chFlue else chHearth) { evt s 0x0501 .info 364 with
    module := m + 128 * b2n flue, detA := viol, detB := cnt, alerts := mask }) mask

/-- ALERT_N cause of a FAILED module of a port, and of a stalled one (R601). -/
def failMask (flue : Bool) : Nat := if flue then 4 else 1
def stallMask (flue : Bool) : Nat := if flue then 8 else 2

/-- Start the training of a DOWN module, in service; a hearth module takes the spread spectrum that CLK_HP_SSC selects (R347, R364,
R369). -/
def linkTrain (s : State) (flue : Bool) (m : Nat) : State :=
  if (modOf s flue m).st = .down ∧ s.boot.st = .service then
    modModule (setModS s flue m .train) flue m fun x => { x with ssc := if flue then 0 else regRd s 0x50018 }
  else s

/-- LINK_RETRY_TIMER: the retry timer of a DOWN module expires (R364); a module that cannot run even at half width fails its attempts
until it enters FAILED here (R346; DEDUCED, log entry 97). -/
def linkRetryEff (s : State) (flue : Bool) (m : Nat) : State :=
  let x := modOf s flue m
  if 16 ≤ m ∨ x.st ≠ .down then s
  else if 8 ≤ x.fails then modEvent (setModS s flue m .failed) flue m 0 x.fails (failMask flue)
  else linkTrain s flue m

def execLinkRetryTimer (flue : Bool) (module : Nat) (s : State) : Host.Outcome State Fault Refusal :=
  act s fun s => linkRetryEff s flue module

/-- A link-up attempt fails: it is counted and the module is DOWN (R364). -/
def linkFail (s : State) (flue : Bool) (m : Nat) : State :=
  modModule (setModS s flue m .down) flue m fun x => { x with fails := min 8 (x.fails + 1) }

/-- The agents of a module are unbound (R365). -/
def unbindMod (s : State) (m : Nat) : State :=
  modPorts s fun p =>
    { p with agents := smMap p.agents fun _ a => if a.bound && a.module == m then { a with bound := false } else a }

/-- Spools whose DIE records wait in a hearth module's egress (R443). -/
def spoolsLost (s : State) (m : Nat) : List Nat :=
  if (modOf s false m).egress.any (fun e => e.grp == 6) then
    (s.spl.creel.filter fun kv =>
      kv.2.st == .active && kv.2.die && (smGet ({} : Agent) s.ports.agents kv.2.src).module == m
      && (modOf s false m).egress.any fun e => e.grp == 6 && e.part == kv.2.owner && hSrc e.pkt.hdr == kv.2.src
          && kv.2.cq ≤ hdrF e.pkt.hdr 128 64 && hdrF e.pkt.hdr 128 64 < kv.2.cq + 64 * 2 ^ kv.2.recLog).map (·.1)
  else []

/-- A module's link is lost (R344, R365): its egress and replay buffers are discarded and counted, what it has accepted
completes without a completion, its agents are unbound, and its credits start anew at the next link-up. -/
def linkLost (s : State) (flue : Bool) (m : Nat) : State :=
  let before := anchors s
  let x := modOf s flue m
  let lost := if flue then [] else spoolsLost s m
  let bytes := (x.egress.map fun e => 32 * (1 + e.pkt.data.length)).foldl (· + ·) 0
  let room := x.tposeTail + (x.egress.map fun e => tileBytes e.pkt.hdr).foldl (· + ·) 0
  let s0 := if flue then egLose s x.egress else { s with tposeUsed := s.tposeUsed - room }
  let s1 := setModule s0 flue m
    { st := x.st
      half := x.half
      fails := x.fails
      repaired := x.repaired
      crcErr := x.crcErr
      weftErr := x.weftErr
      replayCnt := x.replayCnt
      discard := x.discard + x.egress.length + x.replay.length
      viol := x.viol
      ssc := x.ssc
      light := x.light
      lol := x.lol
      att := x.att }
  let s2 := setModS s1 flue m .down
  let s3 := modPorts (muteReqs s2 true fun fl k _ => fl == flue && k == m) fun p =>
    { p with
      lossBytes := if flue then p.lossBytes + bytes else p.lossBytes
      lossDark := if flue then p.lossDark + x.egress.length else p.lossDark }
  let s4 := if flue then s3 else unbindMod s3 m
  let s5 := lost.foldl (fun t k => splHalt t k 2) s4
  if flue then anchorsLost s5 m before else s5

/-- TRAIN_TIMEOUT, PARAM_TIMEOUT and INITIAL_CREDIT_TIMEOUT: a link-up step did not end in time (R364). -/
def linkStepTimeout (s : State) (flue : Bool) (m : Nat) (st : ModS) : State :=
  if m < 16 ∧ (modOf s flue m).st = st then
    let t := linkFail s flue m
    if flue then t else unbindMod t m
  else s

def execTrainTimeout (flue : Bool) (module : Nat) (s : State) : Host.Outcome State Fault Refusal :=
  act s fun s => linkStepTimeout s flue module .train
def execParamTimeout (flue : Bool) (module : Nat) (s : State) : Host.Outcome State Fault Refusal :=
  act s fun s => linkStepTimeout s flue module .param
def execInitialCreditTimeout (flue : Bool) (module : Nat) (s : State) : Host.Outcome State Fault Refusal :=
  act s fun s => linkStepTimeout s flue module .credit

/-- A link that is active shows that its port's PLL has locked (R497, R598). -/
def pllSeen (s : State) (flue : Bool) : State :=
  modClk s fun c => if flue then { c with flLock := true } else { c with hpLock := true }

/-- UCIE_LINK_ACTIVE: a trained module sends its parameter message; a retrained one replays what is not acknowledged
(R346, R352, R364). -/
def ucieActiveEff (s : State) (flue : Bool) (m : Nat) (half : Bool) (repaired : Nat) : State :=
  let x := modOf s flue m
  if 16 ≤ m then s
  else match x.st with
    | .train => setModS (modModule (pllSeen s flue) flue m fun y => { y with half := half, repaired := repaired }) flue m .param
    | .retrain =>
      setModS (modModule (pllSeen s flue) flue m fun y =>
        { y with
          half := half
          repaired := repaired
          resend := if y.resend.isEmpty then y.replay else y.resend
          replays := if y.replays = 8 then 9 else y.replays }) flue m .up
    | _ => s

def execUcieLinkActive (flue : Bool) (module : Nat) (half : Bool) (repaired : Nat) (s : State) :
    Host.Outcome State Fault Refusal :=
  act s fun s => ucieActiveEff s flue module half repaired

/-- A partner's parameter message passes R361: the major releases are equal, its role is the expected one, none of its SRC
values is bound to another module that is up, at most 16 are bound, and its credits reach the minimums. -/
def paramOk (s : State) (flue : Bool) (m : Nat) (x : ParamMsg) : Bool :=
  x.release / 256 == glbRelease / 256 && x.role
  && (flue || (x.srcs.length ≤ 16 && x.srcs.all fun q =>
      let a := smGet ({} : Agent) s.ports.agents q
      q < 256 && !(a.bound && a.module != m)))
  && (partnerIdx flue).all fun i => match x.credits.find? (fun c => c.1 == i) with
      | some c => partnerMin flue i ≤ c.2
      | none => false

/-- The partner's initial credits reach the minimums. -/
def creditsOk (flue : Bool) (x : ParamMsg) : Bool :=
  (partnerIdx flue).all fun i => match x.credits.find? (fun c => c.1 == i) with
    | some c => partnerMin flue i ≤ c.2
    | none => false

/-- PARAMETER_MESSAGE (R361, R364, R367): the module takes the partner's bindings and sends its initial credits, or is
FAILED. -/
def paramMessageEff (s : State) (flue : Bool) (m : Nat) (x : ParamMsg) : State :=
  if 16 ≤ m ∨ (modOf s flue m).st ≠ .param then s
  else if paramOk s flue m x then
    let s1 := modModule s flue m fun y =>
      { y with
        rxCred := []
        credDue := (blockIdx flue).foldl (fun t i => smSet t i (blockInit flue i)) []
        txCred := []
        credSeen := []
        rxSeq := 255
        discarding := false
        ackDue := 0
        nakDue := false
        partialPkts := []
        txSeq := 0
        replay := []
        resend := []
        replays := 0 }
    let s2 := if flue then s1 else modPorts s1 fun p =>
      { p with agents := x.srcs.foldl (fun t q => smSet t q { bound := true, module := m }) p.agents }
    setModS s2 flue m .credit
  else
    let s1 := if creditsOk flue x ∨ flue then s else violHearth s m 7 0
    modEvent (setModS s1 flue m .failed) flue m 7 0 (failMask flue)

def execParameterMessage (flue : Bool) (module : Nat) (msg : ParamMsg) (s : State) : Host.Outcome State Fault Refusal :=
  act s fun s => paramMessageEff s flue module msg

/-- LANE_FAILURE: an UP module retrains, keeping its replay buffer and every credit (R364). -/
def laneFailureEff (s : State) (flue : Bool) (m : Nat) : State :=
  if m < 16 ∧ (modOf s flue m).st = .up then setModS s flue m .retrain else s

def execLaneFailure (flue : Bool) (module : Nat) (s : State) : Host.Outcome State Fault Refusal :=
  act s fun s => laneFailureEff s flue module

/-- RETRAIN_TIMEOUT: tHRT expires and the link is lost (R364). -/
def retrainTimeoutEff (s : State) (flue : Bool) (m : Nat) : State :=
  if m < 16 ∧ (modOf s flue m).st = .retrain then linkLost s flue m else s

def execRetrainTimeout (flue : Bool) (module : Nat) (s : State) : Host.Outcome State Fault Refusal :=
  act s fun s => retrainTimeoutEff s flue module

/-- MODULE_RETRY: a write of 1 to HP_MOD_CTL.RETRY or FL_MOD_CTL.RETRY, for the module the requester has selected: FAILED
to DOWN with the failure count clear (R364, R594). -/
def moduleRetryEff (s : State) (rq : Requester) (flue : Bool) : State :=
  guarded s rq (regAllowed s rq) fun s =>
    let m := selF s rq (if flue then 0x20000 else 0x10000) 0 4
    if (modOf s flue m).st = .failed then modModule (setModS s flue m .down) flue m fun x => { x with fails := 0 } else s

def execModuleRetry (rq : Requester) (flue : Bool) (s : State) : Host.Outcome State Fault Refusal :=
  act s fun s => portAccess s rq fun t => moduleRetryEff t rq flue

/-- Credits of a hearth module are withheld for tHRS: the soot drains whose agent is bound to it, with BWR packets waiting there, show
DRAIN_STALL (R552). -/
def drainsStall (s : State) (m : Nat) : State :=
  let here (r : SootRing) : Bool :=
    let a := smGet ({} : Agent) s.ports.agents (fld r.drain0 0 8)
    fld r.drain0 8 1 == 1 && a.bound && a.module == m && r.rd < r.wr
  modObs s fun o => { o with rings := smMap o.rings fun _ r => if here r then { r with stall := true } else r }

/-- RESPONSE_CREDIT_STALL: credits are withheld while the block has traffic for the module (R367, R395, R552). -/
def creditStallEff (s : State) (flue : Bool) (m : Nat) : State :=
  let x := modOf s flue m
  if m < 16 ∧ x.st = .up ∧ !x.egress.isEmpty then
    let s1 := if flue then violFlue s 4096 9 0 else drainsStall (violHearth s m 6 0) m
    modEvent s1 flue m (if flue then 9 else 6) 1 (stallMask flue)
  else s

def execResponseCreditStall (flue : Bool) (module : Nat) (s : State) : Host.Outcome State Fault Refusal :=
  act s fun s => creditStallEff s flue module

/-- Every module of a port retrains or starts training at once, its failure count clear (R499). -/
def portsRestart (s : State) : State :=
  [false, true].foldl (fun t fl => (List.range 16).foldl (fun u m =>
    let x := modOf u fl m
    if x.st = .down ∨ x.st = .failed then
      linkTrain (modModule (setModS u fl m .down) fl m fun y => { y with fails := 0 }) fl m
    else u) t) s

/-- Every UP module of a port retrains (R497, R498). -/
def portRetrain (s : State) (flue : Bool) : State :=
  (List.range 16).foldl (fun u m => if (modOf u flue m).st = .up then setModS u flue m .retrain else u) s

/-! ### Session events -/

/-- ANCHOR_GAINED: a CLOSED session starts (R383). -/
def anchorGainedEff (s : State) (k : Nat) : State :=
  if k < 4096 ∧ (smGet ({} : Peer) s.ports.peers k).sess = .closed then sessStart s k else s

def execAnchorGained (peer : Nat) (s : State) : Host.Outcome State Fault Refusal := act s fun s => anchorGainedEff s peer

/-- HELLO_TIMEOUT: HELLO again, or UNREACHABLE after the eighth (R383). -/
def helloTimeoutEff (s : State) (k : Nat) : State :=
  let p := smGet ({} : Peer) s.ports.peers k
  if p.sess ≠ .helloSent ∨ 4096 ≤ k then s
  else if p.n < 8 then helloSend (modPeer s k fun q => { q with n := q.n + 1 }) k 0xA0
  else modPeer (setSess s k .unreachable) k fun q => { q with unreach := true }

def execHelloTimeout (peer : Nat) (s : State) : Host.Outcome State Fault Refusal := act s fun s => helloTimeoutEff s peer

/-- UNREACHABLE_RETRY: tFUR expires and the peer has an anchor (R383). -/
def unreachableRetryEff (s : State) (k : Nat) : State :=
  let p := smGet ({} : Peer) s.ports.peers k
  if (p.sess = .unreachable ∨ p.sess = .refused) ∧ k < 4096 then sessStart s k else s

def execUnreachableRetry (peer : Nat) (s : State) : Host.Outcome State Fault Refusal := act s fun s => unreachableRetryEff s peer

/-- KEEPALIVE_IDLE: nothing has come from an OPEN peer for tFKA (R385). -/
def keepaliveEff (s : State) (k : Nat) : State :=
  if (smGet ({} : Peer) s.ports.peers k).sess = .open then sendOrd s k 0xA3 [] [] 0 none else s

def execKeepaliveIdle (peer : Nat) (s : State) : Host.Outcome State Fault Refusal := act s fun s => keepaliveEff s peer

/-- SESSION_EXPIRY: nothing has come from an OPEN peer for tFDD (R385). -/
def execSessionExpiry (peer : Nat) (s : State) : Host.Outcome State Fault Refusal := act s fun s => sessLose s peer false

/-- VIOL_PERIOD_BOUNDARY: the kind 8 entries are cleared, so that the next period records its first (R357, R594). -/
def violPeriodEff (s : State) : State :=
  modPorts s fun p =>
    { p with hp := smMap p.hp fun _ m => { m with viol := smMap m.viol fun k v => if k = 8 then { v with valid := false } else v } }

def execViolPeriodBoundary (s : State) : Host.Outcome State Fault Refusal := act s fun s => violPeriodEff s

end Sys2Proof.Machine
end

