-- ==== Sys2Proof/Machine/RampCmds.lean ====
section
/-! DEFINITION. The ramp ladder (R289 to R291) and its POWER trace records (R549). -/

namespace Sys2Proof.Machine

/-- `n` parts of 1/d of a watt as FP32. -/
def wattF32 (n d : Nat) : W32 := f32Enc .rne (.fin false n d)

/-- The configured budget in half watts: the lower of SCH_DRAUGHT.BUDGET and the governor limit (R289). -/
def budgetCfg (s : State) (draught : W64) : Nat := min (fld draught 0 9) s.fb.gov

/-- POWER record: when the governor limit or ramp ceiling has changed by 5 W or more since the last one (R549). -/
def sootPower (s : State) : State :=
  let c := s.sched
  let k := 2 ^ 149
  let d : Int := (f32Floor c.ceiling k : Int) - (f32Floor c.sootPow.2 k : Int)
  if 10 ≤ ((s.fb.gov : Int) - (c.sootPow.1 : Int)).natAbs ∨ 5 * k ≤ d.natAbs then
    modSched (soot s 10 none (payload
      [(0, 32, (wattF32 s.fb.gov 2).toNat), (32, 32, c.ceiling.toNat), (64, 32, (wattF32 (fld c.draught 0 9) 2).toNat),
       (96, 32, c.lastP.toNat)]))
      fun c => { c with sootPow := (s.fb.gov, c.ceiling) }
  else s

/-- Set the ceiling and the floor target of the next interval from the power of the interval just past; the written
budget and ramp fields come into force (R289, R291). -/
def rampSet (s : State) (p : W32) : State :=
  let draught := regRd s 0x30060
  let ramp := regRd s 0x30068
  let up := (fvAdd .rne (f32 p) (.fin false (fld ramp 0 8) 4)).1
  let upF := f32 (f32Enc .rne up)
  let flo : FV := .fin false (fld draught 32 9) 2
  let bud : FV := .fin false (budgetCfg s draught) 2
  let c1 := if fvLt upF flo then flo else upF
  let c2 := if fvLt bud c1 then bud else c1
  let dn := (fvAdd .rne (f32 p) (.fin true (fld ramp 8 8) 4)).1
  let fl : FV := if fvLt dn (fvZero false) then fvZero false else dn
  sootPower (modSched s fun c =>
    { c with
      ceiling := f32Enc .rne c2
      floorT := f32Enc .rne fl
      lastP := p
      draught := draught
      ramp := ramp
      energy := 0
      ballastIv := 0 })

/-- Service entry and every exit from a power state: the power of the interval just past is taken as 0 (R289). -/
def rampStart (s : State) : State := rampSet s 0

/-- RAMP_BOUNDARY: the interval of `ns` nanoseconds ends (R289). One picojoule a nanosecond is a milliwatt. -/
def rampBoundaryEff (s : State) (ns : Nat) : State :=
  if ns = 0 then s else rampSet s (wattF32 s.sched.energy (1000 * ns))

def execRampBoundary (ns : Nat) (s : State) : Host.Outcome State Fault Refusal := act s fun s => rampBoundaryEff s ns

end Sys2Proof.Machine
end

