-- ==== Sys2Proof/Machine/ResetOps.lean ====
section
/-! DEFINITION. Block reset, the halt of rung 4, and the recovery ladder (R470, R506, R581 to R586). -/

namespace Sys2Proof.Machine

/-- Words of the register window that a block reset keeps: the fireback sub-window (R470), the clock registers (R506), and
SCH_TIM_ and SCH_REF (R582). -/
def regKept (off : Nat) : Bool :=
  (0xF00000 ≤ off && off < 0x1000000) || (0x50000 ≤ off && off < 0x60000) || (0x30000 ≤ off && off < 0x30030)

/-- The region table whose regions keep their contents at the boot to come: without the regions of a partition in
re-initialisation, or under reassignment (R466, R525). -/
def regionsKept (s : State) : SMap Region :=
  if s.boot.st = .service ∨ s.boot.st = .tables then
    smFilter s.regions fun _ r => (part s r.owner).st != .reinit && !r.reassign
  else s.boot.prevRegions

/-- A write, erase or program of a slot is under way. -/
def slotOp : Option FlashOp → Bool
  | some (.erase _) => true
  | some (.program _ _ _) => true
  | _ => false

/-- A RECOVER command with rung 3 that is RUNNING (R476, R581). -/
def isRung3Cmd (m : Mbox) : Bool := m.st == .running && m.opcode == 9 && leAt m.copy 0x10 1 % 8 == 3

/-- Commands that were RUNNING end with status ABORTED, but for the RECOVER that asked for the block reset (R480, R585). -/
def mboxAbort (f : Fireback) : Fireback :=
  { f with mbox := smMap f.mbox fun _ (m : Mbox) =>
      if m.st == .running && !(isRung3Cmd m) then { m with st := .done, status := 9 } else m }

/-- A RECOVER with rung 3 that is RUNNING ends with `status` (R476, R582, R585). -/
def recoverEnd (s : State) (status : Nat) : State :=
  modFb s fun f =>
    { f with mbox := smMap f.mbox fun _ (m : Mbox) =>
        if isRung3Cmd m then { m with st := .done, status := status } else m }

/-- Rung 3 is in progress: a boot that a block reset began has not ended (R585). -/
def rung3Runs (s : State) : Bool :=
  !s.boot.cold && (match s.boot.st with
    | .service => false | .haltStack => false | .haltFlash => false | .haltImage => false | .haltVersion => false
    | _ => true)

/-- The ports after a reset: every module DOWN, every session CLOSED, the optical inputs at their levels (R364, R377,
R582). -/
def portsReset (p : Ports) : Ports :=
  { fl := smMap p.fl fun _ m =>
      { lol := m.lol, att := m.att, light := if m.lol && !m.att then .settling else .dark }
    bootInst := p.bootInst + 1 }

/-- A block reset, R582 steps 2 to 5: everything but the fireback, the clocks, the arrays, the fault memory, the refresh
debts and the management port returns to its reset state, and boot begins at STACK. OBS_MARK_CNT is among the counters that R540
returns to zero (DEDUCED against R543, log entry 65). -/
def blockReset (s : State) (scan : Bool) : State :=
  let base : State := {}
  let t : State :=
    { base with
      pending := s.pending
      freeCtr := s.freeCtr + 1048576
      fir := { scrBase := s.freeCtr }
      mem := s.mem
      rmem := s.rmem
      sched :=
        { pairs := smMap s.sched.pairs fun _ p => { debt0 := p.debt0, debt1 := p.debt1, debt2 := p.debt2, debt3 := p.debt3 }
          hot := s.sched.hot }
      warp := { map := s.warp.map, mapFlash := s.warp.mapFlash, tilePower := mapPower s.warp.map }
      ports := portsReset s.ports
      flt := { s.flt with
               ctl := []
               ctlStop := false
               scan := none
               patReady := false
               scanDue := match s.flt.scan with
                 | some g => s.flt.scanDue ++ [g.die * 34 + g.pair]
                 | none => s.flt.scanDue }
      fb := mboxAbort s.fb
      clk := { s.clk with pst := .service, reqLater := false }
      boot :=
        { st := .stack
          cold := false
          prevRegions := regionsKept s
          hubScan := scan
          dir0 := s.boot.dir0
          dir1 := s.boot.dir1
          slotAData := s.boot.slotAData
          slotBData := s.boot.slotBData
          flashOk := s.boot.flashOk
          flSt := b2n (slotOp s.boot.op)
          flCmd := if slotOp s.boot.op then s.boot.flCmd else 0
          op := s.boot.op
          opQ := [] }
      mgmt := s.mgmt
      regs := smFilter s.regs fun k _ => regKept k }
  driveAlert (regSetF t 0x50028 0 1 0)

/-- Rung 4: the block halts. Array and hob activity stops, refresh with it, and what the arrays hold is lost; the
fireback and the management port go on (R583). -/
def stackHalt (s : State) (causes : Nat) : State :=
  let t := recoverEnd (blockReset s false) 9
  { t with
    mem := []
    rmem := []
    sched := {}
    warp := { t.warp with tilePower := (List.range 544).filterMap fun k => if k % 34 < 32 then some (k, false) else none }
    flt := { t.flt with halted := true, powerCycle := true, haltCauses := causes, rung4 := t.flt.rung4 + 1 } }

/-- Class of the record of a rung (R564 code 0x0902): by the rung. -/
def rungClass (rung : Nat) : FClass := if rung = 4 then .stack else if rung = 3 then .block else .info

/-- The record of a rung taken (R581). -/
def rungRecord (s : State) (rung trig : Nat) (p : Option Nat) : State :=
  logRecord s { evt s 0x0902 (rungClass rung) 581 with part := p, detA := Config.openCode 3 trig % 2 ^ 32, detB := rung, keep := true }
    rung 0

/-- Take rung 3. -/
def rung3 (s : State) (trig : Nat) (scan : Bool) : State :=
  let t := blockReset (rungRecord s 3 trig none) scan
  modFlt t fun f => { f with rung3 := f.rung3 + 1 }

/-- FAULT_N causes of the event that a trigger code names (R564). -/
def trigCauses (trig : Nat) : Nat :=
  match trig with
  | 0x106 => 4 | 0x301 => 4 | 0x302 => 256 | 0x303 => 128 | 0x601 => 32 | 0x702 => 16
  | _ => 0

/-- Take rung 4. -/
def rung4 (s : State) (trig : Nat) : State := if s.flt.halted then s else stackHalt (rungRecord s 4 trig none) (trigCauses trig)

/-- The record of a rung that meets a rung 3 in progress and is not taken (R585). -/
def rungMet (s : State) (rung trig : Nat) : State :=
  logRecord s { evt s 0x0902 (rungClass rung) 585 with detA := Config.openCode 3 trig % 2 ^ 32, detB := rung, keep := true } 0 0

/-- Automatic block resets within the last RESET_WINDOW (R584). -/
def recentResets (s : State) : List Nat :=
  s.flt.autoResets.filter fun t => s.fb.uptime < t + 60000000 * regF s 0xF10080 16 6

/-- The rung that an automatic rung 3 becomes: 4 after RESET_LIMIT automatic resets within RESET_WINDOW (R584). -/
def autoRung (s : State) : Nat := if regF s 0xF10080 8 4 ≤ (recentResets s).length then 4 else 3

/-- Take rung 3 without a command; during a boot that a block reset began it counts and is recorded (R581, R584, R585). -/
def rung3Auto (s : State) (trig : Nat) : State :=
  if s.flt.halted then s
  else if autoRung s = 4 then rung4 s trig
  else if rung3Runs s then modFlt (rungMet s 3 trig) fun f => { f with autoResets := recentResets s ++ [s.fb.uptime] }
  else modFlt (rung3 s trig false) fun f => { f with autoResets := recentResets s ++ [s.fb.uptime] }

/-- The rung that an event's class takes (R558). -/
def eventRung (s : State) : FClass → Nat
  | .corrected => 1
  | .block => autoRung s
  | .stack => 4
  | _ => 0

/-- The record of an event is suppressed by its rate window (R560). -/
def isSuppressed (s : State) (e : FEvent) : Bool :=
  !(neverSuppressed e) && (match smFind s.flt.rate (rateKey e) with
    | some x => decide (s.fb.uptime < x.start + 1000000 * regF s 0xF10020 0 12)
    | none => false)

/-- What the fireback does with an event: its record, its causes, its rung (R559). -/
def handleEvent (s : State) (chan : Nat) (e : FEvent) : State :=
  let lost := smGet 0 s.flt.chanLost chan
  let s1 := logRecord s e (eventRung s e.cls) lost
  let s2 := if isSuppressed s e then s1 else modFlt s1 fun f => { f with chanLost := smDel f.chanLost chan }
  let s3 := fbFault (fbAlert s2 e.alerts) e.causes
  match e.cls with
  | .block => rung3Auto s3 e.code
  | .stack => rung4 s3 e.code
  | _ => s3

/-- The fireback's cores run (R470, R490). -/
def fbRuns (s : State) : Bool := s.fb.ready && !s.fb.lockstep

end Sys2Proof.Machine
end

