-- ==== Sys2Proof/Machine/FltCmds.lean ====
section
/-! DEFINITION. Meanings of the commands of fault recording, history and the in-field test (R559 to R579). -/

namespace Sys2Proof.Machine

/-! ### Reports and records -/

/-- FAULT_EVENT_REPORT: the fireback takes the oldest event of a report channel (R559). -/
def faultReportEff (s : State) (ch : Nat) : State :=
  match smGet [] s.flt.chans ch with
  | [] => s
  | e :: q =>
    if fbRuns s then
      let s1 := modFlt s fun f => { f with chans := if q.isEmpty then smDel f.chans ch else smSet f.chans ch q }
      handleEvent s1 ch e
    else s

def execFaultEventReport (chan : Nat) (s : State) : Host.Outcome State Fault Refusal := act s fun s => faultReportEff s chan

/-- FAULT_RECORD_COMMIT: the write of the oldest queued record ends, verified or not (R567, R568). The flash does one operation
at a time (R514). -/
def recordCommitEff (s : State) (ok : Bool) : State :=
  if s.flt.commitQ = [] ∨ s.flt.fallback ∨ s.boot.op.isSome ∨ !fbRuns s then s
  else if ok then commitOne s
  else logFallback s 0 (0x140000 + 256 * s.flt.logPos)

def execFaultRecordCommit (ok : Bool) (s : State) : Host.Outcome State Fault Refusal := act s fun s => recordCommitEff s ok

/-- FALLBACK_RETRY: one write every 60 s; when it commits, the queue and the history follow (R569). -/
def fallbackRetryEff (s : State) (ok : Bool) : State :=
  if !s.flt.fallback ∨ s.flt.commitQ = [] ∨ s.boot.op.isSome ∨ !fbRuns s then s
  else if ok then
    let s1 := (List.range s.flt.commitQ.length).foldl (fun t _ => commitOne t) s
    modFlt (historyCommit s1) fun f => { f with flashOk := true, flash := 0 }
  else modFlt s fun f => { f with flash := 2 }

def execFallbackRetry (ok : Bool) (s : State) : Host.Outcome State Fault Refusal := act s fun s => fallbackRetryEff s ok

/-- HISTORY_HOURLY_WRITE: the history takes a write to flash (R574); in fallback it lives on in SRAM (R570). -/
def historyHourlyEff (s : State) : State := if s.flt.fallback ∨ !fbRuns s then s else histWrite s

def execHistoryHourlyWrite (s : State) : Host.Outcome State Fault Refusal := act s fun s => historyHourlyEff s

/-! ### In-field test (R575 to R579) -/

/-- The tile whose test falls due next: one due out of turn, or the next of the order (R575), whose positions number the tiles of a die
as its physical pairs (DEDUCED, log entry 63). -/
def nextTile (s : State) : Nat × State :=
  match s.flt.scanDue with
  | k :: q => (k, modFlt s fun f => { f with scanDue := q })
  | [] =>
    let n := 34 * s.boot.dies
    let t := s.flt.scanNext % n
    (t % s.boot.dies * 34 + t / s.boot.dies, modFlt s fun f => { f with scanNext := (t + 1) % n })

/-- SCAN_TEST_DUE: a tile's test falls due and asks the firing over the tile to stop; it leaves RETAIN (R145, R511,
R575). One that falls due while another tile's test is in progress is next after it. -/
def scanDueEff (s : State) : State :=
  if s.boot.st ≠ .service ∨ s.boot.dies = 0 then s
  else if s.flt.scan.isSome then
    let n := nextTile (modFlt s fun f => { f with scanDue := [] })
    modFlt n.2 fun f => { f with scanDue := s.flt.scanDue ++ [n.1] }
  else
    let n := nextTile s
    let die := n.1 / 34
    let pair := n.1 % 34
    let pos := servedPos s die pair
    let s1 := modFlt n.2 fun f =>
      { f with
        scan := some { die := die, pair := pair, pos := pos, phase := b2n f.patReady, segs := 0 }
        patReady := false
        tiles := smMod {} f.tiles n.1 fun t => { t with st := if t.st = 2 then 2 else 1 } }
    let s2 := retainExit s1
    match pos, curFiring s2 with
    | some p, some (_, x) => if inRect x.f (die * 32 + p) then requestStop s2 .test else s2
    | _, _ => s2

def execScanTestDue (s : State) : Host.Outcome State Fault Refusal := act s fun s => scanDueEff s

/-- A tile's test is left unrun: counted, recorded, and due again (R576). -/
def testUnrun (s : State) (die pair : Nat) : State :=
  let s1 := preemptCheck <| modFlt s fun f =>
    { f with scan := none, notRun := f.notRun + 1, scanDue := f.scanDue ++ [die * 34 + pair] }
  report s1 chSched { evt s1 0x0205 .info 576 with
    die := die, pair := pair, detA := Config.openCode 3 0x205 % 2 ^ 32, detB := Config.openCode 3 0x1205 }

/-- SCAN_PATTERN_READ: before the next test falls due, or once it has, the patterns are read and verified; or the test is left
unrun (R576). -/
def patternReadEff (s : State) (ok : Bool) : State :=
  match s.flt.scan with
  | none =>
    if s.boot.st ≠ .service ∨ s.boot.dies = 0 ∨ s.flt.patReady then s
    else if ok then modFlt s fun f => { f with patReady := true }
    else
      let n := nextTile s
      testUnrun n.2 (n.1 / 34) (n.1 % 34)
  | some t =>
    if t.phase ≠ 0 then s
    else if ok then modFlt s fun f => { f with scan := some { t with phase := 1 } }
    else testUnrun s t.die t.pair

def execScanPatternRead (ok : Bool) (s : State) : Host.Outcome State Fault Refusal := act s fun s => patternReadEff s ok

/-- The firing that holds the hobs holds a rectangle that contains the tile. -/
def tileHeld (s : State) (t : ScanT) : Bool :=
  match t.pos, curFiring s with
  | some p, some (_, x) => inRect x.f (t.die * 32 + p)
  | _, _ => false

/-- Pull in refreshes of a pair's four row groups until each debt is −8 (R577 step 2). -/
def pullIn (s : State) (die pos : Nat) : State :=
  (List.range 4).foldl (fun t g =>
    (List.range (debtOf (pairAt t die pos) g + 8).toNat).foldl (fun u _ => refresh u die pos g) t) s

/-- A request already granted to the tile's pair is not complete (R577 step 1). -/
def tileBusy (s : State) (t : ScanT) : Bool :=
  match t.pos with
  | some p => (pairAt s t.die p).q.any fun r => r.busy
  | none => false

/-- SCAN_TEST_START: no firing holds the tile; the pair leaves service, refreshes are pulled in, and the hub saves the tile's
retained state (R577 steps 1 to 3). -/
def scanStartEff (s : State) : State :=
  match s.flt.scan with
  | none => s
  | some t =>
    if t.phase ≠ 1 ∨ tileHeld s t ∨ tileBusy s t then s
    else
      let sv := match t.pos with
        | some p => let h := hobOf s (t.die * 32 + p); (h.ce, h.halts, h.firings)
        | none => (0, 0, 0)
      let s1 := modFlt s fun f => { f with scan := some { t with phase := 2, saved := sv } }
      match t.pos with
      | some p => pullIn (setPair s1 t.die p { pairAt s1 t.die p with test := true }) t.die p
      | none => s1

def execScanTestStart (s : State) : Host.Outcome State Fault Refusal := act s fun s => scanStartEff s

/-- SCAN_SEGMENT_DONE: a segment's patterns have moved on the weft bus once no user of a higher rank held it (R34, R79); after the
segment the debts return to −8 (R577 step 4). -/
def scanSegmentEff (s : State) : State :=
  match s.flt.scan with
  | none => s
  | some t =>
    if t.phase ≠ 2 ∨ !(weftFree s t.die 4) then s
    else
      let s1 := modFlt s fun f => { f with scan := some { t with segs := t.segs + 1 } }
      match t.pos with
      | some p => pullIn s1 t.die p
      | none => s1

def execScanSegmentDone (s : State) : Host.Outcome State Fault Refusal := act s fun s => scanSegmentEff s

/-- Place a migration at the head of the queue of R317, copying raw words (R578, R579). -/
def migrHead (s : State) (die pos : Nat) : State :=
  match s.warp.migr with
  | none => migrStart s die pos none true
  | some _ => modWarp s fun w => { w with queue := { die := die, pos := pos, mbox := none, raw := true } :: w.queue }

/-- A tile fails its scan (R578). -/
def scanFail (s : State) (t : ScanT) (mask : Nat) (checker : Bool) : State :=
  let k := t.die * 34 + t.pair
  let s1 := modFlt s fun f =>
    { f with tiles := smMod {} f.tiles k fun y => { y with st := 2, mask := mask, failed := satAdd 32 y.failed 1 } }
  let passes := (smGet ({} : TileHist) s1.flt.tiles k).passed
  match t.pos with
  | none =>
    let s2 := histWrite (setHist s1 k { histOf s1 k with st := .spareUnusable })
    report s2 chSched { evt s2 0x0204 .info 578 with
      die := t.die, pair := t.pair, detA := mask, detB := passes, keep := true }
  | some p =>
    let s2 := report s1 chSched { pairEvt s1 0x0204 .data 578 t.die p t.pair with
      detA := mask, detB := passes, causes := if checker then 128 else 0, keep := true }
    let h := histOf s2 k
    if h.st = .active ∨ h.st = .watch ∨ h.st = .spare then
      let s3 := histWrite (setHist s2 k { h with st := .spareDue })
      migrHead (report s3 chWarp { pairEvt s3 0x0104 .info 573 t.die p t.pair with detA := Config.openCode 7 3, detB := 2, keep := true }) t.die p
    else migrHead s2 t.die p

/-- SCAN_TEST_DONE: the signatures are compared, the tile's retained state is restored, and the pair returns to service; `mask`
names the failed chains, and `checker` says that a checker chain is among them (R577 steps 5 and 6, R578). -/
def scanDoneEff (s : State) (mask : Nat) (checker : Bool) (us : Nat) : State :=
  match s.flt.scan with
  | none => s
  | some t =>
    if t.phase ≠ 2 then s
    else
      let s1 := modFlt s fun f => { f with scan := none, lastUs := us % 2 ^ 32 }
      let s2 := match t.pos with
        | some p => setPair s1 t.die p { pairAt s1 t.die p with test := false }
        | none => s1
      let s3 := match t.pos with
        | some p =>
          setHob { s2 with freeCtr := s2.freeCtr + 2048 } (t.die * 32 + p)
            { scr := s2.freeCtr
              ce := t.saved.1
              halts := t.saved.2.1
              firings := t.saved.2.2 }
        | none => s2
      preemptCheck <| if mask = 0 then
        modFlt s3 fun f =>
          { f with tiles := smMod {} f.tiles (t.die * 34 + t.pair) fun y =>
              { y with st := 0, mask := 0, lastPass := s.fb.cal, passed := satAdd 32 y.passed 1 } }
      else scanFail s3 t mask checker

def execScanTestDone (mask : Nat) (checker : Bool) (us : Nat) (s : State) : Host.Outcome State Fault Refusal :=
  act s fun s => scanDoneEff s mask checker us

end Sys2Proof.Machine
end

