-- ==== Sys2Proof/Machine/SampleOps.lean ====
section
/-! DEFINITION. A SAMPLE pick at its fetch, and the contexts of the privileged sampler (R242, R259, R260, R264, R438). -/

namespace Sys2Proof.Machine

/-- Bytes of a logit. -/
def logitBytes (fmt : Nat) : Nat := if fmt = 0 then 2 else 4

/-! ### The pick (R260, R438) -/

/-- The fields of a SAMPLE pick (R438), its key taken now, at the fetch (R242). -/
def parseSample (s : State) (n : Nat) (x : PickR) : SampleW :=
  { pick := n
    ctx := bitsAt (pkF x 0x10 1) 0 4
    cls := x.cls
    part := x.part
    fmt := bitsAt (pkF x 0x10 1) 4 1
    src := pkF x 0x18 8
    v := pkF x 0x14 4
    t := BitVec.ofNat 32 (pkF x 0x20 4)
    k := pkF x 0x12 2
    p := BitVec.ofNat 32 (pkF x 0x24 4)
    stream := pkF x 0x30 4
    position := pkF x 0x28 8
    epoch := pkF x 0x34 4
    key := partKey s x.part }

/-- A waiting pick may start: with ORDER its spool's earlier picks have completed (R428). -/
def smpReady (s : State) (w : SampleW) : Bool :=
  match pickOf s w.pick with
  | some x => orderMet s x
  | none => true

/-- The pick that a context serves: the one running, or the first of those that wait, in fetch order (R264). -/
def ctxHolder (s : State) (k : Nat) : Option SampleW :=
  match s.smp.run with
  | some w => if w.ctx = k then some w else s.smp.wait.find? fun q => q.ctx == k && smpReady s q
  | none => s.smp.wait.find? fun q => q.ctx == k && smpReady s q

/-- The partition that SMP_CTX_OWNER assigns a context to (R259). -/
def ctxOwner (s : State) (k : Nat) : Option Nat :=
  let o := 0x82000 + 8 * (k / 4)
  if regF s o (16 * (k % 4) + 15) 1 = 1 then some (regF s o (16 * (k % 4)) 10) else none

/-- The assignment in force: that of a context which serves a pick is the one with which it began to serve it, and a new one takes
effect when the pick completes (R259). -/
def ctxPart (s : State) (k : Nat) : Option Nat :=
  match smFind s.smp.serve k with
  | some (_, p) => p
  | none => ctxOwner s k

/-- A context begins to serve its next pick, with the assignment of now, once the last has left it (R259, R264). -/
def smpServe (s : State) (k : Nat) : State :=
  match ctxHolder s k, smFind s.smp.serve k with
  | none, _ => modSmp s fun m => { m with serve := smDel m.serve k }
  | some w, some (n, _) =>
    if n = w.pick then s else modSmp s fun m => { m with serve := smSet m.serve k (w.pick, ctxOwner s k) }
  | some w, none => modSmp s fun m => { m with serve := smSet m.serve k (w.pick, ctxOwner s k) }

/-- The same for every context. -/
def smpServeAll (s : State) : State := (List.range 16).foldl smpServe s

/-- V, T, K and P lie within their values (R260). -/
def smpParamOk (w : SampleW) : Bool :=
  1 ≤ w.v && w.v ≤ 2 ^ 24 && w.t.toNat < 0x7F800000 && 1 ≤ w.k && w.k ≤ 1024 && 1 ≤ w.p.toNat && w.p.toNat ≤ 0x3F800000

/-- The reserved fields of a SAMPLE pick are zero (R436, R438). -/
def smpFieldsOk (x : PickR) : Bool :=
  pkF x 0x10 1 < 32 && pkF x 0x11 1 == 0 && pkF x 0x18 8 < 2 ^ 48 && pkZero x 0x38 0x80

/-- The first status of R260 that a SAMPLE pick meets at its fetch; DONE where it is accepted (R260, R436). -/
def smpCheck (s : State) (x : PickR) (w : SampleW) : Nat :=
  if !(smpFieldsOk x) then stBadField
  else if ctxPart s w.ctx ≠ some x.part then stSamplerDenied
  else if !(smpParamOk w) then stBadParam
  else if !(ownedRange s x.part w.src (w.v * logitBytes w.fmt)) then stSourceDenied
  else stDone

/-- The fetch of a SAMPLE pick takes its key and checks it; the SAMPLE command acts on what it found (R242, R260). -/
def smpFetch (s : State) (n : Nat) (x : PickR) : State :=
  let w := parseSample s n x
  modSmp s fun m => { m with fetched := smSet m.fetched n (smpCheck s x w, w) }

/-- A pick takes its place among those that wait, in fetch order (R264). -/
def smpEnter (w : SampleW) (l : List SampleW) : List SampleW :=
  l.takeWhile (fun q => q.pick < w.pick) ++ w :: l.dropWhile fun q => q.pick < w.pick

end Sys2Proof.Machine
end

