-- ==== Sys2Proof/Machine/PartCmds.lean ====
section
/-! DEFINITION. Poison fills and the re-initialisation of a partition (R59, R64, R451, R464 to R467). -/

namespace Sys2Proof.Machine

/-! ### Fills (R59, R64) -/

/-- Bytes keyed by the granules of units [u, u + n) of a physical pair. -/
def inUnits (die pair u n k : Nat) : Bool :=
  let a := die * 2 ^ 28 + pair * 2 ^ 22 + u * 65536
  64 * a ≤ k && k < 64 * (a + n * 65536)

/-- Fill units of a physical pair with the poison mark, which is what an unlisted byte reads as (R59). -/
def fillUnits (m : List Host.Cell) (die pair u n : Nat) : List Host.Cell := m.filter fun c => !(inUnits die pair u n c.1)

/-- The places (die, position) whose pairs a region uses (R47). -/
def rgnPairs (s : State) (r : Region) : List (Nat × Nat) :=
  match r.kind with
  | .bankLocal => (rangeFrom r.r0 (r.r1 + 1 - r.r0)).flatMap fun d => (rangeFrom r.c0 (r.c1 + 1 - r.c0)).map fun p => (d, p)
  | _ => allPairs s

/-- Fill a region with the poison mark, in a pair being copied at both places (R64, R319). -/
def fillRegion (s : State) (r : Region) : State :=
  { s with mem := (rgnPairs s r).foldl (fun m dp =>
      let m1 := fillUnits m dp.1 (physPair s dp.1 dp.2) r.first r.count
      match s.warp.migr with
      | some g => if g.die = dp.1 ∧ g.pos = dp.2 then fillUnits m1 g.die g.spare r.first r.count else m1
      | none => m1) s.mem }

/-- A filled region: not initialised, in its image mode, with no mode change under way (R451, R465 step 8). -/
def rgnFresh (r : Region) : Region :=
  { r with init := false, banked := r.imgBanked, st := .idle, pick := none, drain := [], reassign := false }

/-! ### Damper caps (R454) -/

def capHearth (s : State) (p : Nat) : Int := (pageF s p 0x108 0 20 * 64 : Nat)
def capFlue (s : State) (p : Nat) : Int := (pageF s p 0x108 32 20 * 64 : Nat)
def capHob (s : State) (p : Nat) : Int := (pageF s p 0x110 0 32 : Nat)

/-! ### Re-initialisation -/

/-- Transactions under way for requests that carry a partition. -/
def txnsOf (s : State) (p : Nat) : List Nat := (s.ports.txns.filter fun kv => hPart kv.2.hdr == p).map (·.1)

/-- Refuse the requests of a partition that wait in their channel buffers (R464, R465 step 1). -/
def refuseWaiting (s : State) (p : Nat) : State :=
  let gone := s.ports.waitQ.flatMap fun kv => kv.2.filter fun w => hPart w.pkt.hdr == p
  let s1 := modPorts s fun q =>
    { q with waitQ := q.waitQ.filterMap fun kv =>
        let l := kv.2.filter fun w => hPart w.pkt.hdr != p
        if l.isEmpty then none else some (kv.1, l) }
  gone.foldl (fun t w => reply (if w.cred then freeCred t w.flue w.module (reqCred w.pkt) else t) w.mute w.flue w.module
    w.pkt.hdr 2 []) s1

/-- End every firing of a partition with PARTITION_RESET (R131, R465 step 2). -/
def resetFirings (s : State) (p : Nat) : State :=
  s.fir.all.foldl (fun t kv => if kv.2.part = p then firingEnd t kv.1 stPartReset true else t) s

/-- End every pick of a partition, writing records only to rings with target DIE (R465 step 2). -/
def resetPicks (s : State) (p : Nat) : State :=
  let s1 := s.spl.picks.foldl (fun t kv => if kv.2.part = p then pickDone t kv.1 stPartReset 0 [] else t) s
  let s2 := s1.spl.picks.foldl (fun t kv =>
    let x := kv.2
    match x.st with
    | .done st rs res =>
      if x.part = p ∧ (splOf t x.spool).die then
        recWrite t x.spool (recBytes x.tag x.seq x.ret x.opc 0 st x.alert rs res)
      else t
    | _ => t) s1
  modSpl s2 fun q =>
    { q with
      picks := smFilter q.picks fun _ x => x.part != p
      doneQ := q.doneQ.filter fun n => match smFind s2.spl.picks n with
        | some x => x.part != p
        | none => false }

/-- Retire the step contexts of a partition: epochs, ash records, norm slots, and the ACCWs and fences that wait for them
(R465 step 3). -/
def resetSteps (s : State) (p : Nat) : State :=
  let mine := (s.stp.ctxs.filter fun kv => kv.2.owner == p).map (·.1)
  let accs := s.stp.acc.filter fun kv => mine.contains kv.2.ctx
  let fncs := s.stp.fences.filter fun kv => mine.contains kv.2.ctx
  let gone (r : ColReq) : Bool := match r.op with
    | .acc n _ => accs.any fun a => a.1 == n
    | _ => false
  let s0 := modSched s fun c =>
    { c with pairs := smMap c.pairs fun _ p => { p with q := p.q.filter fun r => !(gone r) }
             portWait := c.portWait.filter fun e => !(gone e.2) }
  let s1 := modStp s0 fun t =>
    { t with
      ctxs := smFilter t.ctxs fun k _ => !(mine.contains k)
      acc := smFilter t.acc fun _ a => !(mine.contains a.ctx)
      fences := smFilter t.fences fun _ a => !(mine.contains a.ctx) }
  let s2 := accs.foldl (fun t kv => match kv.2.from_ with
    | some (fl, m, h) => complete t fl m h 2 []
    | none => t) s1
  fncs.foldl (fun t kv => reply t kv.2.mute kv.2.flue kv.2.module kv.2.hdr 2 []) s2

/-- End and free the streams and mirror records of a partition (R465 step 4). -/
def resetStreams (s : State) (p : Nat) : State :=
  let s1 := s.str.fans.foldl (fun t kv => if kv.2.owner = p then fanEnd t kv.1 1 else t) s
  let s2 := s1.str.smokes.foldl (fun t kv => if kv.2.owner = p then smkEnd t kv.1 true else t) s1
  let mine (e : LogEnt) : Bool := (smGet ({} : Twin) s2.str.twins e.who).owner == p
  modStr s2 fun u =>
    { u with
      fans := smFilter u.fans fun _ x => x.owner != p
      rxFan := smFilter u.rxFan fun _ x => x.owner != p
      rxSmoke := smFilter u.rxSmoke fun _ x => x.owner != p
      twinLog := u.twinLog.filter fun e => !(mine e)
      twinBytes := u.twinBytes - 64 * (u.twinLog.filter mine).length
      twins := smFilter u.twins fun _ x => x.owner != p
      smokes := smFilter u.smokes fun _ x => x.owner != p }

/-- Pending mode changes of a partition's regions end, leaving the mode (R465 step 2). -/
def resetModes (s : State) (p : Nat) : State :=
  { s with regions := smMap s.regions fun _ r =>
      if r.owner == p && !r.block then { r with st := .idle, pick := none, drain := [] } else r }

/-- Steps 1 to 6 of a re-initialisation (R465), its command waiting in mailbox `mb`. -/
def reinitStart (s : State) (p : Nat) (mb : Option Nat) : State :=
  let s1 := modPart s p fun x => { x with st := .reinit, bulk := 1, reinitBy := mb, reinitStep := 1, reinitWait := txnsOf s p }
  let s2 := refuseWaiting s1 p
  let s3 := resetFirings (resetModes s2 p) p
  let s4 := modSmp s3 fun m =>
    { m with
      wait := m.wait.filter fun w => w.part != p
      fetched := smFilter m.fetched fun _ e => e.2.part != p
      run := match m.run with
        | some w => if w.part = p then none else some w
        | none => none }
  let s5 := resetStreams (resetSteps (resetPicks (smpServeAll s4) p) p) p
  let s6 := modFir s5 fun f => { f with progs := f.progs.filter fun g => g.owner != some p }
  modSpl s6 fun q =>
    { q with
      creel := smFilter q.creel fun k _ => !(inSplRange s p k)
      cache := q.cache.filter fun k => !(inSplRange s p k)
      dbs := q.dbs.filter fun d => d.part != p }

/-- A request of the partition accepted before step 1 is not yet settled (R465 step 7). -/
def unsettled (s : State) (p : Nat) : Bool :=
  ((part s p).reinitWait.any fun n => (smFind s.ports.txns n).isSome) || s.stp.acc.any (fun kv => kv.2.part == p)
  || s.ports.fences.any (fun f => hPart f.hdr == p) || s.treads.any fun kv => kv.2.part == p

/-- The library fill firings that cover a region: one over its grid and its whole slice, or one for each parity of an accumulator
region, whose slices a firing reaches by halves (R89, R172, R465). -/
def fillsOf (k : Nat) (r : Region) : List FireF :=
  (List.range (if r.acc then 2 else 1)).map fun e =>
    { prog := 0xF0
      c0 := r.c0
      c1 := r.c1
      r0 := r.r0
      r1 := r.r1
      epoch := e
      nPer := opSpan r
      bsize := libBseg 0xF0
      ops := [{ rgn := k, d := 0, type := 15, used := true }] }

/-- Queue a fill firing of a partition: in the ash class, without a pick, its pattern the poison mark (R59, R465 step 8). -/
def fillAdmit (p : Nat) (s : State) (f : FireF) : State :=
  (admitFiring s
    { f := f
      part := p
      cls := 3
      code := (findProg s f.prog).getD {}
      seg := [⟨0, true⟩]
      fill := true }).2

/-- REINIT_REQUESTS_SETTLED: step 7 ends; the hob-time level is set to its cap and the fill firings of the regions are queued
(R465 step 8). -/
def reinitSettledEff (s : State) (p : Nat) : State :=
  if (part s p).st = .reinit ∧ (part s p).reinitStep = 1 ∧ !(unsettled s p) then
    (s.regions.flatMap fun kv => if kv.2.owner = p ∧ kv.2.block = false then fillsOf kv.1 kv.2 else []).foldl (fillAdmit p)
      (modPart s p fun x => { x with reinitStep := 2, reinitWait := [], lvlHob := capHob s p })
  else s

def execReinitRequestsSettled (part : Nat) (s : State) : Host.Outcome State Fault Refusal := act s fun s => reinitSettledEff s part

/-- The words of a partition's page that step 10 zeroes: HED_SEED, HED_MASK_EPOCH and HED_MASK_THR. -/
def hedWords (p off : Nat) : Bool :=
  let o := off - pageBase p
  pageBase p ≤ off && (o == 0x200 || o == 0x208 || (0x240 ≤ o && o < 0x280))

/-- A fill firing of the partition is not complete (R465 step 8). -/
def fillRuns (s : State) (p : Nat) : Bool := s.fir.all.any fun kv => kv.2.fill && kv.2.part == p

/-- REINIT_FILL_DONE: the fill firings are complete and steps 8 to 11 end: the regions hold the poison mark, the grant zeros, the page
is cleared, the levels stand at their caps, and the partition is ACTIVE (R465). What a fill firing that a test or an error ended
has not written is filled here (DESIGN CHOICE, log entry 91). -/
def reinitFillEff (s : State) (p : Nat) : State :=
  let x := part s p
  if x.st = .reinit ∧ x.reinitStep = 2 ∧ !(fillRuns s p) then
    let s1 := s.regions.foldl (fun t kv =>
      if kv.2.owner = p ∧ kv.2.block = false then modRgn (fillRegion t kv.2) kv.1 rgnFresh else t) s
    let s2 := { s1 with
                staging := stgZero s1.staging (pageF s p 0x010 0 10 * 0x10000) (pageF s p 0x010 16 10 * 0x10000)
                regs := smFilter s1.regs fun k _ => !(hedWords p k) }
    let s3 := setPart s2 p
      { st := .active
        lvlHearth := capHearth s p
        lvlHob := x.lvlHob
        lvlFlue := capFlue s p
        reinits := satAdd 16 x.reinits 1
        chHearth := x.chHearth
        chHob := x.chHob
        chFlue := x.chFlue }
    let s4 := match x.reinitBy with
      | some n => mboxDone s3 n 0
      | none => s3
    partAlert s4 p 6
  else s

def execReinitFillDone (part : Nat) (s : State) : Host.Outcome State Fault Refusal := act s fun s => reinitFillEff s part

end Sys2Proof.Machine
end

