-- ==== Sys2Proof/Machine/BootOps.lean ====
section
/-! DEFINITION. The flash directory, slots, image checks and version checks (R514 to R522, R529 to R537), power-state requests
(R509), and source switches (R500). -/

namespace Sys2Proof.Machine

/-! ### Directory and slots (R520, R521) -/

/-- The directory in force: the good copy with the higher sequence number; with neither good, both slots VALID and A
preferred (R520); the slot size then, which R520 does not give, is 16 MiB (DESIGN CHOICE, log entry 50). -/
def dirOf (s : State) : FlashDir :=
  let a := s.boot.dir0
  let b := s.boot.dir1
  if a.good ∧ (!b.good ∨ b.seq ≤ a.seq) then a else if b.good then b
  else { good := true, stA := .valid, stB := .valid }

/-- The directory as the last change still to be written will leave it. -/
def dirLatest (s : State) : FlashDir :=
  let ops := (match s.boot.op with
    | some o => [o]
    | none => []) ++ s.boot.opQ
  ops.foldl (fun d o => match o with
    | .dirWrite e => e
    | _ => d) (dirOf s)

/-- Queue a flash operation (R514). -/
def flashQueue (s : State) (o : FlashOp) : State := modBoot s fun b => { b with opQ := b.opQ ++ [o] }

/-- Queue a change of the directory (R520). -/
def dirChange (s : State) (f : FlashDir → FlashDir) : State :=
  flashQueue s (.dirWrite { f (dirLatest s) with good := true, seq := ((dirLatest s).seq + 1) % 2 ^ 32 })

def slotSt (d : FlashDir) (b : Bool) : SlotSt := if b then d.stB else d.stA
def setSlotSt (d : FlashDir) (b : Bool) (x : SlotSt) : FlashDir := if b then { d with stB := x } else { d with stA := x }
def slotAtt (d : FlashDir) (b : Bool) : Bool := if b then d.attB else d.attA
def setSlotAtt (d : FlashDir) (b x : Bool) : FlashDir := if b then { d with attB := x } else { d with attA := x }

/-- Write a directory change into the older copy (R520). -/
def dirCommit (b : Boot) (d : FlashDir) : Boot :=
  if b.dir0.good ∧ (!b.dir1.good ∨ b.dir1.seq ≤ b.dir0.seq) then { b with dir1 := d } else { b with dir0 := d }

def slotData (b : Boot) (x : Bool) : List Host.Cell := if x then b.slotBData else b.slotAData

/-- `n` bytes of a slot from offset `o`. -/
def slotBytes (s : State) (x : Bool) (o n : Nat) : List Byte :=
  (List.range n).map fun i => cellGet flashDefault (slotData s.boot x) (o + i)

/-- CONFIRM: the booted TRIAL slot becomes VALID and its attempt bit is cleared (R521). -/
def confirmEff (s : State) : State :=
  let x := s.boot.slotB
  if s.boot.st = .service ∧ slotSt (dirLatest s) x = .trial then
    dirChange s fun d => setSlotAtt (setSlotSt d x .valid) x false
  else s

def execConfirm (s : State) : Host.Outcome State Fault Refusal := act s fun s => confirmEff s

/-- A slot may be preferred: VALID or TRIAL (R521). -/
def slotPreferable (s : State) (x : Bool) : Bool := slotSt (dirLatest s) x == .valid || slotSt (dirLatest s) x == .trial

/-- NEXT_SLOT: a VALID or TRIAL slot becomes the preferred one (R521, R599). -/
def nextSlotEff (s : State) (x : Bool) : State :=
  if slotPreferable s x then dirChange (regSetF s 0x60018 8 1 (b2n x)) fun d => { d with prefB := x } else s

def execNextSlot (slotB : Bool) (s : State) : Host.Outcome State Fault Refusal := act s fun s => nextSlotEff s slotB

/-! ### Image checks (R515 to R517) -/

/-- The release of the macro, GLB_ID.RELEASE (R593). -/
def relMajor : Nat := 2
def relMinor : Nat := 1

/-- Section types of a header's table (R515, R516). -/
def sectionTypes (h : List Byte) : List Nat := (List.range (leAt h 0x26 2)).map fun i => leAt h (0x40 + 16 * i) 2

/-- The sections of a header lie where R516 has them: the scan data from the signed length to the total length, every other section
within the signed length (DEDUCED, log entry 94). -/
def sectionsPlaced (h : List Byte) : Bool :=
  (List.range (leAt h 0x26 2)).all fun i =>
    let off := leAt h (0x44 + 16 * i) 4
    let top := off + leAt h (0x48 + 16 * i) 4
    if leAt h (0x40 + 16 * i) 2 = 7 then leAt h 0x10 4 ≤ off && top ≤ leAt h 0x14 4 else top ≤ leAt h 0x10 4

/-- The format of an image is good (R515, R516). -/
def formatOk (s : State) (h : List Byte) : Bool :=
  let ts := sectionTypes h
  leAt h 0 4 == 0x484B5344 && leAt h 4 2 == 1 && leAt h 0x0C 4 ≤ leAt h 8 4 && leAt h 0x10 4 ≤ 0x2800000
  && leAt h 0x14 4 ≤ (dirOf s).slotSize && 3 ≤ leAt h 0x26 2 && leAt h 0x26 2 ≤ 32
  && (h.drop 0x28).take 24 == List.replicate 24 0 && ((h.drop 0x2A1).take 95).all (fun v => v == 0)
  && ts.all (fun t => 1 ≤ t && t ≤ 7) && ts.contains 1 && ts.contains 2 && ts.contains 4 && sectionsPlaced h

/-- The conditions of R517 on a header of at least 0x300 bytes, with the outcome of its signature check. -/
def signedOk (s : State) (h : List Byte) (sigOk : Bool) : Bool :=
  (match s.fb.imgDigest with
   | some d => sha256 ((h.drop 0x240).take 97) == keyBytes d
   | none => false)
  && sigOk && s.fb.secFloor ≤ leAt h 8 4 && leAt h 7 1 == relMajor && leAt h 6 1 ≤ relMinor

/-- Day number of the calendar (R533). -/
def calDay (c : Nat) : Nat := c / 86400000000

/-- The override that covers a triple now, if one does (R533). -/
def overrideFor (s : State) (rel fw lib : Nat) : Option Override :=
  if s.fb.calValid then
    s.fb.overrides.find? fun o => o.release == rel && o.fw == fw && o.lib == lib
      && (o.expiry == 0xFFFFFFFF || calDay s.fb.cal < o.expiry)
  else none

/-- A triple of the running release is tested (R531). -/
def tripleTested (fw lib : ImgPkg) : Bool :=
  let t := (0x0201, fw.version, lib.version)
  fw.tested.contains t || lib.tested.contains t || Config.romTested.contains t

/-- The record of an override used (R534, R564 code 0x0403). -/
def overrideUsed (s : State) (o : Override) : State :=
  report (modBoot s fun b => { b with overridden := true }) chBoot
    { evt s 0x0403 .info 534 with detA := Config.openCode 3 0x403 % 2 ^ 32, detB := o.expiry, keep := true }

/-- The record of an untested combination (R532, R564 code 0x0402), with its FAULT_N cause. -/
def versionRefused (s : State) : State :=
  report s chBoot { evt s 0x0402 .info 532 with detA := Config.openCode 3 0x402 % 2 ^ 32, causes := 2, keep := true }

/-- The record of a refused image or stack, with the die and the tile of a stack's failure, which the rule it breaks names, and all
ones for an image's (R523, R562, R564 code 0x0401), with its FAULT_N cause. -/
def bootRefused (s : State) (rule bst slot die pair : Nat) : State :=
  report s chBoot { evt s 0x0401 .info rule with detA := bst, detB := slot, die := die, pair := pair, causes := 1, keep := true }

/-! ### Live update (R536, R537) -/

/-- LIB_LOAD: the stokers begin to read the other slot; a load already running goes on (R536, R537). -/
def libLoadEff (s : State) : State :=
  if s.boot.st = .service ∧ s.boot.libLoad ≠ 1 then modBoot s fun b => { b with libLoad := 1, libFail := 0 } else s

def execLibLoad (s : State) : Host.Outcome State Fault Refusal := act s fun s => libLoadEff s

/-- Programs registered at run time (R177). -/
def runProgs (s : State) : List Prog := s.fir.progs.filter fun p => p.owner.isSome

/-- The firing library that an image registers: exactly the combinations of R162, R214 and R253, each with the record that the
library's rules give it and the image's words for it, at most 2 KiB of them for a matrix product or a selection (R162, R176, R214,
R253). -/
def libProgs (img : ImageIn) : List Prog :=
  ((List.range 0x1000).filter libIdOk).map fun id =>
    let words := ((img.lib.progs.find? fun p => p.id == id).map (·.code)).getD []
    { libRecord id (words.take (if 8 ≤ libRule id then 256 else 1024)) with gen := img.lib.version }

/-- The licensee programs of an image that the loader admits: their IDs are 0x1000 to 0x7FFF (R125, R126, R175, R176). -/
def licProgs (img : ImageIn) : List Prog :=
  (img.lic.map fun (p : Prog) => { p with owner := none, gen := img.lib.version }).filter fun p =>
    0x1000 ≤ p.id && p.id < 0x8000 && progRecordOk p && loaderCode p == 0

/-- Programs of an image as the registry takes them (R126, R175). -/
def imageProgs (img : ImageIn) : List Prog := libProgs img ++ licProgs img

/-- The first condition of R536 that a load fails, from 1; 0 where it passes. -/
def libFailCode (s : State) (img : ImageIn) : Nat :=
  let h := slotBytes s (!s.boot.slotB) 0 0x300
  if !(formatOk s h && signedOk s h img.sigOk && img.fw.sigOk && img.lib.sigOk) then 1
  else if img.fw.version ≠ s.boot.fwVer then 2
  else if !(tripleTested img.fw img.lib) ∧ overrideFor s 0x0201 img.fw.version img.lib.version = none then 3
  else if 1024 < (imageProgs img).length + (runProgs s).length then 4
  else if (s.str.twins.any fun kv => kv.2.st != .unpaired) ∧ img.lib.version / 256 ≠ s.boot.libVer / 256 then 5
  else 0

/-- LIB_LOAD_EDGE: the load ends; the registered set and GLB_LIB_VER are replaced at one edge, or the load is refused
(R536). -/
def libLoadEdgeEff (s : State) (img : ImageIn) : State :=
  if s.boot.libLoad ≠ 1 then s
  else
    let c := libFailCode s img
    if c = 0 then
      let s1 := modBoot ((imageProgs img).foldl progAdd (modFir s fun f => { f with progs := f.progs.filter fun p => p.owner.isSome }))
        fun b => { b with libLoad := 2, libVer := img.lib.version, libOther := true }
      if tripleTested img.fw img.lib then s1
      else match overrideFor s 0x0201 img.fw.version img.lib.version with
        | some o => overrideUsed s1 o
        | none => s1
    else
      let s1 := modBoot s fun b => { b with libLoad := 3, libFail := c, refusal := if c = 3 then 532 else 536 }
      if c = 3 then versionRefused s1 else s1

def execLibLoadEdge (img : ImageIn) (s : State) : Host.Outcome State Fault Refusal := act s fun s => libLoadEdgeEff s img

/-! ### Writing a slot (R522) -/

/-- A requester may write the armed slot now (R522). -/
def flashWriter (s : State) (rq : Requester) : Bool :=
  regF s 0x60020 0 1 == 1 && (match rq with
    | .mgmt => true
    | _ => regF s 0x60020 2 1 == 0 && rqPart rq == some (regF s 0x60020 12 10))

/-- The armed slot is neither the booted one nor the source of the running library (R522). -/
def slotFree (s : State) : Bool :=
  let x := regF s 0x60020 1 1 == 1
  if s.boot.st = .service then x != s.boot.slotB && !s.boot.libOther else true

/-- A write of BT_FLASH_CMD: the command's number, and what it does when it is allowed (R522, R599). One that is refused while STATE
is busy leaves BT_FLASH_STAT busy (DESIGN CHOICE, log entry 50). -/
def flashCmd (s : State) (rq : Requester) (n : Nat) (ok : Bool) (f : State → State) : State :=
  if s.boot.flSt = 1 then s
  else if flashWriter s rq && slotFree s && ok then f (modBoot s fun b => { b with flSt := 1, flCmd := n })
  else modBoot s fun b => { b with flSt := 3, flCmd := n }

def eraseEff (s : State) (rq : Requester) : State :=
  flashCmd s rq 1 true fun s => flashQueue s (.erase (regF s 0x60020 1 1 == 1))

/-- ERASE (R522). -/
def execErase (rq : Requester) (s : State) : Host.Outcome State Fault Refusal := act s fun s => portAccess s rq fun t => eraseEff t rq

/-- PROGRAM: 64 KiB from BT_FLASH_SRC, in the writer's staging grant, to a 64 KiB offset of the slot (R522); the management port, which
has no grant, may name any general staging (DESIGN CHOICE, log entry 50). -/
def programEff (s : State) (rq : Requester) (off : Nat) : State :=
  let src := regF s 0x60030 0 48
  let o := src - stgWin
  let ok := src % 64 == 0 && stgWin ≤ src && (match rqPart rq with
      | some p => inGrant s p o 0x10000
      | none => decide (o + 0x10000 ≤ stgSootBase s.staging))
    && decide ((off + 1) * 0x10000 ≤ (dirOf s).slotSize)
  flashCmd s rq 2 ok fun s => flashQueue s (.program (regF s 0x60020 1 1 == 1) (off * 0x10000) (stgBytes s.staging o 0x10000))

def execProgram (rq : Requester) (off : Nat) (s : State) : Host.Outcome State Fault Refusal :=
  act s fun s => portAccess s rq fun t => programEff t rq off

/-- MARK_TRIAL: the slot becomes TRIAL and preferred with its attempt bit clear, and is disarmed (R522). -/
def markTrialEff (s : State) (rq : Requester) : State :=
  flashCmd s rq 3 true fun s =>
    let x := regF s 0x60020 1 1 == 1
    dirChange (regSetF s 0x60020 0 1 0) fun d => { setSlotAtt (setSlotSt d x .trial) x false with prefB := x }

def execMarkTrial (rq : Requester) (s : State) : Host.Outcome State Fault Refusal :=
  act s fun s => portAccess s rq fun t => markTrialEff t rq

/-- FLASH_ARM_EXPIRES: 60 s after it was set, ARMED clears (R599). -/
def execFlashArmExpires (s : State) : Host.Outcome State Fault Refusal := act s fun s => regSetF s 0x60020 0 1 0

/-- The flash operation that runs, or else the one that is first in the order of R514: the fireback's before the others. -/
def flashFirst (s : State) : Option FlashOp :=
  match s.boot.op with
  | some o => some o
  | none =>
    if s.flt.histDue ∧ !s.flt.fallback then some .histWrite
    else s.boot.opQ.head?

/-- Boot in HALT_IMAGE or HALT_FLASH tries again when the directory or a slot has changed (R523). -/
def haltRetry (s : State) : State :=
  if s.boot.st = .haltImage ∨ s.boot.st = .haltFlash then
    modBoot s fun b => { b with st := .flash, failedA := false, failedB := false, verRefused := false }
  else s

/-- A directory change that was asked for from outside: another preferred slot, or a slot made TRIAL or VALID (R521 to R523); boot's
own changes mark a slot BAD or set an attempt bit. -/
def dirAsked (o n : FlashDir) : Bool :=
  o.prefB != n.prefB || (o.stA != n.stA && n.stA != .bad) || (o.stB != n.stB && n.stB != .bad)

/-- What a flash operation leaves when it ends well. -/
def flashEffect (s : State) : FlashOp → State
  | .histWrite => historyCommit s
  | .dirWrite d =>
    let t := modBoot s fun b => { dirCommit b d with flSt := if b.flSt = 1 ∧ b.flCmd = 3 then 2 else b.flSt }
    if dirAsked (dirOf s) d then haltRetry t else t
  | .erase x => haltRetry (modBoot s fun b =>
      if x then { b with slotBData := [], flSt := 2 } else { b with slotAData := [], flSt := 2 })
  | .program x o ds => haltRetry (modBoot s fun b =>
      let old := slotData b x
      let new := (List.range ds.length).foldl (fun m i =>
        cellSet flashDefault m (o + i) (cellGet flashDefault old (o + i) &&& byteAt ds i)) old
      if x then { b with slotBData := new, flSt := 2 } else { b with slotAData := new, flSt := 2 })

/-- FLASH_OPERATION_DONE: the operation that is first ends, and the next begins (R514); a failure makes the fault log fall back
where the fireback made it (R568), and shows in BT_FLASH_STAT where a slot was written (R599). -/
def flashDoneEff (s : State) (ok : Bool) : State :=
  match flashFirst s with
  | none => s
  | some o =>
    let s0 := modBoot s fun b => { b with op := none, opQ := if b.op.isSome then b.opQ else b.opQ.erase o }
    let s1 := if ok then flashEffect s0 o
      else if o = .histWrite then logFallback (modFlt s0 fun f => { f with histDue := false }) 1 0x100000
      else modBoot s0 fun b => { b with flSt := if b.flSt = 1 then 4 else b.flSt }
    match s1.boot.opQ with
    | p :: q => modBoot s1 fun b => { b with op := some p, opQ := q }
    | [] => s1

def execFlashOperationDone (ok : Bool) (s : State) : Host.Outcome State Fault Refusal := act s fun s => flashDoneEff s ok

/-! ### Power-state requests (R509) -/

/-- RETAIN_REQUEST: REQ is written RETAIN (R509, R598). -/
def retainReqEff (s : State) : State :=
  let s1 := regSetF s 0x50028 0 1 1
  match s.clk.pst with
  | .service => modClk s1 fun c => { c with pst := .retainEntry }
  | .retainExit => modClk s1 fun c => { c with reqLater := true }
  | _ => s1

def execRetainRequest (s : State) : Host.Outcome State Fault Refusal := act s fun s => retainReqEff s

/-- SERVICE_REQUEST: REQ is written SERVICE (R509, R511). -/
def serviceReqEff (s : State) : State :=
  let s1 := regSetF s 0x50028 0 1 0
  match s.clk.pst with
  | .retainEntry => modClk s1 fun c => { c with pst := .service }
  | .retain => retainExit s1
  | .retainExit => modClk s1 fun c => { c with reqLater := false }
  | .service => s1

def execServiceRequest (s : State) : Host.Outcome State Fault Refusal := act s fun s => serviceReqEff s

/-! ### Source selectors (R500) -/

/-- A target of REF_SEL is ready (R500). -/
def refReadyFor (s : State) (sel : Nat) : Bool :=
  match sel with
  | 1 => s.clk.refReady
  | 2 => !s.ports.markLost
  | _ => true

end Sys2Proof.Machine
end

