-- ==== Sys2Proof/Machine/SchedCmds.lean ====
section
/-! DEFINITION. Meanings of the scheduler's and the warp protection's events (R272 to R293, R307, R315, R550, R572,
R622, R625). -/

namespace Sys2Proof.Machine

/-- REFRESH_INTERVAL: every interval adds 1 to the group's debt, up to +8 (R273). -/
def refreshIntervalEff (s : State) (die pos grp : Nat) : State :=
  if die < s.boot.dies ∧ pos < 32 ∧ grp < 4 then
    let p := pairAt s die pos
    setPair s die pos (setDebt p grp (min 8 (debtOf p grp + 1)))
  else s

def execRefreshInterval (die pos grp : Nat) (s : State) : Host.Outcome State Fault Refusal :=
  act s fun s => refreshIntervalEff s die pos grp

/-- Signed value of TS_VAL (R622). -/
def tsTemp (v : BitVec 13) : Int := v.toInt

/-- The hottest core-die sensor (R272). -/
def hottest (s : State) : Int :=
  (List.range s.boot.dies).foldl (fun t d => max t (smGet ({} : TsvDie) s.sched.dies d).temp) (-4096)

/-- Move a pair to calibration due when its die has moved 5 °C since its last one (R292). -/
def calOnMove (s : State) (die : Nat) (t : Int) : State :=
  (List.range 32).foldl (fun u pos =>
    let p := pairAt u die pos
    if 80 ≤ (t - p.calTemp).natAbs then setPair u die pos { p with calDue := true } else u) s

/-- THERMAL_SENSOR_STROBE: the hub takes the value; above HOT_C refresh counts at half interval; a move of 5 °C makes
the die's pairs due for calibration (R272, R292, R486, R622). -/
def thermalStrobeEff (s : State) (die : Nat) (v : BitVec 13) : State :=
  if die < s.boot.dies then
    let s1 := modSched s fun c => { c with dies := smMod {} c.dies die fun d => { d with temp := tsTemp v, tsAge := 0 } }
    let s2 := calOnMove s1 die (tsTemp v)
    if 16 * (regF s 0x30028 32 8 : Int) < hottest s2 then modSched s2 fun c => { c with hot := true } else s2
  else s

def execThermalSensorStrobe (die : Nat) (val : BitVec 13) (s : State) : Host.Outcome State Fault Refusal :=
  act s fun s => thermalStrobeEff s die val

/-- REFRESH_HOT_EXIT: with every sensor at least 3 °C below the limit, refresh counts at tREFI again (R272). -/
def refreshHotExitEff (s : State) : State :=
  if hottest s + 48 ≤ 16 * (regF s 0x30028 32 8 : Int) then modSched s fun c => { c with hot := false } else s

def execRefreshHotExit (s : State) : Host.Outcome State Fault Refusal := act s fun s => refreshHotExitEff s

/-- Energy that one 20 ns part of the window releases, pJ: the least of the budget in force, the governor limit and the
ramp ceiling (R284); during boot the governor limit alone (R525). -/
def windowPart (s : State) : Nat :=
  if s.boot.st = .service then
    min (10000 * min (fld s.sched.draught 0 9) s.fb.gov) (f32Floor s.sched.ceiling 20000)
  else 10000 * s.fb.gov

/-- DRAUGHT_RELEASE: one part of the budget is released, the ember reserve set aside within it, the reserve that ember
has not spent joins the rest, and nothing unspent passes into a new window; arrears are deducted (R284 to R286). -/
def draughtReleaseEff (s : State) : State :=
  let part := windowPart s
  modSched s fun c =>
    let fresh := c.slot = 4
    let base : Int := if fresh then min c.avail 0 else c.avail + c.reserve
    let res := min part (1000 * regF s 0x30060 16 8)
    { c with
      slot := if fresh then 0 else c.slot + 1
      avail := base + part - res - c.arrears
      reserve := res
      arrears := 0
      blocked := 4 }

def execDraughtRelease (s : State) : Host.Outcome State Fault Refusal := act s fun s => draughtReleaseEff s

/-- REQUEST_AGED: a coal or ash request past its age limit is raised to flame; a limit of 0 turns raising off (R279). -/
def requestAgedEff (s : State) (die pos idx : Nat) : State :=
  let p := pairAt s die pos
  match p.q[idx]? with
  | none => s
  | some r =>
    if (r.cls = 2 ∧ regF s 0x30040 0 16 ≠ 0) ∨ (r.cls = 3 ∧ regF s 0x30040 32 16 ≠ 0) then
      setPair s die pos { p with q := listSet p.q idx { r with cls := 1 } }
    else s

def execRequestAged (die pos idx : Nat) (s : State) : Host.Outcome State Fault Refusal :=
  act s fun s => requestAgedEff s die pos idx

/-- CALIBRATION_DUE: a calibration of the pair falls due (R292). -/
def calibrationDueEff (s : State) (die pos : Nat) : State :=
  if die < s.boot.dies ∧ pos < 32 then setPair s die pos { pairAt s die pos with calDue := true } else s

def execCalibrationDue (die pos : Nat) (s : State) : Host.Outcome State Fault Refusal :=
  act s fun s => calibrationDueEff s die pos

/-- CALIBRATION_DEFERRAL_BOUND: a due calibration is raised to position 1 (R292). -/
def calibrationBoundEff (s : State) (die pos : Nat) : State :=
  let p := pairAt s die pos
  if p.calDue then setPair s die pos { p with calOver := true } else s

def execCalibrationDeferralBound (die pos : Nat) (s : State) : Host.Outcome State Fault Refusal :=
  act s fun s => calibrationBoundEff s die pos

/-! ### Lane-group retraining (R293) -/

def tsvDie (s : State) (die : Nat) : TsvDie := smGet {} s.sched.dies die
def setTsv (s : State) (die : Nat) (d : TsvDie) : State := modSched s fun c => { c with dies := smSet c.dies die d }

/-- Ask for a retraining: it starts when the die is not within 50 µs of its last, and waits otherwise (R293). -/
def tsvRequest (s : State) (die grp : Nat) : State :=
  let d := tsvDie s die
  if d.busy.isNone ∧ d.spacing = false then setTsv s die { d with busy := some grp, spacing := true }
  else modSched (setTsv s die { d with wait := d.wait ++ [grp] }) fun c => { c with tsvWait := c.tsvWait + 1 }

/-- TSV_RETRAIN_DUE (R625). -/
def tsvRetrainDueEff (s : State) (die grp : Nat) : State :=
  if die < s.boot.dies ∧ grp < 34 then tsvRequest s die grp else s

def execTsvRetrainDue (die grp : Nat) (s : State) : Host.Outcome State Fault Refusal :=
  act s fun s => tsvRetrainDueEff s die grp

/-- TSV_RETRAIN_DONE: the 1 µs ends and the traffic is steered back (R293). -/
def tsvRetrainDoneEff (s : State) (die : Nat) : State := setTsv s die { tsvDie s die with busy := none }

def execTsvRetrainDone (die : Nat) (s : State) : Host.Outcome State Fault Refusal := act s fun s => tsvRetrainDoneEff s die

/-- TSV_RETRAIN_WAIT_END: the 50 µs spacing passes and a waiting request of the die begins (R293). -/
def tsvWaitEndEff (s : State) (die : Nat) : State :=
  let d := tsvDie s die
  match d.wait with
  | [] => setTsv s die { d with spacing := false }
  | g :: gs =>
    if d.busy.isNone then setTsv s die { d with busy := some g, spacing := true, wait := gs }
    else setTsv s die { d with spacing := false }

def execTsvRetrainWaitEnd (die : Nat) (s : State) : Host.Outcome State Fault Refusal := act s fun s => tsvWaitEndEff s die

/-! ### Scrub queue and sweep -/

/-- SCRUB_QUEUE_SERVICE: the entry at the front is read and rewritten, corrected or as poison, in a slot that is free for the
sweep (R278, R307, R308, R316). -/
def scrubServiceEff (s : State) (die pos : Nat) : State :=
  if colSlotFree s die pos (sweepLim s die pos) then (scrubOne s die pos).getD s else s

def execScrubQueueService (die pos : Nat) (s : State) : Host.Outcome State Fault Refusal :=
  act s fun s => scrubServiceEff s die pos

/-- SCRUB_VERIFY_READ: the second read separates hard from soft; a granule that something has written since is soft
(R316, R572). -/
def scrubVerifyEff (s : State) (die pos : Nat) : State :=
  let p := pairAt s die pos
  match p.verify with
  | [] => s
  | v :: vs =>
    if !(colSlotFree s die pos (sweepLim s die pos)) then s
    else match sweepPay s die pos v.1 (eRd s) with
      | none => s
      | some t =>
        let s1 := setPair t die pos
          { pairAt t die pos with verify := vs, overwritten := p.overwritten.filter (· != v.1) }
        let r := readRaw s1 die pos v.1
        classify r.2.2 die pos v.1 v.2
          (if p.overwritten.contains v.1 then (if v.2 then .poison else .clean) else r.1)

def execScrubVerifyRead (die pos : Nat) (s : State) : Host.Outcome State Fault Refusal :=
  act s fun s => scrubVerifyEff s die pos

/-- SWEEP_VISIT: the walk goes on by one granule (R314, R315). -/
def sweepVisitEff (s : State) : State := if tilesSleep s then s else sweepStep s

def execSweepVisit (s : State) : Host.Outcome State Fault Refusal := act s fun s => sweepVisitEff s

/-! ### Soot records (R548, R550) -/

/-- The 32 bytes of a soot record with sequence number `seq` (R548). -/
def sootBytes (x : SootRec) (seq : Nat) : List Byte :=
  leBytes 8 x.time.toNat ++ leBytes 4 seq ++ leBytes 1 x.type ++ leBytes 1 (b2n x.block + 16 * (x.epoch % 16))
    ++ leBytes 2 (x.part % 1024 + 1024 * (x.cls % 4)) ++ leBytes 16 x.payload.toNat

/-- Records that a ring holds (R547). -/
def ringSize (r : SootRing) : Nat := 2048 * 2 ^ fld r.cfg 16 4

/-- Staging offset of record number `n` of a ring (R547). -/
def ringOff (s : State) (r : SootRing) (n : Nat) : Nat :=
  stgSootBase s.staging + fld r.cfg 0 10 * 0x10000 + n % ringSize r * 32

/-- Write one record into a ring; WR advances after it (R550). -/
def ringPut (s : State) (k : Nat) (r : SootRing) (x : SootRec) : State :=
  let w := ringOff s r r.wr / 32
  let g := (stgWrite s.staging w [(⟨bytesGran (sootBytes x r.wr), false⟩, BitVec.allOnes 32)]).2
  modObs { s with staging := g } fun o => { o with rings := smSet o.rings k { r with wr := r.wr + 1 } }

/-- SOOT_RECORD_WRITE: the record at the front of the queue is written, lost in a full STOP ring, or overwrites the
oldest record of a WRAP ring; after a loss the ring's next record is a LOSS record (R550). -/
def sootWriteEff (s : State) : State :=
  match s.obs.sootQ with
  | [] => s
  | (k, x) :: rest =>
    let r := smGet ({} : SootRing) s.obs.rings k
    let popped := modObs s fun o => { o with sootQ := rest }
    if fld r.cfg 21 1 = 0 then popped
    else if fld r.cfg 20 1 = 1 ∧ ringSize r ≤ r.wr - r.rd then
      modObs popped fun o =>
        { o with rings := smSet o.rings k { r with lostNow := r.lostNow + 1, lost := r.lost + 1 } }
    else if 0 < r.lostNow then
      let loss : SootRec := { time := atime s, type := 8, block := true, epoch := s.obs.epoch % 16, part := 0, cls := 0,
                              payload := payload [(0, 32, r.lostNow)] }
      ringPut s k { r with lostNow := 0 } loss
    else ringPut popped k r x

def execSootRecordWrite (s : State) : Host.Outcome State Fault Refusal := act s fun s => sootWriteEff s

end Sys2Proof.Machine
end

