-- ==== Sys2Proof/Machine/FbCmds.lean ====
section
/-! DEFINITION. The fireback's mailboxes, its authenticated commands, its calendar and its governor (R468 to R492). -/

namespace Sys2Proof.Machine

/-! ### Mailboxes (R473 to R480) -/

def mboxOf (s : State) (n : Nat) : Mbox := smGet {} s.fb.mbox n
def setMbox (s : State) (n : Nat) (m : Mbox) : State := modFb s fun f => { f with mbox := smSet f.mbox n m }

/-- A requester may write mailbox `n`: the management port its own, an agent that of a partition it may present (R473). -/
def mboxAllowed (s : State) (rq : Requester) (n : Nat) : Bool :=
  match rq with
  | .mgmt => n == 0
  | .hearth _ _ _ => 1 ≤ n && n ≤ 1024 && mayPresent s rq (n - 1)
  | .flue _ _ => false

/-- Offset of mailbox `n` in the register window (R601). -/
def mboxBase (n : Nat) : Nat := 0xF40000 + 256 * n

/-- FB_MBOX_GO: an IDLE or DONE mailbox is copied and is PENDING; in any other state the write is counted (R475). -/
def mboxGoEff (s : State) (rq : Requester) (n : Nat) : State :=
  if mboxAllowed s rq n then
    let m := mboxOf s n
    if m.st = .idle ∨ m.st = .done then
      qBump (setMbox s n
        { m with
          st := .pending
          copy := (List.range 0xF0).map fun i => smGet 0 m.bytes i
          status := 0
          detail := 0
          counter := 0
          counted := false }) (qKey 15 0 0 0 0)
    else setMbox s n { m with ignored := satAdd 5 m.ignored 1 }
  else reportRwf s rq (mboxBase n + 0xF0)

def execFbMboxGo (rq : Requester) (mbox : Nat) (s : State) : Host.Outcome State Fault Refusal :=
  act s fun s => portAccess s rq fun t => mboxGoEff t rq mbox

/-- The mailbox to evaluate next: the management mailbox, or the partition mailboxes in turn, from the partition mailbox served
last (R475). -/
def mboxNext (s : State) : Option Nat :=
  let p := (s.fb.mbox.filter fun kv => kv.2.st == .pending).map (·.1)
  if p.contains 0 then some 0
  else match p.find? (fun n => s.fb.lastMbox < n) with
    | some n => some n
    | none => p.head?

/-- Fields of a command copy (R474). -/
def cmOpcode (c : List Byte) : Nat := leAt c 0 2
def cmSlot (c : List Byte) : Nat := leAt c 2 1
def cmLen (c : List Byte) : Nat := leAt c 4 2
def cmCounter (c : List Byte) : Nat := leAt c 8 8
def cmPayload (c : List Byte) : List Byte := (c.drop 0x10).take (cmLen c)

/-- The key slot that R481 gives a command: 1 for VERSION_OVERRIDE and for KEY_SET with target slot 1. -/
def slotFor (c : List Byte) : Nat :=
  if cmOpcode c = 0x000D ∨ (cmOpcode c = 0x000C ∧ byteAt c 0x10 = 1) then 1 else 0

/-- The tag that a command must carry under a key (R474). -/
def cmTag (key : BitVec 256) (c : List Byte) : List Byte :=
  (hmac (keyBytes key) (leBytes 8 Config.fusedUid.toNat ++ c.take (0x10 + cmLen c))).take 16

/-- Check 4: the tag matches under the key of the slot; a slot without a key fails (R471, R476). -/
def tagOk (s : State) (c : List Byte) : Bool :=
  match (if cmSlot c = 0 then s.fb.key0 else s.fb.key1) with
  | some k => (c.drop 0xD0).take 16 == cmTag k c
  | none => false

/-- Check 2 (R476): the length, the reserved bytes and the opcode. -/
def formatGood (c : List Byte) : Bool :=
  cmLen c ≤ 192 && leAt c 3 1 == 0 && leAt c 6 2 == 0 && leAt c 0xE0 16 == 0 && 1 ≤ cmOpcode c && cmOpcode c ≤ 13

/-- The status of the first of checks 1 to 6 that fails; 0 where all pass (R476). -/
def checkCode (s : State) (m : Mbox) : Nat :=
  let c := m.copy
  if m.locked then 1
  else if !(formatGood c) then 2
  else if cmSlot c ≠ slotFor c then 3
  else if !(tagOk s c) then 4
  else if cmCounter c ≤ s.fb.ctr then 5
  else if s.fb.resv < cmCounter c then 6
  else 0

/-- A BAD_TAG result counts toward lockout: the sixteenth within 1 s locks the mailbox, is logged, and sets the LOCKOUT cause
(R478). -/
def badTag (s : State) (n : Nat) (m : Mbox) : State :=
  let ts := (m.badTags.filter fun t => s.fb.uptime < t + 1000000) ++ [s.fb.uptime]
  if 16 ≤ ts.length then
    fbEvent (setMbox s n { m with badTags := [], locked := true })
      { evt s 0x0801 .info 478 with
        part := if n = 0 then none else some (n - 1), detA := if n = 0 then 2 else 0, detB := n, addr := mboxBase n, alerts := 64 }
  else setMbox s n { m with badTags := ts }

/-- Opcodes whose sequence needs the tiles (R511). -/
def needsTiles (opc : Nat) : Bool := opc == 2 || opc == 3 || opc == 4 || opc == 9 || opc == 10

/-- MAILBOX_EVALUATION: checks 1 to 6 on the next PENDING mailbox; one that passes waits, EVALUATING, for its command
(R475, R476). -/
def mboxEvalEff (s : State) : State :=
  if !fbRuns s ∨ (s.fb.mbox.any fun kv => kv.2.st == .evaluating) then s
  else match mboxNext s with
    | none => s
    | some n =>
      let m := mboxOf s n
      let s1 := modFb s fun f => { f with lastMbox := if n = 0 then f.lastMbox else n }
      let c := checkCode s m
      let m1 := { m with status := c, counter := cmCounter m.copy % 2 ^ 32, opcode := cmOpcode m.copy }
      if c = 0 then
        let s2 := setMbox s1 n { m1 with st := .evaluating, counted := true }
        if needsTiles m1.opcode then retainExit s2 else s2
      else if c = 4 then badTag s1 n { m1 with st := .done }
      else setMbox s1 n { m1 with st := .done }

def execMailboxEvaluation (s : State) : Host.Outcome State Fault Refusal := act s fun s => mboxEvalEff s

/-- LOCKOUT_END (R478). -/
def lockoutEndEff (s : State) (n : Nat) : State := setMbox s n { mboxOf s n with locked := false, badTags := [] }

def execLockoutEnd (mbox : Nat) (s : State) : Host.Outcome State Fault Refusal := act s fun s => lockoutEndEff s mbox

/-- FB_CMD_CTR takes a counter; past the midpoint of the reservation a new one is to be written (R476, R477). -/
def ctrTake (s : State) (c : Nat) : State :=
  modFb s fun f =>
    { f with
      ctr := c
      resvWrite := if (f.resvPrev + f.resv) / 2 < c ∧ f.resvWrite = none then some (c + 2 ^ 20) else f.resvWrite }

/-- COUNTER_RESERVATION_WRITE: the write of a new reservation ends (R477); a failure is a flash failure of R568 too. -/
def resvWriteEff (s : State) (ok : Bool) : State :=
  match s.fb.resvWrite with
  | none => s
  | some v =>
    if s.boot.op.isSome ∨ !fbRuns s then s
    else if ok then
      modFb s fun f => { f with resvPrev := f.resv, resv := v, flResv := v, resvWrite := none, resvFail := false }
    else logFallback (fbAlert (modFb s fun f => { f with resvWrite := none, resvFail := true }) 128) 2 0x20000

def execCounterReservationWrite (ok : Bool) (s : State) : Host.Outcome State Fault Refusal := act s fun s => resvWriteEff s ok

/-- Checks 7 and 8 and the outcome of a command of opcode `k` (R476): `chk` gives the label of the rule that refuses it, with
what such a refusal changes besides; `run` is its effect, after which an immediate command is DONE. -/
def mboxCmd (s : State) (n k : Nat) (chk : State → List Byte → Option Nat) (onRefuse : State → State)
    (run : State → List Byte → State) : State :=
  let m := mboxOf s n
  if m.st ≠ .evaluating ∨ m.opcode ≠ k ∨ !fbRuns s then s
  else
    let c := m.copy
    let s1 := ctrTake s (cmCounter c)
    match chk s1 (cmPayload c) with
    | some lab => onRefuse (setMbox s1 n { m with st := .done, status := 7, detail := lab })
    | none =>
      if s.fb.mbox.any fun kv => kv.2.st == .running && kv.2.opcode == k then setMbox s1 n { m with st := .done, status := 8 }
      else
        let s2 := logRecord s1 { evt s1 0x0802 .info 476 with
          part := if n = 0 then none else some (n - 1), detA := k, detB := cmCounter c } 0 0
        run (setMbox s2 n { m with st := .done, status := 0 }) (cmPayload c)

/-- The mailbox of a command that has started a sequence is RUNNING until it ends (R476). -/
def mboxRun (s : State) (n : Nat) : State := setMbox s n { mboxOf s n with st := .running }

/-! ### RWF_WRITE (R479, R481, R500, R507) -/

/-- An entry of RWF_WRITE: offset, mask, value. The mask and the value act on the half word at the entry's offset (R8,
R481). -/
def rwfEntries (p : List Byte) : List RwfEntry :=
  (chunksOf 16 (p.length / 16) p).map fun b =>
    let off := leAt b 0 4
    let sh := 8 * (off % 8)
    { off := off - off % 8, mask := BitVec.ofNat 64 (leAt b 4 4 * 2 ^ sh), val := BitVec.ofNat 64 (leAt b 8 8 * 2 ^ sh) }

/-- Every entry lies at a multiple of 4 bytes (R8). -/
def rwfAligned (p : List Byte) : Bool := (chunksOf 16 (p.length / 16) p).all fun b => leAt b 0 4 % 4 == 0

/-- Where the RWF fields of a word lie, as a mask. -/
def rwfBits (off : Nat) : W64 :=
  ((fieldsAt off).filter fun f => f.acc == .rwf).foldl (fun w f => w ||| put f.lo f.w (2 ^ f.w - 1)) 0

/-- An RWF word is written under a mask (R481). -/
def rwfApply (s : State) (e : RwfEntry) : State := regSet s e.off (applyFields .rwf (fieldsAt e.off) (regRd s e.off) e.mask e.val)

/-- Pages with a staging grant or a changed range among the stored words. -/
def grants (s : State) : List (Nat × Nat × Nat) :=
  (s.regs.filter fun kv => inPages kv.1 && (kv.1 - 0x200000) % 4096 == 0x10).filterMap fun kv =>
    let p := (kv.1 - 0x200000) / 4096
    let b := pageF s p 0x010 0 10
    let n := pageF s p 0x010 16 10
    if n = 0 then none else some (p, b, b + n)

/-- Two staging grants overlap (R450). -/
def grantsOverlap (s : State) : Bool :=
  (grants s).any fun a => (grants s).any fun b => a.1 != b.1 && a.2.1 < b.2.2 && b.2.1 < a.2.2

/-- The rates of the ACTIVE partitions sum to more than the guaranteed capacities (R450, R460). -/
def ratesExceed (s : State) : Bool :=
  let act := (s.parts.filter fun kv => kv.2.st == .active).map (·.1)
  let sum (lo w : Nat) : Nat := (act.map fun p => pageF s p 0x100 lo w).foldl (· + ·) 0
  50000 * s.boot.dies < 16 * sum 0 16 || 460000 * s.boot.dies < 16 * sum 32 19 || 46875 < sum 16 16

/-- A spool range overlaps another, or a spool that is not DISABLED changes owner or falls outside its owner's range
(R420). -/
def rangesBad (s : State) (ps : List Nat) : Bool :=
  let lo (p : Nat) : Nat := pageF s p 0x018 0 20
  let hi (p : Nat) : Nat := lo p + pageF s p 0x018 32 21
  (ps.any fun p => (List.range 1024).any fun q => p != q && lo p < hi q && lo q < hi p && lo p < hi p && lo q < hi q)
  || s.spl.creel.any fun kv => kv.2.st != .disabled && !(inSplRange s kv.2.owner kv.1)

/-- The label of the rule under which the fireback refuses a set of entries, `t` being the state with them applied. -/
def rwfRefusal (s t : State) (es : List RwfEntry) : Option Nat :=
  let pages := ((es.filter fun e => inPages e.off).map fun e => (e.off - 0x200000) / 4096)
  let has (o : Nat) (bits : W64) : Bool := es.any fun e => e.off == o && (e.mask &&& bits) != 0
  let fbSel := regF t 0x50008 0 1
  let refSel := regF t 0x50010 0 2
  if es.any fun e => e.off == 0xF00100 && (e.mask &&& e.val) >>> 40 != 0 then some 602
  else if es.any fun e => rwfBits e.off == 0 || (e.mask &&& ~~~ (rwfBits e.off)) != 0 then some 481
  else if es.any fun e => outOfRange .rwf (fieldsAt e.off) (regRd s e.off) e.mask e.val then some 592
  else if pages.any fun p => (part s p).st == .reinit then some 450
  else if rangesBad t (es.filterMap fun e => if inPages e.off ∧ (e.off - 0x200000) % 4096 = 0x18 then
      some ((e.off - 0x200000) / 4096) else none) then some 420
  else if grantsOverlap t || ratesExceed t then some 450
  else if (List.range 16).any (fun k => has (0x82000 + 8 * (k / 4)) (put (16 * (k % 4)) 16 0xFFFF)
      && regF t (0x82000 + 8 * (k / 4)) (16 * (k % 4) + 15) 1 == 1
      && !(active s (regF t (0x82000 + 8 * (k / 4)) (16 * (k % 4)) 10))) then some 608
  else if es.any (fun e => e.off == 0x20080) && (10 * regF t 0x20080 0 10 < 80
      || 100 * regF t 0x20080 32 10 < 20 * regF t 0x20080 24 7) then some 396
  else if es.any (fun e => e.off == 0x83020) && (100 * regF t 0x83020 20 14 < 40 + 100 * regF t 0x83020 40 10) then some 419
  else if es.any (fun e => e.off == 0xF00030) && !(regF t 0xF00030 16 7 < regF t 0xF00030 24 7
      && regF t 0xF00030 24 7 < regF t 0xF00030 32 7 && regF t 0xF00030 32 7 < regF t 0xF00030 40 7) then some 492
  else if has 0x50008 1 && fbSel == 1 && !(s.clk.rootReady && !s.clk.coast) then some 500
  else if has 0x50010 3 && !(refReadyFor s refSel) then some 500
  else if has 0x60018 0x100 && !(slotPreferable s (regF t 0x60018 8 1 == 1)) then some 599
  else none

/-- Zero the staging units that a change of a partition's grant releases (R451). -/
def grantRelease (s t : State) (p : Nat) : State :=
  let b0 := pageF s p 0x010 0 10
  let n0 := pageF s p 0x010 16 10
  let b1 := pageF t p 0x010 0 10
  let n1 := pageF t p 0x010 16 10
  (rangeFrom b0 n0).foldl (fun u k => if b1 ≤ k ∧ k < b1 + n1 then u else
    { u with staging := stgZero u.staging (k * 0x10000) 0x10000 }) t

/-- What acts at once when an accepted write sets it (R500, R509, R521, R536, R599). -/
def rwfActs (s : State) (es : List RwfEntry) : State :=
  es.foldl (fun t e =>
    if e.off = 0x60018 then
      let a := if bitAt (e.mask &&& e.val).toNat 0 then confirmEff t else t
      let b := if bitAt (e.mask &&& e.val).toNat 1 then libLoadEff a else a
      let c := if bitAt e.mask.toNat 8 then nextSlotEff b (bitAt e.val.toNat 8) else b
      regSetF (regSetF c 0x60018 0 1 0) 0x60018 1 1 0
    else if e.off = 0x50028 ∧ bitAt e.mask.toNat 0 then (if bitAt e.val.toNat 0 then retainReqEff t else serviceReqEff t)
    else if e.off = 0x50010 ∧ e.mask &&& 3 ≠ 0 then refFollow (modClk t fun c => { c with swRefused := 0 })
    else if e.off = 0x50008 ∧ e.mask &&& 1 ≠ 0 then
      modClk t fun c => { c with fbMclk := bitAt e.val.toNat 0, swRefused := 0 }
    else t) s

/-- The entries that R507 writes again after a block reset: without those that act once or name a state the reset ends. -/
def rwfReplayed (es : List RwfEntry) : List RwfEntry :=
  (es.filter fun e => e.off != 0x60018 && e.off != 0x60020).map fun e =>
    if e.off = 0x50028 then { e with mask := e.mask &&& ~~~ (1 : W64) } else e

/-- A refused switch is recorded with its target (R500). -/
def swRefusal (es : List RwfEntry) (s : State) : State :=
  let tgt := es.foldl (fun (n : Nat) e =>
    if e.off = 0x50008 ∧ e.mask &&& 1 ≠ 0 then (if bitAt e.val.toNat 0 then 2 else 1)
    else if e.off = 0x50010 ∧ e.mask &&& 3 ≠ 0 then 3 + fld e.val 0 2 else n) 0
  if tgt = 0 then s else modClk s fun c => { c with swRefused := tgt }

/-- Every entry written at one edge (R479). -/
def rwfWriteAll (s : State) (es : List RwfEntry) : State :=
  let t := es.foldl rwfApply s
  let ps := (es.filter fun e => inPages e.off && (e.off - 0x200000) % 4096 == 0x10).map fun e => (e.off - 0x200000) / 4096
  driveAlert (ps.foldl (fun u p => grantRelease s u p) t)

def rwfWriteEff (s : State) (n : Nat) : State :=
  let es := rwfEntries (cmPayload (mboxOf s n).copy)
  mboxCmd s n 1
    (fun t p => if p.length % 16 ≠ 0 ∨ 192 < p.length ∨ !rwfAligned p then some 481 else rwfRefusal t (es.foldl rwfApply t) es)
    (fun t => if (mboxOf t n).detail = 500 then swRefusal es t else t)
    (fun t _ => rwfActs (modFb (rwfWriteAll t es) fun f => { f with accepted := f.accepted ++ rwfReplayed es }) es)

/-- RWF_WRITE (R481). -/
def execRwfWrite (mbox : Nat) (s : State) : Host.Outcome State Fault Refusal := act s fun s => rwfWriteEff s mbox

/-! ### Commands that start sequences -/

/-- The rule under which a re-initialisation of a partition is refused: the block is halted, a rung 3 is in progress, or the
partition is not ACTIVE (R464, R583, R585). -/
def rung2Refusal (s : State) (p : Nat) : Option Nat :=
  if s.flt.halted then some 583 else if rung3Runs s then some 585 else if active s p then none else some 464

def partReinitEff (s : State) (n : Nat) : State :=
  mboxCmd s n 2 (fun t p => if p.length ≠ 2 then some 481 else rung2Refusal t (leAt p 0 2)) id fun t p =>
    reinitStart (mboxRun t n) (leAt p 0 2) (some n)

/-- PART_REINIT (R464, R465). -/
def execPartReinit (mbox : Nat) (s : State) : Host.Outcome State Fault Refusal := act s fun s => partReinitEff s mbox

/-- A range of bytes touches a region's hearth range. -/
def touchesRgn (s : State) (r : Region) (a n : Nat) : Bool := a < r.base + rgnSize s r && r.base < a + n

/-- Nothing names, binds or lies in a region (R451). -/
def rgnFree (s : State) (i : Nat) (r : Region) : Bool :=
  !(rgnInUse s i) && !(s.stp.ctxs.any fun kv => kv.2.rgns.any fun g => g.rgn == i)
  && !(s.spl.creel.any fun kv => kv.2.st != .disabled
        && (touchesRgn s r kv.2.ring (128 * 2 ^ kv.2.pickLog) || (!kv.2.die && touchesRgn s r kv.2.cq (64 * 2 ^ kv.2.recLog))))
  && !(s.str.rxFan.any fun kv => kv.2.rgn == i) && !(s.str.rxSmoke.any fun kv => kv.2.rgn == i)

def regionAssignEff (s : State) (n : Nat) : State :=
  mboxCmd s n 3
    (fun t p =>
      if p.length ≠ 4 then some 481
      else match rgnAt t (leAt p 0 2) with
        | none => some 451
        | some r => if !r.block ∧ r.kind ≠ .reserved ∧ active t (leAt p 2 2) ∧ rgnFree t (leAt p 0 2) r then none else some 451)
    id
    (fun t p =>
      let i := leAt p 0 2
      match rgnAt t i with
      | none => t
      | some r => modRgn (fillRegion t r) i fun g => { rgnFresh g with owner := leAt p 2 2 })

/-- REGION_ASSIGN: the region is filled with the poison mark, takes its image mode, and then its new owner (R451). -/
def execRegionAssign (mbox : Nat) (s : State) : Host.Outcome State Fault Refusal := act s fun s => regionAssignEff s mbox

def sparePairEff (s : State) (n : Nat) : State :=
  mboxCmd s n 4
    (fun t p => if p.length ≠ 2 then some 481 else if leAt p 0 1 < t.boot.dies ∧ leAt p 1 1 < 32 then none else some 317)
    id
    (fun t p => migrRequest (mboxRun t n) (leAt p 0 1) (leAt p 1 1) (some n) false)

/-- SPARE_PAIR (R317). -/
def execSparePair (mbox : Nat) (s : State) : Host.Outcome State Fault Refusal := act s fun s => sparePairEff s mbox

def tsvRetrainEff (s : State) (n : Nat) : State :=
  mboxCmd s n 5
    (fun t p => if p.length ≠ 2 then some 481 else if leAt p 0 1 < t.boot.dies ∧ leAt p 1 1 < 34 then none else some 293)
    id
    (fun t p => tsvRequest t (leAt p 0 1) (leAt p 1 1))

/-- TSV_RETRAIN (R293). -/
def execTsvRetrain (mbox : Nat) (s : State) : Host.Outcome State Fault Refusal := act s fun s => tsvRetrainEff s mbox

/-- Half watts of a GOV_LIMIT value: 0, or 20 to 140 W (R481), rounded down to the 0.5 W of FB_GOV_T.G_EXT (R601; DESIGN CHOICE, log
entry 53). -/
def govValue (b : W32) : Option Nat :=
  if b = 0 then some 0
  else if b.toNat < 2 ^ 31 ∧ 40 ≤ f32Floor b 2 ∧ f32Floor b 2 ≤ 280 ∧ (f32Floor b 2 < 280 ∨ b = 0x430C0000) then
    some (f32Floor b 2)
  else none

def govLimitEff (s : State) (n : Nat) : State :=
  mboxCmd s n 6
    (fun _ p => if p.length = 4 ∧ (govValue (BitVec.ofNat 32 (leAt p 0 4))).isSome then none else some 481)
    id
    (fun t p => modFb t fun f => { f with govExt := (govValue (BitVec.ofNat 32 (leAt p 0 4))).getD 0 })

/-- GOV_LIMIT (R481, R488). -/
def execGovLimit (mbox : Nat) (s : State) : Host.Outcome State Fault Refusal := act s fun s => govLimitEff s mbox

/-- HALT_VERSION tries again (R523). -/
def versionRetry (s : State) : State :=
  if s.boot.st = .haltVersion then modBoot s fun b => { b with st := .flash, failedA := false, failedB := false, verRefused := false }
  else s

def calSetEff (s : State) (n : Nat) : State :=
  mboxCmd s n 7
    (fun _ p => if p.length ≠ 8 then some 481 else if (calParse (BitVec.ofNat 64 (leAt p 0 8))).isSome then none else some 485)
    (fun t => if (mboxOf t n).detail = 485 then modFb t fun f => { f with calBad := true } else t)
    (fun t p => versionRetry (modFb t fun f =>
      { f with
        cal := (calParse (BitVec.ofNat 64 (leAt p 0 8))).getD f.cal
        calValid := true
        calEnd := false
        calBad := false }))

/-- CAL_SET (R485). -/
def execCalSet (mbox : Nat) (s : State) : Host.Outcome State Fault Refusal := act s fun s => calSetEff s mbox

/-! ### FAULT_CLEAR (R490, R492, R569) -/

/-- FAULT_N causes whose conditions still stand, that of a halt among them (R490, R569, R583). What is the condition of a cause, R490
leaves to the rules of the cause (DEDUCED, log entry 67). -/
def faultStanding (s : State) : Nat :=
  let st := s.boot.st
  s.flt.haltCauses ||| (b2n (st == .haltStack || st == .haltFlash || st == .haltImage) + 2 * b2n (st == .haltVersion)
    + 4 * b2n s.flt.ctlStop + 8 * b2n s.fb.inCrit + 16 * b2n s.fb.hold
    + 32 * b2n (s.clk.coast || s.clk.foscFault || !s.clk.pgIo || !s.clk.refReady || !s.clk.rootReady || !s.clk.hpLock
        || !s.clk.flLock || (List.range s.boot.dies).any fun d => !(bitAt s.clk.pgTile d))
    + 64 * b2n (s.flt.fallback && !s.flt.flashOk)
    + 128 * b2n ((allPairs s).any fun dp => (smGet ({} : TileHist) s.flt.tiles (tileKey s dp.1 dp.2)).st == 2)
    + 256 * b2n s.fb.lockstep)

/-- Fireback ALERT_N causes whose conditions still stand (R490 applied to R491). -/
def alertStanding (s : State) : Nat :=
  let failed (fl : Bool) : Bool := (List.range 16).any fun m => (modOf s fl m).st == .failed
  b2n (failed false) + 4 * b2n (failed true) + 16 * b2n (s.str.twins.any fun kv => kv.2.st == .diverged)
    + 32 * b2n (decide ((16 * regF s 0xF00030 16 7 : Int) ≤ s.fb.temp)) + 64 * b2n (s.fb.mbox.any fun kv => kv.2.locked)
    + 128 * b2n s.fb.resvFail

/-- Clear the bits of `mask` that are not in `stand`. -/
def clearBits (w mask stand : Nat) : Nat := w - (w &&& mask &&& (2 ^ 32 - 1 - stand))

def faultClearEff (s : State) (n : Nat) : State :=
  mboxCmd s n 8 (fun _ p => if p.length = 8 then none else some 481) id fun t p =>
    let fm := leAt p 0 4
    let s1 := modFb t fun f =>
      { f with
        faultCause := clearBits f.faultCause fm (faultStanding t)
        alertCause := clearBits f.alertCause (leAt p 4 4) (alertStanding t) }
    let s2 := if bitAt fm 6 ∧ t.flt.fallback ∧ t.flt.flashOk then
        modFlt s1 fun f => { f with fallback := false, ring := f.ring.filter fun kv => kv.1 == 0, ringNext := 1 }
      else s1
    driveAlert s2

/-- FAULT_CLEAR (R490, R492, R569). -/
def execFaultClear (mbox : Nat) (s : State) : Host.Outcome State Fault Refusal := act s fun s => faultClearEff s mbox

/-! ### RECOVER and tests -/

/-- The rule under which RECOVER is refused (R464, R481, R581, R583, R585). -/
def recoverRefusal (s : State) (p : List Byte) : Option Nat :=
  let rung := leAt p 0 1 % 8
  if (p.length ≠ 1 ∧ p.length ≠ 3) ∨ (p.length = 1 ∧ rung < 3) then some 481
  else if leAt p 0 1 / 8 % 16 ≠ 0 then some 581
  else match rung with
    | 2 => rung2Refusal s (leAt p 1 2)
    | 3 => if s.flt.halted then some 583 else if rung3Runs s then some 585 else none
    | 4 => if s.flt.halted then some 583 else none
    | _ => some 581

/-- A rung that meets a rung 3 in progress is recorded as well as refused (R585). -/
def recoverRefused (s : State) (n : Nat) : State :=
  if (mboxOf s n).detail = 585 then rungMet s (leAt (mboxOf s n).copy 0x10 1 % 8) 9 else s

def recoverEff (s : State) (n : Nat) : State :=
  mboxCmd s n 9 recoverRefusal (recoverRefused · n) fun t p =>
    match leAt p 0 1 % 8 with
    | 2 =>
      let q := leAt p 1 2
      let s1 := modFlt (rungRecord t 2 9 (some q)) fun f => { f with rung2 := f.rung2 + 1 }
      reinitStart (mboxRun s1 n) q (some n)
    | 3 => rung3 (mboxRun t n) 9 (bitAt (leAt p 0 1) 7)
    | _ => rung4 t 9

/-- RECOVER (R581). -/
def execRecover (mbox : Nat) (s : State) : Host.Outcome State Fault Refusal := act s fun s => recoverEff s mbox

def testNowEff (s : State) (n : Nat) : State :=
  mboxCmd s n 10
    (fun t p => if p.length ≠ 2 then some 481 else if leAt p 0 1 < t.boot.dies ∧ leAt p 1 1 < 34 then none else some 575)
    id
    (fun t p => scanDueNow t (leAt p 0 1 * 34 + leAt p 1 1))

/-- TEST_NOW (R575). -/
def execTestNow (mbox : Nat) (s : State) : Host.Outcome State Fault Refusal := act s fun s => testNowEff s mbox

/-! ### Keys and overrides (R471, R472, R533) -/

def pkeyUnwrap (s : State) (w : List Byte) : Option W64 :=
  match s.fb.kek with
  | some k => (kwpUnwrap8 (keyBytes k) w).map fun b => BitVec.ofNat 64 (leNat b)
  | none => none

def pkeySetEff (s : State) (n : Nat) : State :=
  mboxCmd s n 11
    (fun t p => if p.length ≠ 18 then some 481 else if leAt p 0 2 < 1024 ∧ (pkeyUnwrap t (p.drop 2)).isSome then none else some 472)
    id
    (fun t p => modFb t fun f => { f with pkeys := smSet f.pkeys (leAt p 0 2) ((pkeyUnwrap t (p.drop 2)).getD 0) })

/-- PKEY_SET (R472). -/
def execPkeySet (mbox : Nat) (s : State) : Host.Outcome State Fault Refusal := act s fun s => pkeySetEff s mbox

/-- A key wrapped under the current key of its target's slot (R481). -/
def keyUnwrap (s : State) (target : Nat) (w : List Byte) : Option (BitVec 256) :=
  match (if target = 1 then s.fb.key1 else s.fb.key0) with
  | some k => (kwUnwrap (keyBytes k) w).map bytesKey
  | none => none

def keySetEff (s : State) (n : Nat) : State :=
  mboxCmd s n 12
    (fun t p => if p.length ≠ 41 then some 481 else if leAt p 0 1 < 4 ∧ (keyUnwrap t (leAt p 0 1) (p.drop 1)).isSome then none else some 471)
    id
    (fun t p =>
      let k := keyUnwrap t (leAt p 0 1) (p.drop 1)
      modFb t fun f => match leAt p 0 1 with
        | 0 => { f with key0 := k, flKey0 := k }
        | 1 => { f with key1 := k, flKey1 := k }
        | 2 => { f with kek := k, flKek := k }
        | _ => { f with imgDigest := k, flDigest := k })

/-- KEY_SET: the key and its flash copy are replaced (R481). -/
def execKeySet (mbox : Nat) (s : State) : Host.Outcome State Fault Refusal := act s fun s => keySetEff s mbox

/-- Overrides with one triple's expiry replaced, or the triple removed where the expiry is 0; none where 16 unexpired ones
leave no room (R533). -/
def overridePut (s : State) (o : Override) : Option (List Override) :=
  let same (x : Override) : Bool := x.fw == o.fw && x.lib == o.lib && x.release == o.release
  let rest := s.fb.overrides.filter fun x => !(same x)
  if o.expiry = 0 then some rest
  else if rest.length < 16 then some (rest ++ [o])
  else match rest.find? fun x => s.fb.calValid && x.expiry != 0xFFFFFFFF && x.expiry ≤ calDay s.fb.cal with
    | some x => some (rest.erase x ++ [o])
    | none => none

def overrideOf (p : List Byte) : Override :=
  { fw := leAt p 0 2, lib := leAt p 2 2, release := leAt p 4 2, expiry := leAt p 6 4 }

def versionOverrideEff (s : State) (n : Nat) : State :=
  mboxCmd s n 13
    (fun t p => if p.length ≠ 10 then some 481 else if (overridePut t (overrideOf p)).isSome then none else some 533)
    id
    (fun t p => versionRetry (modFb t fun f =>
      { f with
        overrides := (overridePut t (overrideOf p)).getD f.overrides
        flOverrides := (overridePut t (overrideOf p)).getD f.overrides }))

/-- VERSION_OVERRIDE (R533). -/
def execVersionOverride (mbox : Nat) (s : State) : Host.Outcome State Fault Refusal := act s fun s => versionOverrideEff s mbox

/-! ### Calendar and governor (R484 to R488) -/

/-- CALENDAR_TICK: one microsecond of trimmed FOSC; the calendar stops at its last value, with END set (R484); the history bucket of
an hour is zeroed as the tick begins it (R571; one that CAL_SET enters is not, DESIGN CHOICE, log entry 61). -/
def calendarTickEff (s : State) : State :=
  if s.fb.calEnd then modFb s fun f => { f with uptime := f.uptime + 1 }
  else
    let s1 := modFb s fun f =>
      { f with
        uptime := f.uptime + 1
        cal := min (f.cal + 1) calLast
        calEnd := decide (calLast ≤ f.cal + 1) }
    if s1.fb.cal % 3600000000 = 0 then
      modFlt s1 fun f => { f with pairs := smMap f.pairs fun _ h => { h with hours := smDel h.hours (calHour s1.fb.cal) } }
    else s1

def execCalendarTick (s : State) : Host.Outcome State Fault Refusal := act s fun s => calendarTickEff s

/-- A reading in 1/16 °C, or T_CRIT where the sensor is silent or its value lies outside −40 to 150 °C (R486). -/
def sensorT (s : State) (silent : Bool) (t : Int) : Int :=
  if silent ∨ t < -640 ∨ 2400 < t then (16 * regF s 0xF00030 32 7 : Nat) else t

/-- T: the highest reading of the core-die sensors and the base-die sensor; a core-die sensor is silent once 100 steps of 10 µs have
passed since its last report (R486). -/
def govTemp (s : State) : Int :=
  (List.range s.boot.dies).foldl (fun m d =>
    let x := smGet ({} : TsvDie) s.sched.dies d
    max m (sensorT s (decide (100 ≤ x.tsAge)) x.temp)) (sensorT s false s.fb.baseTemp)

/-- A governor step passes: every core-die sensor is 10 µs older (R486). -/
def sensorsAge (s : State) : State :=
  modSched s fun c =>
    { c with dies := (List.range s.boot.dies).foldl (fun m d => smMod {} m d fun x => { x with tsAge := min 100 (x.tsAge + 1) }) c.dies }

/-- G_ext in half watts (R486). -/
def govExtOf (s : State) : Nat := if s.fb.govExt = 0 then 280 else min 280 s.fb.govExt

/-- G after a step at temperature `t`, outside a hold (R486). -/
def govNext (s : State) (t : Int) : Nat :=
  let th (lo : Nat) : Int := (16 * regF s 0xF00030 lo 7 : Nat)
  let g := s.fb.gov
  if th 40 ≤ t then 0
  else if th 32 ≤ t then 40
  else if th 24 ≤ t then max (g - 4) 40
  else if th 16 ≤ t then min g (govExtOf s)
  else if t ≤ th 24 - 48 then min (g + 1) (govExtOf s)
  else min g (govExtOf s)

/-- G takes a value; when it falls, ballast stops until it has been stable for 1 ms (R291), and a change of 5 W is traced
(R549). -/
def govTake (s : State) (g : Nat) : State :=
  let fell := g < s.fb.gov
  let s1 := modSched (modFb s fun f => { f with gov := g }) fun c =>
    { c with
      noBallast := if fell then true else c.noBallast && c.govStable < 99
      govStable := if g ≠ s.fb.gov then 0 else c.govStable + 1 }
  sootPower s1

/-- GOVERNOR_STEP, every 10 µs (R486, R487, R584). -/
def governorStepEff (s0 : State) : State :=
  if !fbRuns s0 then s0
  else
    let s := sensorsAge s0
    let t := govTemp s
    let th (lo : Nat) : Int := (16 * regF s 0xF00030 lo 7 : Nat)
    let detT := ofSigned 32 t
    let s1 := modFb s fun f => { f with temp := t, inCrit := decide (th 32 ≤ t) }
    if s.fb.hold then
      let n := s.fb.holdSteps + 1
      let s2 := modFb s1 fun f => { f with holdSteps := n }
      if 100000 * regF s 0xF10080 32 10 ≤ n then rung4 s2 0x702 else s2
    else
      let g := govNext s t
      let s2 := govTake s1 g
      if th 40 ≤ t then
        fbEvent (modFb s2 fun f => { f with hold := true, holdSteps := 0 })
          { evt s2 0x0702 .info 487 with detA := detT, detB := 0, causes := 16, keep := true }
      else if th 32 ≤ t then
        if s.fb.inCrit then fbFault s2 8
        else fbEvent s2 { evt s2 0x0701 .info 486 with detA := detT, detB := g, causes := 8, keep := true }
      else if th 16 ≤ t then fbAlert s2 32
      else s2

def execGovernorStep (s : State) : Host.Outcome State Fault Refusal := act s fun s => governorStepEff s

/-- THERMAL_HOLD_END: T has stayed below T_CRIT for 10 ms; G starts again from 20 W (R487). -/
def thermalHoldEndEff (s : State) : State :=
  if s.fb.hold ∧ !s.fb.inCrit ∧ fbRuns s then govTake (modFb s fun f => { f with hold := false, holdSteps := 0 }) 40 else s

def execThermalHoldEnd (s : State) : Host.Outcome State Fault Refusal := act s fun s => thermalHoldEndEff s

/-! ### Errors of the fireback itself (R312, R480, R490) -/

/-- FIREBACK_SRAM_UE: an uncorrectable error in the fireback's memory: the command being evaluated or RUNNING ends with
ABORTED, its counter used up where check 5 had passed, and a block reset follows (R313, R480). -/
def firebackUeEff (s : State) : State :=
  if !fbRuns s then s
  else
    let s1 := s.fb.mbox.foldl (fun t kv =>
      if kv.2.st = .evaluating then ctrTake t (cmCounter kv.2.copy) else t) s
    let s2 := modFb s1 fun f =>
      { f with mbox := smMap f.mbox fun _ m =>
          if m.st = .evaluating ∨ m.st = .running then { m with st := .done, status := 9 } else m }
    let e : FEvent := { evt s2 0x0301 .block 313 with addr := 0xF00000, detA := 13, causes := 4, keep := true }
    rung3Auto (fbFault (logRecord s2 e (eventRung s2 .block) 0) 4) 0x301

def execFirebackSramUe (s : State) : Host.Outcome State Fault Refusal := act s fun s => firebackUeEff s

/-- LOCKSTEP_MISMATCH: the cores halt holding FAULT_N low, and the block halts (R490, R581). -/
def lockstepEff (s : State) : State :=
  if s.fb.lockstep then s
  else
    let e : FEvent := { evt s 0x0302 .stack 490 with causes := 256, keep := true }
    let s1 := rung4 (fbFault (logRecord s e 4 0) 256) 0x302
    modFb s1 fun f => { f with lockstep := true }

def execLockstepMismatch (s : State) : Host.Outcome State Fault Refusal := act s fun s => lockstepEff s

end Sys2Proof.Machine
end

