-- ==== Sys2Proof/Machine/PwrCmds.lean ====
section
/-! DEFINITION. Clock judging, coasting, source switches, trim, and cold reset with the power-good inputs
(R493 to R508). -/

namespace Sys2Proof.Machine

/-! ### Coasting (R497, R498) -/

/-- A clock or power event: its record, with the FAULT_N cause CLOCK_POWER (R497, R508, R564 code 0x0601). -/
def clkEvent (s : State) (rule ev src : Nat) : State :=
  if !fbRuns s then s else
  fbEvent s { evt s 0x0601 .info rule with detA := Config.openCode 3 ev % 2 ^ 32, detB := src, causes := 32, keep := true }

/-- Switch the fireback clock, and its field with it: an automatic switch, which leaves SW_REFUSED to the next accepted request (R500;
DEDUCED, log entry 95). -/
def fbClock (s : State) (mclk : Bool) : State := modClk (regSetF s 0x50008 0 1 (b2n mclk)) fun c => { c with fbMclk := mclk }

/-- REF_READY clears, and the trim reference follows (R496, R500). -/
def refLost (s : State) : State := refFollow (modClk s fun c => { c with refReady := false, goodWin := 0 })

/-- A monitor event makes the root PLL coast, once it has locked: ROOT_READY clears, both port PLLs lose their reference, every UP module retrains, and the fireback
clock goes back to FOSC (R497, R498, R500). -/
def coastBegin (s : State) (ev : Nat) : State :=
  if s.clk.rootReady then
    let s1 := modClk s fun c => { c with coast := true, rootReady := false, hpLock := false, flLock := false }
    let s2 := if s1.clk.fbMclk then fbClock s1 false else s1
    portRetrain (portRetrain (clkEvent s2 497 ev 0) false) true
  else if s.clk.coast then s
  else clkEvent s 497 ev 0

/-- A window count lies within the tolerance of R496: ±4 % before the first trim, ±1,000 ppm after it. -/
def winOk (trimmed : Bool) (n : Nat) : Bool :=
  let d := ((n : Int) - 4096).natAbs
  if trimmed then d * 1000 ≤ 4096 else d * 100 ≤ 4 * 4096

/-- The clock monitors run: the fireback's supply is good and no cold reset is held (R496). -/
def monRuns (s : State) : Bool := s.clk.pgFb && s.clk.pgBase && !s.clk.coldLow

/-- FOSC is judged faulty: with ROOT_READY set, a count beyond ±4 % that FL_MARK, when ready, also contradicts; whether the
marks do is a free value, because nothing the block is given says so (R497; DESIGN CHOICE, log entry 71). -/
def foscJudge (s : State) (n : Nat) : Bool × State :=
  if s.clk.rootReady ∧ !s.clk.foscFault ∧ !(winOk false n) then
    if s.ports.markLost then (true, s)
    else
      let f := takeFree s
      (f.1.getLsbD 0, f.2)
  else (false, s)

/-- FOSC is faulty: the fireback clock switches to MCLK ÷ 2 where that is ready (R497, R500). The window that showed it counts as a
bad one for REF_READY, and not toward coasting (DESIGN CHOICE, log entry 69). -/
def foscFaulty (s : State) : State :=
  let s1 := clkEvent (modClk s fun c => { c with foscFault := true }) 497 5 0
  if s1.clk.rootReady && !s1.clk.coast then fbClock s1 true else modClk s1 fun c => { c with swRefused := 2 }

/-- REFCLK_WINDOW: a judging window of 2,048 FOSC cycles ends with a count of REFCLK cycles (R496, R497). -/
def refclkWindowEff (s : State) (n : Nat) (gap : Bool) : State :=
  if !monRuns s then s
  else if winOk s.clk.trimmed n && !gap then
    let g := min 16 (s.clk.goodWin + 1)
    refFollow (modClk s fun c => { c with goodWin := g, badWin := 0, refReady := c.refReady || g == 16 })
  else
    let j := foscJudge s n
    if j.1 then foscFaulty (refLost (modClk j.2 fun c => { c with badWin := 0 }))
    else
      let s1 := refLost (modClk j.2 fun c => { c with badWin := c.badWin + 1 })
      if s1.clk.badWin = 2 then coastBegin s1 2 else s1

def execRefclkWindow (count : Nat) (gap : Bool) (s : State) : Host.Outcome State Fault Refusal :=
  act s fun s => refclkWindowEff s count gap

/-- REFCLK_MISSING: a 160 ns gap between REFCLK edges (R497). -/
def refclkMissingEff (s : State) : State := if monRuns s then coastBegin (refLost s) 1 else s

def execRefclkMissing (s : State) : Host.Outcome State Fault Refusal := act s fun s => refclkMissingEff s

/-- ROOT_PLL_UNLOCK: the lock detector, while REFCLK is good (R497). -/
def rootUnlockEff (s : State) : State := if monRuns s && s.clk.refReady then coastBegin s 3 else s

def execRootPllUnlock (s : State) : Host.Outcome State Fault Refusal := act s fun s => rootUnlockEff s

/-- ROOT_RELOCK_ATTEMPT: the fireback tries to relock (R497). An attempt that succeeds shows as ROOT_PLL_LOCK; until then
nothing changes. -/
def execRootRelockAttempt (s : State) : Host.Outcome State Fault Refusal := act s fun s => s

/-- The first boot state that needs the clocks is entered: STACK, where the fireback has released boot and TEST_MODE is
low (R523, R629). -/
def bootRelease (s : State) : State :=
  if s.boot.st = .clocks ∧ s.clk.rootReady ∧ s.fb.ready ∧ !s.clk.testMode ∧ s.clk.pgBase ∧ !s.flt.halted then
    modBoot s fun b => { b with st := .stack }
  else s

/-- ROOT_PLL_LOCK: the root PLL has locked and ended its slew; ROOT_READY is set, the port PLLs lock with it, and the modules of
both ports train (R496, R499). -/
def rootLockEff (s : State) : State :=
  if monRuns s && s.clk.refReady && !s.clk.rootReady then
    let was := s.clk.coast
    let s1 := modClk s fun c => { c with rootReady := true, coast := false, hpLock := true, flLock := true }
    bootRelease (if was then portsRestart s1 else s1)
  else s

def execRootPllLock (s : State) : Host.Outcome State Fault Refusal := act s fun s => rootLockEff s

/-- PORT_PLL_UNLOCK: every module of that port retrains (R497). -/
def portUnlockEff (s : State) (flue : Bool) : State :=
  if (if flue then s.clk.flLock else s.clk.hpLock) then
    portRetrain (clkEvent (modClk s fun c => if flue then { c with flLock := false } else { c with hpLock := false })
      497 4 (b2n flue)) flue
  else s

def execPortPllUnlock (flue : Bool) (s : State) : Host.Outcome State Fault Refusal := act s fun s => portUnlockEff s flue

/-- FOSC_TRIM_WINDOW: 1 ms of the reference ends with a count of FOSC cycles: the first trim ends, or the code moves one step
toward 50,000 cycles, a higher code being a faster FOSC (the sense of the code is the model's, DESIGN CHOICE, log entry 48); in HOLD
nothing changes (R501).
The code that the first trim leaves is a free value (DESIGN CHOICE, log entry 72). -/
def foscTrimEff (s : State) (n : Nat) : State :=
  if !monRuns s ∨ s.clk.refActive = 3 then s
  else
    let cs := (s.clk.counts ++ [n]).drop (s.clk.counts.length + 1 - 16)
    let ratio := cs.foldl (· + ·) 0 * 65536 / cs.length % 2 ^ 32
    if s.clk.trimmed then
      modClk s fun c =>
        { c with
          counts := cs
          ratio := ratio
          trim := if n < 50000 then min 511 (c.trim + 1) else if 50000 < n then c.trim - 1 else c.trim }
    else
      let f := takeFree s
      modClk f.2 fun c => { c with counts := cs, ratio := ratio, trim := f.1.toNat % 512, trimmed := true }

def execFoscTrimWindow (count : Nat) (s : State) : Host.Outcome State Fault Refusal := act s fun s => foscTrimEff s count

/-! ### Cold reset (R470, R506, R508) -/

/-- What a cold reset leaves: the state that the boot flash persists, the flash itself, and the levels of the input pins;
everything else is at its reset value (R12, R470, R506). A flash operation that has begun completes (R514, R522). -/
def coldState (s : State) : State :=
  let base : State := {}
  { base with
    pending := s.pending
    freeCtr := s.freeCtr + 1048576
    fir := { scrBase := s.freeCtr }
    warp := { mapFlash := s.warp.mapFlash }
    ports := { fl := smMap s.ports.fl fun _ m => { lol := m.lol, att := m.att, light := if m.lol && !m.att then .settling else .dark } }
    flt :=
      { log := s.flt.log
        histSeq := s.flt.histSeq
        histPairs := s.flt.histPairs
        histTiles := s.flt.histTiles }
    fb :=
      { flResv := s.fb.flResv
        flKey0 := s.fb.flKey0
        flKey1 := s.fb.flKey1
        flKek := s.fb.flKek
        flDigest := s.fb.flDigest
        flOverrides := s.fb.flOverrides
        flFloor := s.fb.flFloor
        flBoots := s.fb.flBoots }
    clk := { pgFb := s.clk.pgFb, pgBase := s.clk.pgBase, pgIo := s.clk.pgIo, pgTile := s.clk.pgTile, coldLow := s.clk.coldLow,
             mgAddr := s.clk.mgAddr, testMode := s.clk.testMode }
    boot :=
      { dir0 := s.boot.dir0
        dir1 := s.boot.dir1
        slotAData := s.boot.slotAData
        slotBData := s.boot.slotBData
        flashOk := s.boot.flashOk
        op := if slotOp s.boot.op then s.boot.op else none } }

/-- COLD_RESET: COLD_RST_N goes low, or is released and the straps are sampled (R506, R615, R629). -/
def coldResetEff (s : State) (low : Bool) (mgAddr : Nat) (testMode : Bool) : State :=
  if low then coldState (modClk s fun c => { c with coldLow := true })
  else if s.clk.coldLow then
    modClk s fun c => { c with coldLow := false, mgAddr := mgAddr % 8, testMode := testMode }
  else s

def execColdReset (low : Bool) (mgAddr : Nat) (testMode : Bool) (s : State) : Host.Outcome State Fault Refusal :=
  act s fun s => coldResetEff s low mgAddr testMode

/-- Log slot and record ID of the highest committed record of the flash log (R567). -/
def logTop (f : Flt) : Option (Nat × Nat) :=
  f.log.foldl (fun b e => if !e.2.committed then b else match b with
    | some x => if x.2 < e.2.fr.id then some (e.1, e.2.fr.id) else b
    | none => some (e.1, e.2.fr.id)) none

/-- The persisted state is loaded: counter, keys, overrides, floor, boot count, history, and the log's write position
(R470, R477, R563, R567, R571). -/
def persistLoad (s : State) : State :=
  let s1 := modFb s fun f =>
    { f with
      ready := true
      ctr := f.flResv
      resv := f.flResv
      resvPrev := f.flResv
      resvWrite := some (f.flResv + 2 ^ 20)
      key0 := f.flKey0
      key1 := f.flKey1
      kek := f.flKek
      imgDigest := f.flDigest
      overrides := f.flOverrides
      secFloor := f.flFloor
      coldBoots := (f.flBoots + 1) % 2 ^ 32
      flBoots := (f.flBoots + 1) % 2 ^ 32 }
  modFlt s1 fun f =>
    { f with
      pairs := f.histPairs
      tiles := f.histTiles
      logPos := match logTop f with
        | some t => (t.1 + 1) % 60416
        | none => 0
      committed := match logTop f with
        | some t => t.2
        | none => 0 }

/-- SELF_CHECK_PASSED: the fireback's start-up ends; FAULT_N is released, and boot may begin. A flash that failed to give or
advance the boot count makes the fault log fall back (R470, R489, R568). -/
def selfCheckEff (s : State) : State :=
  if !monRuns s ∨ s.fb.ready ∨ s.fb.lockstep then s
  else
    let s1 := persistLoad s
    bootRelease (if s1.boot.flashOk then s1 else logFallback s1 2 0x20000)

def execSelfCheckPassed (s : State) : Host.Outcome State Fault Refusal := act s fun s => selfCheckEff s

/-- Every module of a port that is not DOWN loses its link and is DOWN (R365, R508). -/
def portDown (s : State) (flue : Bool) : State :=
  (List.range 16).foldl (fun t m => if (modOf t flue m).st = .down then t else linkLost t flue m) s

/-- POWER_GOOD_FALL (R508, R620). -/
def pgFallEff (s : State) : PgInput → State
  | .fb => coldState (modClk s fun c => { c with pgFb := false })
  | .base => coldState (modClk s fun c => { c with pgBase := false })
  | .io =>
    if s.clk.pgIo then
      let s1 := portDown (portDown (modClk s fun c => { c with pgIo := false }) false) true
      clkEvent s1 508 6 0
    else s
  | .tile d =>
    if bitAt s.clk.pgTile d then
      let s1 := modClk s fun c => { c with pgTile := c.pgTile - 2 ^ d, fellTile := c.fellTile ||| 2 ^ d }
      if d < s.boot.dies ∧ fbRuns s1 then rung3Auto (clkEvent s1 508 7 d) 0x601 else s1
    else s

def execPowerGoodFall (input : PgInput) (s : State) : Host.Outcome State Fault Refusal := act s fun s => pgFallEff s input

/-- POWER_GOOD_RISE (R499, R508). -/
def pgRiseEff (s : State) : PgInput → State
  | .fb => modClk s fun c => { c with pgFb := true }
  | .base => bootRelease (modClk s fun c => { c with pgBase := true })
  | .io => if s.clk.pgIo then s else portsRestart (modClk s fun c => { c with pgIo := true })
  | .tile d => if d < 16 ∧ !(bitAt s.clk.pgTile d) then modClk s fun c => { c with pgTile := c.pgTile + 2 ^ d } else s

def execPowerGoodRise (input : PgInput) (s : State) : Host.Outcome State Fault Refusal := act s fun s => pgRiseEff s input

end Sys2Proof.Machine
end

