-- ==== Sys2Proof/Machine/BootCmds.lean ====
section
/-! DEFINITION. From reset to service: the boot states and the checks of the hearth image (R515 to R526). -/

namespace Sys2Proof.Machine

/-! ### Configuration checks -/

/-- Two number ranges [a, a + m) and [b, b + n) meet. -/
def meets (a m b n : Nat) : Bool := a < b + n && b < a + m

/-- The pairs of two image regions meet: a striped or reserved one uses every pair (R47). -/
def rgnPairsMeet (x y : ImgRgn) : Bool :=
  x.kind != .bankLocal || y.kind != .bankLocal
    || (meets x.c0 (x.c1 + 1 - x.c0) y.c0 (y.c1 + 1 - y.c0) && meets x.r0 (x.r1 + 1 - x.r0) y.r0 (y.r1 + 1 - y.r0))

/-- Bytes of an image region (R49, R50). -/
def imgRgnSize (dies : Nat) (x : ImgRgn) : Nat :=
  match x.kind with
  | .bankLocal => (x.c1 + 1 - x.c0) * (x.r1 + 1 - x.r0) * (x.count * unitBytes)
  | _ => 32 * dies * (x.count * unitBytes)

/-- The region table breaks a rule of R42, R47, R48 or R51: a region lies within the populated capacity, and one that is not reserved
below the reserved area at its top. -/
def rgnTableBad (dies r : Nat) (t : List (Nat × ImgRgn)) : Bool :=
  (t.any fun e =>
    8192 ≤ e.1 || e.2.base % unitBytes != 0 || e.2.count == 0 || 64 < e.2.first + e.2.count
    || dies * 0x100000000 < e.2.base + imgRgnSize dies e.2
    || (e.2.kind != .reserved
        && dies * 0x100000000 < e.2.base + imgRgnSize dies e.2 + r * (32 * dies) * unitBytes)
    || (e.2.kind == .bankLocal && (e.2.c1 < e.2.c0 || e.2.r1 < e.2.r0 || 32 ≤ e.2.c1 || dies ≤ e.2.r1))
    || (e.2.kind == .bankLocal && e.2.acc && e.2.count % 2 == 1)
    || (e.2.kind != .reserved && 64 < e.2.first + e.2.count + r))
  || t.any fun a => t.any fun b =>
    a.1 < b.1 && ((rgnPairsMeet a.2 b.2 && meets a.2.first a.2.count b.2.first b.2.count)
      || meets a.2.base (imgRgnSize dies a.2) b.2.base (imgRgnSize dies b.2))

/-- The sub-areas of R51 fit the reserved area, and r and the context slots lie in their ranges. -/
def reservedBad (dies : Nat) (c : ImgCfg) : Bool :=
  c.r < 1 || 8 < c.r || c.slots < 8 || 1024 < c.slots
  || c.r * (32 * dies) * unitBytes < 0x4000000 + c.slots * (1280 * (32 * dies)) + c.twinLog + c.smokeLog + c.ashBytes

/-- A field of a word lies in [a, b]. -/
def fldIn (w : W64) (lo n a b : Nat) : Bool := a ≤ fld w lo n && fld w lo n ≤ b

/-- The array timing and energies pass R268. -/
def timingOk (c : ImgCfg) : Bool :=
  fldIn c.timRow 0 6 8 63 && fldIn c.timRow 8 6 8 63 && fldIn c.timRow 16 7 16 127 && fldIn c.timRow 24 8 24 255
  && fldIn c.timGrp 0 4 1 15 && fldIn c.timGrp 8 4 1 15 && fldIn c.timCol 0 4 1 1 && fldIn c.timCol 8 4 1 8
  && fldIn c.timCol 16 5 8 31 && fldIn c.timCol 24 5 4 31 && fldIn c.timTurn 0 6 8 63 && fldIn c.timTurn 8 4 2 15
  && fldIn c.timTurn 16 4 1 15 && fldIn c.timTurn 24 4 2 15 && fldIn c.timDie 0 6 4 63 && fldIn c.timDie 8 7 8 64
  && fldIn c.ref 0 8 40 255 && fldIn c.ref 16 14 1950 15625 && fldIn c.cal 0 8 20 255 && fldIn c.cal 16 10 1 1000
  && fldIn c.cal 32 10 1 1000
  && fld c.timRow 16 7 + fld c.timRow 8 6 ≤ fld c.timRow 24 8 && fld c.timRow 0 6 + fld c.timCol 16 5 ≤ fld c.timRow 16 7
  && fld c.cal 0 8 ≤ fld c.ref 0 8
  && fldIn c.energy 0 16 1 65535 && fldIn c.energy 16 16 1 65535 && fldIn c.energy 32 16 1 65535 && fldIn c.energy 48 16 1 65535

/-- The peer table breaks a rule of R374. -/
def peersBad (c : ImgCfg) : Bool :=
  c.peerId < 1 || 0xFFFE < c.peerId || 4096 < c.peers.length
  || c.peers.any fun x => x.id < 1 || 0xFFFE < x.id || x.id == c.peerId || x.mods % 65536 == 0
      || 1 < (c.peers.filter fun y => y.id == x.id).length

/-- The partition table breaks a rule of R450: grants, spool ranges, rates. -/
def partsBad (dies : Nat) (c : ImgCfg) : Bool :=
  let sum (lo w : Nat) : Nat := (c.parts.map fun x => fld x.rate lo w).foldl (· + ·) 0
  (c.parts.any fun a => c.parts.any fun b =>
    a.p < b.p && (meets a.stBase a.stSize b.stBase b.stSize || meets a.splFirst a.splCount b.splFirst b.splCount))
  || c.parts.any (fun a => 1024 ≤ a.p || 16 * c.general < a.stBase + a.stSize || 1048576 < a.splFirst + a.splCount)
  || 50000 * dies < 16 * sum 0 16 || 460000 * dies < 16 * sum 32 19 || 46875 < sum 16 16

/-- The session and twin times pass R396 and R419. -/
def timesOk (c : ImgCfg) : Bool :=
  80 ≤ 10 * fld c.sess 0 10 && 20 * fld c.sess 24 7 ≤ 100 * fld c.sess 32 10
  && 40 + 100 * fld c.twn 40 10 ≤ 100 * fld c.twn 20 14

/-- The rule that an image's configuration breaks, if it breaks one (R519). -/
def cfgRefusal (dies : Nat) (c : ImgCfg) : Option Nat :=
  if c.tpose < 4 ∨ c.sampler < 4 ∨ c.norm < 1 ∨ c.general + c.soot + c.tpose + c.sampler + c.norm ≠ 48 then some 35
  else if reservedBad dies c then some 51
  else if rgnTableBad dies c.r c.regions then some 48
  else if !(timingOk c) then some 268
  else if peersBad c then some 374
  else if !(fldIn c.sess 0 10 5 1000 && fldIn c.sess 16 7 1 100 && fldIn c.sess 24 7 1 100 && fldIn c.sess 32 10 1 1000
      && fldIn c.sess 48 10 1 1000) then some 396
  else if !(timesOk c) then (if 40 + 100 * fld c.twn 40 10 ≤ 100 * fld c.twn 20 14 then some 396 else some 419)
  else if partsBad dies c then some 450
  else none

/-! ### Boot states (R523) -/

/-- The first slot in the order of R521 that may be tried, and the directory changes that skipping makes: a TRIAL slot whose
attempt bit is set becomes BAD. -/
def candidate (s : State) : Option Bool × State :=
  [(dirLatest s).prefB, !(dirLatest s).prefB].foldl (fun (r : Option Bool × State) x =>
    let d := dirLatest r.2
    if r.1.isSome ∨ (if x then s.boot.failedB else s.boot.failedA) then r
    else match slotSt d x with
      | .empty => r
      | .bad => r
      | .valid => (some x, r.2)
      | .trial => if slotAtt d x then (none, dirChange r.2 fun e => setSlotSt e x .bad) else (some x, r.2)) (none, s)

/-- Go on with the next candidate, or halt where none remains: HALT_VERSION from CHECK where a combination was refused, HALT_IMAGE
otherwise (R521, R523; which of the two where one slot was refused and the other bad is the model's, DESIGN CHOICE, log entry 49). -/
def nextCandidate (s : State) : State :=
  let c := candidate s
  match c.1 with
  | some x => modBoot c.2 fun b => { b with st := .read, trying := x, signed := [] }
  | none => recoverEnd (modBoot c.2 fun b =>
      { b with st := if b.verRefused && b.st == .check then .haltVersion else .haltImage }) 0

/-- A candidate fails under a rule: the record, the slot marked BAD, the next candidate (R521, R523); so does one whose package fails
its signature or does not fit, of which R521 does not speak (DEDUCED, log entry 68). -/
def slotFail (s : State) (rule bst : Nat) : State :=
  let x := s.boot.trying
  let s1 := dirChange (bootRefused s rule bst (b2n x) 0xFF 0xFF) fun d => setSlotSt d x .bad
  nextCandidate (modBoot s1 fun b =>
    { b with
      refusal := rule
      failedA := b.failedA || !x
      failedB := b.failedB || x })

/-- An untested combination: the record, the slot's state unchanged, the next candidate (R521, R532). -/
def slotVersion (s : State) : State :=
  let x := s.boot.trying
  nextCandidate (modBoot (versionRefused s) fun b =>
    { b with
      refusal := 532
      verRefused := true
      failedA := b.failedA || !x
      failedB := b.failedB || x })

/-- Dies that answer, contiguous from die 0, where R37 accepts their count and each has power and every release matches
(R3, R523). -/
def stackOk (s : State) (answer : Nat) (releases : List (Nat × Nat)) : Option Nat :=
  match ([8, 12, 16] : List Nat).find? fun n => answer == 2 ^ n - 1 with
  | some n => if ((List.range n).all fun d => bitAt s.clk.pgTile d) && releases.all (fun e => e.2 == 0x0201) then some n else none
  | none => none

/-- The die and the tile that a failed check of the stack names: the first tile of another release, by its die × 34 + pair, or the
first die of the least count of R37 that does not answer or has no power, or lies beyond the answering ones (R3, R37, R523). -/
def stackCulprit (s : State) (answer : Nat) (releases : List (Nat × Nat)) : Nat × Nat :=
  match releases.find? fun e => e.2 != 0x0201 with
  | some e => (e.1 / 34, e.1 % 34)
  | none => (((List.range 16).find? fun d => !(bitAt answer d && bitAt s.clk.pgTile d)).getD 0xFF, 0xFF)

/-- STACK_TRAINED: every die is trained or tBTS expires; each release comes with its tile, as die × 34 + pair. After a hub scan a die
that does not answer is the hub's failure (R3, R523, R580). -/
def stackTrainedEff (s : State) (answer : Nat) (releases : List (Nat × Nat)) (baseOk : Bool) : State :=
  if s.boot.st ≠ .stack ∨ s.flt.halted then s
  else if s.boot.hubScan ∧ !baseOk then
    rung4 (fbEvent s { evt s 0x0303 .stack 580 with causes := 128, keep := true }) 0x303
  else match stackOk s answer releases with
    | some n =>
      modWarp (modBoot s fun b => { b with st := .flash, dies := n, hubScan := false }) fun w =>
        { w with map := if s.boot.cold then w.mapFlash else w.map }
    | none =>
      let s1 := recoverEnd (modBoot s fun b =>
        { b with
          st := .haltStack
          refusal := if releases.all (fun e => e.2 == 0x0201) then 37 else 3 }) 0
      let w := stackCulprit s answer releases
      if s.boot.hubScan ∧ releases.all (fun e => e.2 == 0x0201) then
        fbEvent s1 { evt s1 0x0303 .block 580 with causes := 129, die := w.1, keep := true }
      else bootRefused s1 (if releases.all (fun e => e.2 == 0x0201) then 37 else 3) 1 0xFF w.1 w.2

def execStackTrained (answer : Nat) (releases : List (Nat × Nat)) (baseOk : Bool) (s : State) :
    Host.Outcome State Fault Refusal :=
  act s fun s => stackTrainedEff s answer releases baseOk

/-- FLASH_PROBE: the probe and the directory read end (R513, R521). -/
def flashProbeEff (s : State) (ok : Bool) : State :=
  if s.boot.st ≠ .flash then s
  else if ok then
    let s1 := nextCandidate (modBoot s fun b => { b with flashOk := true })
    if s1.boot.st = .haltImage then bootRefused s1 521 2 0xFF 0xFF 0xFF else s1
  else bootRefused (recoverEnd (modBoot s fun b => { b with st := .haltFlash, flashOk := false, refusal := 513 }) 0) 513 2 0xFF 0xFF 0xFF

def execFlashProbe (ok : Bool) (s : State) : Host.Outcome State Fault Refusal := act s fun s => flashProbeEff s ok

/-- SIGNED_PART_READ: the signed part, at most 40 MiB, is placed in staging (R515, R518). -/
def signedReadEff (s : State) : State :=
  if s.boot.st ≠ .read then s
  else
    let x := s.boot.trying
    let n := max 0x300 (min 0x2800000 (leAt (slotBytes s x 0x10 4) 0 4))
    modBoot s fun b => { b with st := .check, signed := slotBytes s x 0 n }

def execSignedPartRead (s : State) : Host.Outcome State Fault Refusal := act s fun s => signedReadEff s

/-- IMAGE_CHECKS: the checks of CHECK on the candidate, in their order (R517, R523). -/
def imageChecksEff (s : State) (img : ImageIn) : State :=
  let h := s.boot.signed
  if s.boot.st ≠ .check then s
  else if !(signedOk s h img.sigOk) then slotFail s 517 4
  else if !(formatOk s h) then slotFail s 515 4
  else if !(img.fw.sigOk && img.lib.sigOk) then slotFail s 528 4
  else
    let tested := tripleTested img.fw img.lib
    let ov := overrideFor s 0x0201 img.fw.version img.lib.version
    if !tested ∧ ov = none then slotVersion s
    else match cfgRefusal s.boot.dies img.cfg with
      | some r => slotFail s r 4
      | none =>
        if leAt h 0x24 2 ≠ s.boot.dies then slotFail s 37 4
        else
          let s1 := modBoot s fun b => { b with st := .load, img := img }
          if tested then s1
          else match ov with
            | some o => overrideUsed s1 o
            | none => s1

def execImageChecks (img : ImageIn) (s : State) : Host.Outcome State Fault Refusal := act s fun s => imageChecksEff s img

/-- STOKERS_READY: the firmware is loaded and every stoker is ready: the image is committed (R517, R521, R523); a firmware
package that does not fit fails LOAD (R527). -/
def stokersReadyEff (s : State) : State :=
  if s.boot.st ≠ .load then s
  else if !s.boot.img.fw.fits then slotFail s 527 5
  else
    let x := s.boot.trying
    let h := s.boot.signed
    let floor := max s.fb.secFloor (leAt h 0x0C 4)
    let s1 := if slotSt (dirLatest s) x = .trial then dirChange s fun d => setSlotAtt d x true else s
    let s2 := modFb s1 fun f => { f with secFloor := floor, flFloor := floor }
    modBoot s2 fun b =>
      { b with
        st := .arrays
        slotB := x
        fallback := x != (dirLatest s).prefB
        imageId := BitVec.ofNat 64 (leAt h 0x18 8)
        secFloorReg := floor
        fwVer := b.img.fw.version
        libVer := b.img.lib.version
        libOther := false
        cfg := b.img.cfg }

def execStokersReady (s : State) : Host.Outcome State Fault Refusal := act s fun s => stokersReadyEff s

/-- STOKER_LOAD_TIMEOUT: tBSK expires (R523). -/
def stokerTimeoutEff (s : State) : State := if s.boot.st = .load then slotFail s 523 5 else s

def execStokerLoadTimeout (s : State) : Host.Outcome State Fault Refusal := act s fun s => stokerTimeoutEff s

/-! ### Arrays (R525, R620) -/

/-- A region table entry as the image gives it. -/
def rgnOfImg (dies : Nat) (x : ImgRgn) : Region :=
  let all : Bool := x.kind != .bankLocal
  { kind := x.kind
    base := x.base
    first := x.first
    count := x.count
    c0 := if all then 0 else x.c0
    c1 := if all then 31 else x.c1
    r0 := if all then 0 else x.r0
    r1 := if all then dies - 1 else x.r1
    acc := x.acc && !all
    owner := x.owner
    block := x.block || x.kind == .reserved
    banked := x.banked && !all
    imgBanked := x.banked && !all }

/-- A region uses a pair of a die whose PG_TILE fell (R620). -/
def rgnFell (s : State) (r : Region) : Bool :=
  (List.range 16).any fun d => bitAt s.clk.fellTile d && (r.kind != .bankLocal || (r.r0 ≤ d && d ≤ r.r1))

/-- The region as it comes up: one whose entry is unchanged keeps its contents, mode and flag after a block reset; any other is
fresh (R525). -/
def rgnBoot (s : State) (k : Nat) (x : ImgRgn) : Region × Bool :=
  let n := rgnOfImg s.boot.dies x
  match smFind s.boot.prevRegions k with
  | some o =>
    if !s.boot.cold ∧ !(rgnFell s n) ∧ rgnFresh o = n then
      ({ n with banked := o.banked, init := o.init }, true)
    else (n, false)
  | none => (n, false)

/-- The array byte at key `k` lies in a region of the list: in its units, in a pair it uses. -/
def keyInRgns (s : State) (rs : List Region) (k : Nat) : Bool :=
  let a := k / 64
  let die := a / 2 ^ 28
  let u := a / 65536 % 64
  match servedPos s die (a / 2 ^ 22 % 64) with
  | some pos => rs.any fun r => r.first ≤ u && u < r.first + r.count
      && (r.kind != .bankLocal || (r.c0 ≤ pos && pos ≤ r.c1 && r.r0 ≤ die && die ≤ r.r1))
  | none => false

/-- ARRAY_INIT_DONE: after a cold reset every granule holds the poison mark; after a block reset every unit of no kept region
does; the reserved areas are empty (R59, R525, R526). -/
def arrayInitEff (s : State) : State :=
  if s.boot.st ≠ .arrays then s
  else
    let rs := s.boot.cfg.regions.map fun e => (e.1, rgnBoot s e.1 e.2)
    let kept := (rs.filter fun e => e.2.2).map fun e => e.2.1
    let s1 := { s with
                regions := rs.foldl (fun t e => smSet t e.1 e.2.1) []
                mem := s.mem.filter fun c => keyInRgns s kept c.1
                rmem := [] }
    modWarp (modBoot s1 fun b => { b with st := .tables }) fun w => { w with tilePower := mapPower w.map }

def execArrayInitDone (s : State) : Host.Outcome State Fault Refusal := act s fun s => arrayInitEff s

/-! ### Tables (R45, R129, R445, R472, R507, R523) -/

/-- The words that an image's configuration gives the register window (R268, R396, R419). -/
def cfgWords (c : ImgCfg) : List (Nat × W64) :=
  [(0x30000, c.timRow), (0x30008, c.timGrp), (0x30010, c.timCol), (0x30018, c.timTurn), (0x30020, c.timDie), (0x30028, c.ref),
   (0x30030, c.cal), (0x30050, c.energy), (0x20080, c.sess), (0x83020, c.twn)]

/-- The words of a partition's page that its image entry gives (R446). -/
def partWords (x : ImgPart) : List (Nat × W64) :=
  let b := pageBase x.p
  [(b + 0x008, put 0 4 x.rights), (b + 0x010, put 0 10 x.stBase ||| put 16 10 x.stSize),
   (b + 0x018, put 0 20 x.splFirst ||| put 32 21 x.splCount),
   (b + 0x020, BitVec.ofNat 64 (x.srcMask.toNat % 2 ^ 64)), (b + 0x028, BitVec.ofNat 64 (x.srcMask.toNat / 2 ^ 64 % 2 ^ 64)),
   (b + 0x030, BitVec.ofNat 64 (x.srcMask.toNat / 2 ^ 128 % 2 ^ 64)), (b + 0x038, BitVec.ofNat 64 (x.srcMask.toNat / 2 ^ 192)),
   (b + 0x048, put 0 1 (b2n x.permit)), (b + 0x100, x.rate), (b + 0x108, x.cap0), (b + 0x110, x.cap1), (b + 0x118, x.cfg)]

/-- Partition keys that the image provisions and that unwrap; each that does not is logged and counts as not provisioned
(R472); the record's code, that of a refused image without its pin cause, is the model's (DESIGN CHOICE, log entry 51). -/
def keysLoad (s : State) : State :=
  s.boot.img.keys.foldl (fun t e => match pkeyUnwrap t e.2 with
    | some k => modFb t fun f => { f with pkeys := smSet f.pkeys e.1 k }
    | none => report t chBoot { evt t 0x0401 .info 472 with part := some e.1, detA := 7, keep := true })
    (modFb s fun f => { f with pkeys := [] })

/-- The partition table of the image: listed partitions are ACTIVE with their levels at their caps (R445, R523). -/
def partsLoad (s : State) : State :=
  s.boot.cfg.parts.foldl (fun t x =>
    let u := (partWords x).foldl (fun v e => regSet v e.1 e.2) t
    setPart u x.p { part u x.p with
      st := .active, lvlHearth := capHearth u x.p, lvlHob := capHob u x.p, lvlFlue := capFlue u x.p }) s

/-- TABLES_LOADED: tables, keys and program copies are loaded, the accepted RWF values are written again, and the block enters
service: the first ramp interval begins and every module starts to train (R364, R507, R523). -/
def tablesLoadedEff (s : State) : State :=
  if s.boot.st ≠ .tables ∨ (List.range s.boot.dies).any (fun d => !(bitAt s.clk.pgTile d)) then s
  else
    let c := s.boot.cfg
    let s1 := (cfgWords c).foldl (fun t e => regSet t e.1 e.2) s
    let s2 := keysLoad (partsLoad { s1 with
      staging := { general := c.general, soot := c.soot, tpose := c.tpose, sampler := c.sampler, norm := c.norm } })
    let s3 := ((imageProgs s.boot.img).take 1024).foldl progAdd (modFir s2 fun f => { f with progs := [], slots := c.slots })
    let s4 := modPorts s3 fun p =>
      { p with
        peerId := c.peerId
        peers := ((List.range c.peers.length).zip c.peers).map fun e =>
          (e.1, { id := e.2.id, mods := e.2.mods % 65536, roles := e.2.roles % 128, enabled := e.2.enabled, part := e.2.part }) }
    let s5 := driveAlert (s4.fb.accepted.foldl rwfApply s4)
    let s6 := modClk (modBoot s5 fun b => { b with st := .service, prevRegions := [], signed := [] }) fun k =>
      { k with fellTile := 0 }
    [false, true].foldl (fun t fl => (List.range 16).foldl (fun u m => linkTrain u fl m) t) (rampStart (recoverEnd s6 0))

def execTablesLoaded (s : State) : Host.Outcome State Fault Refusal := act s fun s => tablesLoadedEff s

end Sys2Proof.Machine
end

