-- ==== Sys2Proof/Machine/ObsCmds.lean ====
section
/-! DEFINITION. Meanings of the observation commands: marks and aligned time, counters, soot rings, breakpoints, snapshots
(R373, R343, R539 to R556). -/

namespace Sys2Proof.Machine

/-! ### Marks and aligned time (R373, R543 to R546) -/

/-- Bring LOCKED to a value, with its TIME soot record at a change (R549). -/
def setLocked (s : State) (v : Bool) : State :=
  if s.obs.locked = v then s else sootTime (modObs s fun o => { o with locked := v }) (if v then 2 else 3)

/-- The marks are lost: an arm is cancelled, LOCKED is clear, and the offset stays (R373, R545, R546). -/
def markLostEff (s : State) : State :=
  let s1 := refFollow (modPorts s fun p => { p with markLost := true, markGood := 0 })
  setLocked (modObs s1 fun o => { o with armed := none, good := 0, slew := 0 }) false

def execMarkLost (s : State) : Host.Outcome State Fault Refusal := act s fun s => markLostEff s

/-- Discipline at an accepted pulse (R546). -/
def discipline (s : State) : State :=
  match s.obs.disc with
  | none => s
  | some (v, m) =>
    let want : W64 := v + 1000 * (s.obs.markCnt - m)
    let e := (atime s - want).toInt
    let a := e.natAbs
    if 500 < a then sootTime (modObs s fun o => { o with disc := none, slip := true, slew := 0, good := 0 }) 4
    else
      let g := if a ≤ 4 then min 16 (s.obs.good + 1) else 0
      let s1 := modObs s fun o => { o with good := g, slew := if a ≤ 2 then 0 else if 0 < e then -1 else 1 }
      if g = 16 then setLocked s1 true else s1

/-- FL_MARK_PULSE: a pulse, and whether it meets R371. While the marks are lost it counts toward their return; otherwise an
accepted pulse is counted and captured, loads an armed offset, and drives the discipline (R373, R543, R545, R546). A load clears
LOCKED, until the new discipline sets it (DESIGN CHOICE, log entry 52). -/
def markPulseEff (s : State) (good : Bool) : State :=
  if !good then modPorts s fun p => { p with markGood := 0 }
  else if s.ports.markLost then
    refFollow (modPorts s fun p => { p with markGood := min 15 (p.markGood + 1), markLost := p.markGood < 15 })
  else
    let s1 := modObs (modPorts s fun p => { p with markGood := min 15 (p.markGood + 1) }) fun o =>
      { o with markCnt := o.markCnt + 1, markGtc := s.clk.gtc }
    match s1.obs.armed with
    | some (v, m) =>
      if m = s1.obs.markCnt then
        sootTime (setLocked (modObs s1 fun o =>
          { o with
            ofs := v - s.clk.gtc
            armed := none
            epoch := (o.epoch + 1) % 65536
            slip := false
            disc := some (v, m)
            good := 0
            slew := 0 }) false) 1
      else discipline s1
    | none => discipline s1

def execFlMarkPulse (good : Bool) (s : State) : Host.Outcome State Fault Refusal := act s fun s => markPulseEff s good

/-- A requester's captured copy of the words from offset `off` upward. -/
def captSet (s : State) (rq : Requester) (off : Nat) (ws : List W64) : State :=
  { s with capt := ((List.range ws.length).zip ws).foldl (fun t e => smSet t (rqOff rq (off + 8 * e.1)) e.2) s.capt }

/-- OBS_TIME_PROBE (R544). -/
def timeProbeEff (s : State) (rq : Requester) : State :=
  guarded s rq (obsAllowed s rq) fun s => captSet s rq 0xE00050 [s.clk.gtc, s.obs.markCnt, s.obs.markGtc]

def execObsTimeProbe (rq : Requester) (s : State) : Host.Outcome State Fault Refusal :=
  act s fun s => portAccess s rq fun t => timeProbeEff t rq

/-- ARM: a target mark not above OBS_MARK_CNT + 1 is refused and sets ARM_LATE (R545), which the next accepted arm clears (DESIGN
CHOICE, log entry 52). -/
def armEff (s : State) (rq : Requester) : State :=
  guarded s rq (obsAllowed s rq) fun s =>
    let v := regRd s 0xE00018
    let m := regRd s 0xE00020
    if m.toNat ≤ s.obs.markCnt.toNat + 1 then modObs s fun o => { o with armed := none, armLate := true }
    else modObs s fun o => { o with armed := some (v, m), armLate := false }

def execArm (rq : Requester) (s : State) : Host.Outcome State Fault Refusal := act s fun s => portAccess s rq fun t => armEff t rq

/-! ### Counters (R541, R542) -/

/-- CLR_MAX: MAX of the selected queue becomes CUR (R541). -/
def clrMaxEff (s : State) (rq : Requester) : State :=
  guarded s rq (obsAllowed s rq) fun s =>
    let k := (selRd s rq 0xE00200).toNat
    modObs s fun o => { o with queues := smMod {} o.queues k fun q => { q with max := queueCur s k } }

def execClrMax (rq : Requester) (s : State) : Host.Outcome State Fault Refusal := act s fun s => portAccess s rq fun t => clrMaxEff t rq

/-- FREEZE and RUN stop and start all sixteen counters (R542). -/
def pmcRunEff (s : State) (rq : Requester) (v : Bool) : State :=
  guarded s rq (obsAllowed s rq) fun s => modObs s fun o => { o with running := v }

def execFreeze (rq : Requester) (s : State) : Host.Outcome State Fault Refusal :=
  act s fun s => portAccess s rq fun t => pmcRunEff t rq false
def execRun (rq : Requester) (s : State) : Host.Outcome State Fault Refusal := act s fun s => portAccess s rq fun t => pmcRunEff t rq true

/-- The owner field that a writer leaves (R539). -/
def ownerOf (rq : Requester) : Owner :=
  match rqPart rq with
  | some p => .part p
  | none => .mgmt

/-- A word of the bits of (low bit, width) fields. -/
def fieldBits (fs : List (Nat × Nat)) : W64 := fs.foldl (fun w f => w ||| put f.1 f.2 (2 ^ f.2 - 1)) 0

/-- A write of OBS_PMC_CFG under a mask: the selected counter becomes zero (R542). -/
def pmcCfgEff (s : State) (rq : Requester) (mask v : W64) : State :=
  guarded s rq (obsAllowed s rq) fun s =>
    let k := selF s rq 0xE00400 0 4
    let bits := fieldBits [(0, 19), (20, 15), (48, 16)]
    modObs s fun o =>
      { o with pmc := smMod {} o.pmc k fun c => { cfg := wMerge c.cfg (mask &&& bits) v, val := 0, owner := ownerOf rq } }

def execObsPmcCfgWrite (rq : Requester) (len : Nat) (hi : Bool) (val : W64) (s : State) : Host.Outcome State Fault Refusal :=
  act s fun s => portAccess s rq fun t => pmcCfgEff t rq (wMask len hi) (wVal len hi val)

/-! ### Soot rings (R547 to R552) -/

/-- First and past-the-end 64 KiB unit of a ring's place in the carve-out (R547). -/
def ringSpan (cfg : W64) : Nat × Nat := (fld cfg 0 10, fld cfg 0 10 + 2 ^ fld cfg 16 4)

/-- Ring `k` may be enabled with a configuration: within the carve-out, and apart from every other enabled ring (R547). -/
def ringFits (s : State) (k : Nat) (cfg : W64) : Bool :=
  let a := ringSpan cfg
  a.2 ≤ s.staging.soot * 16 && s.obs.rings.all fun kv =>
    kv.1 == k || fld kv.2.cfg 21 1 == 0 || (let b := ringSpan kv.2.cfg; a.2 ≤ b.1 || b.2 ≤ a.1)

/-- A write of OBS_SOOT_CFG under a mask (R547). The next accepted enable clears CFG_REFUSED (DESIGN CHOICE, log entry 52). -/
def sootCfgEff (s : State) (rq : Requester) (mask v : W64) : State :=
  guarded s rq (obsAllowed s rq) fun s =>
    let k := selF s rq 0xE00500 0 4
    let r := smGet ({} : SootRing) s.obs.rings k
    let c0 := wMerge r.cfg (mask &&& fieldBits [(0, 10), (16, 6), (32, 11), (48, 10)]) v
    let c := if fld c0 16 4 ≤ 9 then c0 else setFld c0 16 4 (fld r.cfg 16 4)
    let put_ (x : SootRing) : State := modObs s fun o => { o with rings := smSet o.rings k x }
    if fld c 21 1 = 0 then put_ { r with cfg := c, owner := ownerOf rq }
    else if ringFits s k c then
      put_ (if fld r.cfg 21 1 = 0 then { r with cfg := c, wr := 0, rd := 0, cfgRefused := false, owner := ownerOf rq }
            else { r with cfg := c, cfgRefused := false, owner := ownerOf rq })
    else put_ { r with cfgRefused := true }

def execObsSootCfgWrite (rq : Requester) (len : Nat) (hi : Bool) (val : W64) (s : State) : Host.Outcome State Fault Refusal :=
  act s fun s => portAccess s rq fun t => sootCfgEff t rq (wMask len hi) (wVal len hi val)

/-- A write of OBS_SOOT_RD under a mask; a value above OBS_SOOT_WR stores OBS_SOOT_WR (R600). -/
def sootRdEff (s : State) (rq : Requester) (mask v : W64) : State :=
  guarded s rq (obsAllowed s rq) fun s =>
    let k := selF s rq 0xE00500 0 4
    modObs s fun o =>
      { o with rings := smMod {} o.rings k fun r =>
          { r with rd := min r.wr (wMerge (BitVec.ofNat 64 r.rd) mask v).toNat } }

def execObsSootRdWrite (rq : Requester) (len : Nat) (hi : Bool) (val : W64) (s : State) : Host.Outcome State Fault Refusal :=
  act s fun s => portAccess s rq fun t => sootRdEff t rq (wMask len hi) (wVal len hi val)

/-- PRT_MARK: an 8-byte write in the page of `p` writes a MARKER record; a 4-byte write is ignored (R551). How the u32 packs SRC and
module, all ones where the writer has none, and the record's class, 0, are the model's (R549; DESIGN CHOICE, log entry 54). -/
def prtMarkEff (s : State) (rq : Requester) (p len : Nat) (v : W64) : State :=
  if p < 1024 ∧ mayPresent s rq p then
    if len = 8 then
      let who : Nat := match rq with
        | .hearth m src _ => src + m * 2 ^ 16
        | _ => 2 ^ 32 - 1
      soot s 6 (some (p, 0)) (payload [(0, 64, v.toNat), (64, 32, who)])
    else s
  else strayPage s rq

def execPrtMark (rq : Requester) (part len : Nat) (val : W64) (s : State) : Host.Outcome State Fault Refusal :=
  act s fun s => portAccess s rq fun t => prtMarkEff t rq part len val

/-- A BWR of a soot drain, of up to 64 bytes (R552). -/
def sendDrain (s : State) (src addr fold len : Nat) (ds : List Datum) : State :=
  let a := smGet ({} : Agent) s.ports.agents src
  let h := mkHdr [(0, 8, 0x90), (8, 1, 1), (9, 1, 1), (10, 2, 3), (32, 8, src), (56, 8, len), (64, 48, fold), (128, 64, addr)]
  egressAdd s false a.module { pkt := ⟨h, ds⟩, cls := 3, part := 0, grp := 6, peer := none }

/-- Send `n` unread records of ring `k`, two to a packet; a packet never passes the end of the die ring (R552). -/
def drainSend (s : State) (k : Nat) : Nat → Nat → State
  | 0, _ => s
  | _, 0 => s
  | fuel + 1, n =>
    let r := smGet ({} : SootRing) s.obs.rings k
    let size := 2 ^ fld r.drain0 16 5
    let at_ := r.drained * 32 % size
    let two := 2 ≤ n ∧ at_ + 64 ≤ size
    let c := if two then 2 else 1
    let ds := (List.range c).map fun i => stgRead s.staging (ringOff s r (r.rd + i) / 32)
    let s1 := sendDrain s (fld r.drain0 0 8) (r.drain1.toNat + at_) (stgWin + ringOff s r r.rd) (32 * c) ds
    drainSend (modObs s1 fun o =>
      { o with rings := smSet o.rings k { r with rd := r.rd + c, drained := r.drained + c } }) k fuel (n - c)

/-- SOOT_DRAIN: the drain of ring `k` runs where the watermark is reached, the timer has expired with records unread, or NOW
was written; one whose agent is unbound pauses (R552). -/
def sootDrainEff (s : State) (k : Nat) (timer : Bool) : State :=
  let r := smGet ({} : SootRing) s.obs.rings k
  let n := r.wr - r.rd
  if 16 ≤ k ∨ fld r.drain0 8 1 = 0 ∨ n = 0 ∨ !(timer || r.now || fld r.drain0 32 16 ≤ n) then s
  else if (smGet ({} : Agent) s.ports.agents (fld r.drain0 0 8)).bound then
    let s1 := modObs s fun o => { o with rings := smSet o.rings k { r with stall := false, now := false } }
    let s2 := drainSend s1 k n n
    let q := smGet ({} : SootRing) s2.obs.rings k
    sendDrain s2 (fld q.drain0 0 8) (q.drain1.toNat + 2 ^ fld q.drain0 16 5) 0 8
      [⟨bytesGran (leBytes 8 q.drained), false⟩]
  else modObs s fun o => { o with rings := smSet o.rings k { r with stall := true } }

def execSootDrain (ring : Nat) (timer : Bool) (s : State) : Host.Outcome State Fault Refusal :=
  act s fun s => sootDrainEff s ring timer

/-- NOW (R552). -/
def nowEff (s : State) (rq : Requester) : State :=
  guarded s rq (obsAllowed s rq) fun s =>
    let k := selF s rq 0xE00500 0 4
    sootDrainEff (modObs s fun o => { o with rings := smMod {} o.rings k fun r => { r with now := true } }) k false

def execNow (rq : Requester) (s : State) : Host.Outcome State Fault Refusal := act s fun s => portAccess s rq fun t => nowEff t rq

/-! ### Breakpoints (R555, R556) -/

/-- RELEASE: the firing suspended at the selected breakpoint is runnable again, with a BREAK record (R556). -/
def releaseBrkEff (s : State) (rq : Requester) : State :=
  guarded s rq (obsAllowed s rq) fun s =>
    let k := selF s rq 0xE00700 0 3
    let b := smGet ({} : Brk) s.obs.brk k
    match b.held with
    | none => s
    | some n =>
      let x := firingOf s n
      let c := stopCkpt s x
      let s1 := modObs s fun o => { o with brk := smSet o.brk k { b with held := none } }
      preemptCheck (sootBreak (setFiring s1 n { x with brkHeld := none }) k 3 c x.spool x.seq x.f.epoch)

def execRelease (rq : Requester) (s : State) : Host.Outcome State Fault Refusal :=
  act s fun s => portAccess s rq fun t => releaseBrkEff t rq

/-! ### Snapshots (R342, R343) -/

/-- The terms of row `row` of the table of conserved quantities for a unit, in the order of its Balance column. The row of the step
engine gives the ash records, the fences of the open epoch and the norm slots of a context, as R212 has them (R342; which epoch is
the model's, DESIGN CHOICE, log entry 25). -/
def snapTerms (s : State) (row unit : Nat) : List Nat :=
  let port (fl : Bool) : List Nat :=
    let x := modOf s fl (unit % 16)
    let i := unit / 16
    let adv := smGet 0 x.rxCred i
    let due := smGet 0 x.credDue i
    [due, blockInit fl i - adv - due, adv, blockInit fl i]
  match row with
  | 0 => port false
  | 1 => port true
  | 2 =>
    let x := splOf s unit
    let used := sub32 x.tail x.retired
    let fl := inFlight s unit
    [2 ^ x.pickLog - used, sub32 x.tail x.head, fl, sub32 x.head x.retired - fl, 2 ^ x.pickLog]
  | 3 =>
    let n := s.spl.cache.length
    let d := (s.spl.cache.filter fun k => creelDirty s k).length
    [4096 - n, n - d, d, 4096]
  | 4 =>
    let x := splOf s unit
    [freeSlots x, sub32 x.written x.consumed, 2 ^ x.recLog]
  | 5 =>
    let x := part s (unit % 1024)
    match unit / 1024 with
    | 0 => [ofSigned 64 x.lvlHearth, x.chHearth]
    | 1 => [ofSigned 64 x.lvlHob, x.chHob]
    | _ => [ofSigned 64 x.lvlFlue, x.chFlue]
  | 6 =>
    let sav := smCount s.fir.all fun _ x => x.slot.isSome && x.st == .saving
    [slotsFree s, smCount s.fir.all (fun _ x => x.slot.isSome) - sav, sav, s.fir.slots]
  | 7 => [redFree s, 2 - redFree s, 2]
  | 8 =>
    let c := smGet ({} : StepCtx) s.stp.ctxs unit
    let b := bookOf c c.openEpoch
    let counted := match epOf c c.openEpoch with
      | some e => e.fences.length
      | none => 0
    [c.quota - c.ash.length, c.ash.length, counted, b.rep, b.ref, b.recv, 2 * c.n - c.slots.length, c.slots.length]
  | 9 => [s.staging.tpose * 0x100000 - s.tposeUsed, s.tposeUsed, s.staging.tpose * 0x100000]
  | 10 =>
    let g := unit % 8
    let sent := smGet 0 s.ports.egSent g
    let disc := smGet 0 s.ports.egDisc g
    [sent + egQueued s g + disc, sent, egQueued s g, disc]
  | 11 => [ofSigned 64 s.sched.avail, s.sched.reserve, s.sched.arrears, s.sched.energy]
  | 12 => [(pairAt s (unit / 32) (unit % 32)).scrub.length, s.warp.drop]
  | _ => []

/-- Where a requester's snapshot registers are held: beyond the copies that reads capture. -/
def snapOff : Nat := 0xE08108

/-- TAKE: the counters of the selected row and unit are copied into the requester's snapshot registers at one edge
(R343). -/
def takeEff (s : State) (rq : Requester) : State :=
  guarded s rq (obsAllowed s rq) fun s =>
    let ts := snapTerms s (selF s rq 0xE00100 20 4) (selF s rq 0xE00100 8 12)
    let ws := (List.range 8).map fun i => BitVec.ofNat 64 (ts.getD i 0)
    modObs (captSet s rq snapOff ws) fun o => { o with snapDone := insN o.snapDone (rqKey rq) }

def execTake (rq : Requester) (s : State) : Host.Outcome State Fault Refusal := act s fun s => portAccess s rq fun t => takeEff t rq

/-! ### The wait-for graph (R553, R554) -/

/-- A node of the graph: its kind and number (R554). A holder for which R554 has no kind, the partner of a module or an observer of the
management port, is node 0 (DESIGN CHOICE, log entry 55). -/
def wfgNode (kind n : Nat) : Nat := kind * 2 ^ 28 + n % 2 ^ 28

/-- The waits of firings: tokens, hobs, held, slots, reducers, breakpoints and streams. -/
def wfgFirings (s : State) : List (Nat × Nat × Nat) :=
  s.fir.all.flatMap fun kv =>
    let x := kv.2
    let me := wfgNode 3 x.spool
    let waits := x.st == .queued || x.st == .suspended
    let cur := match curFiring s with
      | some (_, c) => [(me, wfgNode 3 c.spool, 3)]
      | none => []
    let held := s.fir.all.filter fun k2 => k2.2.slot.isSome
    let stop := x.st == .running && !x.causes.isEmpty
    (if waits && !(holdsTokens s x.part .hob x.cls) then [(me, wfgNode 8 x.part, 2)] else [])
    ++ (if waits then cur else [])
    ++ (if x.st == .held then
          match epOf (ctxOf s x.f.ctx) x.f.epoch, ownerRec s x.f.ctx with
          | some ep, some r =>
            if ep.st == .updating || ep.st == .done then [(me, wfgNode 10 r.1, 4)] else [(me, wfgNode 4 (x.f.ctx * 2 + x.f.epoch % 2), 4)]
          | _, _ => [(me, wfgNode 4 (x.f.ctx * 2 + x.f.epoch % 2), 4)]
        else [])
    ++ (if stop && slotsFree s ≤ 1 then held.map fun k2 => (me, wfgNode 3 k2.2.spool, 6) else [])
    ++ (if stop && x.red then [(me, me, 7)] else [])
    ++ (match x.brkHeld with
        | some b => match (smGet ({} : Brk) s.obs.brk b).owner with
          | .part p => [(me, wfgNode 8 p, 12)]
          | _ => [(me, 0, 12)]
        | none => [])
    ++ (if s.fir.cur == some kv.1 && !s.sched.tapped.isEmpty then
          match x.mirror with
          | some r => [(me, wfgNode 10 r, 14)]
          | none => [(me, wfgNode 6 0, 14)]
        else [])

/-- The waits of spools, picks and doorbells. -/
def wfgSpools (s : State) : List (Nat × Nat × Nat) :=
  (s.spl.creel.flatMap fun kv =>
    let x := kv.2
    let want := x.st == .active && x.head != x.tail
    (if want && !(holdsTokens s x.owner .hearth x.cls) then [(wfgNode 1 kv.1, wfgNode 8 x.owner, 2)] else [])
    ++ (if want && freeSlots x < unwritten s kv.1 + x.waitRec.length + 2 then [(wfgNode 1 kv.1, wfgNode 8 x.owner, 8)] else []))
  ++ (s.spl.picks.flatMap fun kv =>
    let x := kv.2
    (if x.st == .fetched && !(orderMet s x) then
        match s.spl.picks.find? fun k2 => k2.2.spool == x.spool && !(pickIsDone k2.2) with
        | some k2 => [(wfgNode 2 kv.1, wfgNode 2 k2.1, 10)]
        | none => []
      else [])
    ++ (match s.regions.find? fun r => r.2.pick == some kv.1 && (match r.2.st with
          | .await _ => true
          | _ => false) with
        | some r => [(wfgNode 2 kv.1, wfgNode 8 r.2.owner, 11)]
        | none => []))
  ++ (s.spl.dbs.flatMap fun d => (s.spl.cache.filter fun k => 0 < inFlight s k).map fun k => (wfgNode 1 d.spool, wfgNode 1 k, 13))
  ++ (s.smp.wait.filter fun w => match s.smp.run with
      | some r => r.ctx == w.ctx
      | none => false).map fun w => (wfgNode 2 w.pick, wfgNode 9 w.ctx, 9)

/-- The waits of ports and epochs. -/
def wfgPorts (s : State) : List (Nat × Nat × Nat) :=
  ([false, true].flatMap fun fl => (if fl then s.ports.fl else s.ports.hp).flatMap fun kv =>
    if kv.2.egress.isEmpty then [] else [(wfgNode (if fl then 6 else 5) kv.1, 0, 1)])
  ++ (s.ports.waitQ.flatMap fun kv => kv.2.flatMap fun w =>
    if w.why == .damper then [(wfgNode (if w.flue then 6 else 5) w.module, wfgNode 8 (hPart w.pkt.hdr), 2)] else [])
  ++ (s.stp.ctxs.flatMap fun kv =>
    match epOf kv.2 kv.2.openEpoch with
    | some e => if e.st = .open then
        ((List.range kv.2.expect).filter fun c => !(e.fences.contains c)).map fun c =>
          (wfgNode 4 (kv.1 * 2 + e.e % 2), wfgNode 7 c, 5)
      else []
    | none => [])

/-- One walk over the live structures. Ages are free values: the model keeps no time at which a wait began (log
entry 56). -/
def wfgWalk (s : State) : List WfgEdge × State :=
  let es := wfgFirings s ++ wfgSpools s ++ wfgPorts s
  let n := s.freeCtr
  (((List.range es.length).zip es).map fun e =>
    { waiter := e.2.1, holder := e.2.2.1, reason := e.2.2.2, flags := 0, age := (Config.freeBits (n + e.1)).toNat % 2 ^ 32 },
   { s with freeCtr := n + es.length })

/-- BUILD: the stokers begin a graph; ignored during a build (R553). -/
def buildEff (s : State) (rq : Requester) : State :=
  guarded s rq (obsAllowed s rq) fun s =>
    if s.obs.wfgBuilding then s
    else
      let w := wfgWalk s
      modObs w.2 fun o => { o with wfgBuilding := true, wfgDone := false, wfgFirst := w.1 }

def execBuild (rq : Requester) (s : State) : Host.Outcome State Fault Refusal := act s fun s => portAccess s rq fun t => buildEff t rq

/-- The nodes that `n` reaches over edges, by `fuel` rounds. -/
def wfgReach (es : List WfgEdge) : Nat → List Nat → List Nat
  | 0, ns => ns
  | fuel + 1, ns =>
    let new := (es.filter fun e => ns.contains e.waiter && !(ns.contains e.holder)).map (·.holder)
    if new.isEmpty then ns else wfgReach es fuel (new.foldl insN ns)

/-- The nodes of the cycle that edge `e` closes, or none: those that reach each other with it. -/
def wfgCycle (es : List WfgEdge) (n : Nat) : List Nat :=
  let fwd := wfgReach es es.length ((es.filter fun e => e.waiter == n).foldl (fun t e => insN t e.holder) [])
  if fwd.contains n then fwd.filter fun m =>
    (wfgReach es es.length ((es.filter fun e => e.waiter == m).foldl (fun t e => insN t e.holder) [])).contains n
  else []

/-- WFG_BUILD_DONE: the second walk ends; edges found on both walks are persistent, and the cycles of persistent edges are
counted, one for each set of nodes that wait on one another (R553, R554). -/
def wfgDoneEff (s : State) (us : Nat) : State :=
  if !s.obs.wfgBuilding then s
  else
    let w := wfgWalk s
    let pers (e : WfgEdge) : Bool :=
      s.obs.wfgFirst.any fun f => f.waiter == e.waiter && f.holder == e.holder && f.reason == e.reason
    let ps := w.1.filter pers
    let cyc := (ps.foldl (fun (t : List (List Nat)) e =>
      let c := wfgCycle ps e.waiter
      if c.isEmpty || t.contains c then t else t ++ [c]) [])
    let es := w.1.map fun e =>
      { e with flags := b2n (pers e) + 2 * b2n (pers e && cyc.any fun c => c.contains e.waiter && c.contains e.holder) }
    modObs w.2 fun o =>
      { o with
        wfgBuilding := false
        wfgDone := true
        wfgTrunc := 65536 < es.length
        wfgCycles := cyc.length
        wfgWalk := us % 2 ^ 32
        wfgEdges := es.take 65536
        wfgFirst := [] }

def execWfgBuildDone (us : Nat) (s : State) : Host.Outcome State Fault Refusal := act s fun s => wfgDoneEff s us

end Sys2Proof.Machine
end

