-- ==== Sys2Proof/Machine/SpoolCmds.lean ====
section
/-! DEFINITION. Meanings of the spool engine's doorbells, fetches, records and configuration commands (R421 to R443, R612).
-/

namespace Sys2Proof.Machine

/-! ### The creel cache (R424) -/

/-- The line to evict: the least recently used without a pick in flight. -/
def cacheVictim (s : State) : Option Nat := s.spl.cache.find? fun k => inFlight s k == 0

/-- The creel's granules of a spool, as an engine reads or writes them in the spool's class (R51, R277). -/
def creelUse (s : State) (k : Nat) (wr : Bool) : EngUse :=
  { cls := (splOf s k).cls, places := resPlaces s (resCreel + 64 * k) 2, rd := if wr then 0 else 2, wr := if wr then 2 else 0 }

/-- Write an entry back to the creel (R424). -/
def creelPut (s : State) (k : Nat) : State :=
  resWriteN (engNow s (creelUse s k true)) (resCreel + 64 * k) ((bytesGrans (creelBytes s k)).map fun g => ⟨g, false⟩)

/-- Read an entry of the creel into a line of the cache: whether it is sound, and the state. An entry that the warp check finds lost
is an error in a control structure (R312, R313, R424). -/
def creelLoad (s : State) (k : Nat) : Bool × State :=
  let r := resReadN (engNow s (creelUse s k false)) (resCreel + 64 * k) 2
  if r.1.any fun e => e.2.poison then (false, ctlFail r.2 9 k) else (true, r.2)

/-- Bring a spool's entry into the cache; the line it takes is written back first if it is dirty, and there is none where every line is
held (R424). -/
def cacheEnsure (s : State) (k : Nat) : Option State :=
  if s.spl.cache.contains k then some (cacheTouch s k)
  else if s.spl.cache.length < 4096 then some (cacheTouch (creelLoad s k).2 k)
  else match cacheVictim s with
    | some v => some (cacheTouch (creelLoad (modSpl (if creelDirty s v then creelPut s v else s) fun p => { p with cache := p.cache.filter (· != v) }) k).2 k)
    | none => none

/-- An entry that a configuration command changed, written to the creel where the cache does not hold it (R423). -/
def creelSync (s : State) (k : Nat) : State := if s.spl.cache.contains k then s else creelPut s k

/-! ### Abort (R442) -/

/-- An abort record of kind 1 and opcode 0 (R442). -/
def abortRec (s : State) (k seq tag status : Nat) : State :=
  recWrite s k (recBytes tag seq (splOf s k).retired 0 1 status false 0 [])

/-- The firing of an in-flight pick. -/
def firingOfPick (s : State) (n : Nat) : Option Nat := (s.fir.all.find? fun kv => kv.2.pick == some n).map (·.1)

/-- The regions whose mode change pick `n` carries, still awaiting the owner's doorbell (R58). -/
def modeAwait (s : State) (n : Nat) : Option Nat :=
  (s.regions.find? fun kv => kv.2.pick == some n && (match kv.2.st with
    | .await _ => true
    | _ => false)).map (·.1)

/-- Act on an accepted abort of an in-flight pick that is not complete: the pick completes with ABORTED where it can be
withdrawn. The status of the abort record. A REGION_MODE pick awaits its doorbell from its fetch on (R58). -/
def abortAct (s : State) (n : Nat) (x : PickR) : Nat × State :=
  if x.st = .fetched ∧ x.opc ≠ 1 ∧ x.opc ≠ 9 then
    if x.order ∨ x.opc = 2 then (stDone, pickDone s n stAborted 0 []) else (stTooLate, s)
  else match x.opc with
    | 1 => match firingOfPick s n with
      | some k => (stDone, firingEnd s k stAborted true)
      | none => (stDone, pickDone s n stAborted 0 [])
    | 2 => match modeAwait s n with
      | some r => (stDone, pickDone (modRgn s r fun g => { g with st := .idle, pick := none }) n stAborted 0 [])
      | none => (stTooLate, s)
    | 9 =>
      let s1 := modSmp s fun m =>
        { m with
          wait := m.wait.filter fun w => w.pick != n
          fetched := smDel m.fetched n
          run := match m.run with
            | some w => if w.pick = n then none else some w
            | none => none }
      (stDone, smpServeAll (pickDone s1 n stAborted 0 []))
    | _ => (stTooLate, s)

/-- An accepted ABORT doorbell for pick `seq` of spool `k` (R442). -/
def abortAccept (s : State) (k seq : Nat) : State :=
  let x := splOf s k
  let d := sub32 x.tail seq
  let size := 2 ^ x.pickLog
  let s1 := setSpl s k { x with abort := some seq }
  if d = 0 ∨ size ≤ d then abortRec s1 k seq 0 stNoSuchPick
  else if d ≤ sub32 x.tail x.head then s1
  else match findPick s k seq with
    | none => abortRec s1 k seq (smGet 0 x.tags (seq % size)) stAlready
    | some (n, pk) =>
      if pickIsDone pk then setPick s1 n { pk with abortSt := some stAlready }
      else
        let r := abortAct s1 n pk
        match pickOf r.2 n with
        | some y => setPick r.2 n { y with abortSt := some r.1 }
        | none => r.2

/-! ### Doorbells (R425, R426) -/

/-- Kinds of a doorbell. -/
def dbPush : Nat := 0
def dbConsume : Nat := 1
def dbAbort : Nat := 2

/-- The doorbell is accepted under R425, by the spool's counters. -/
def dbAccepted (x : Spool) (kind v : Nat) : Bool :=
  match kind with
  | 0 => sub32 x.tail x.retired < sub32 v x.retired && sub32 v x.retired ≤ 2 ^ x.pickLog
  | 1 => 0 < sub32 v x.consumed && sub32 v x.consumed ≤ sub32 x.written x.consumed
  | 2 => x.abort.isNone
  | _ => false

/-- The spool's state lets a doorbell of a kind act (R426). -/
def dbState (x : Spool) (kind : Nat) : Bool := x.st == .active || (kind == 1 && x.st == .halted)

/-- A doorbell takes effect on a spool whose entry is cached, or is ignored and counted (R425, R426). -/
def dbApply (s : State) (d : SplDb) : State :=
  let x := splOf s d.spool
  if active s d.part && inSplRange s d.part d.spool && x.owner == d.part && dbState x d.kind && dbAccepted x d.kind d.val then
    match d.kind with
    | 0 => setSpl s d.spool { x with tail := d.val }
    | 1 => setSpl s d.spool { x with consumed := d.val }
    | _ => abortAccept s d.spool d.val
  else strayDb s d.part

/-- A doorbell of partition `p` (R424 to R426): one of another's spool is ignored at once; one whose entry is not cached waits
for the read of the entry. -/
def doorbell (s : State) (p spool kind val : Nat) : State :=
  let d : SplDb := { part := p, spool := spool, kind := kind, val := val % 2 ^ 32 }
  if !(active s p) || !(inSplRange s p spool) || 2 < kind then strayDb s p
  else if s.spl.dbs.any fun e => e.spool == spool then modSpl s fun q => { q with dbs := q.dbs ++ [d] }
  else if s.spl.cache.contains spool then withCtl s [.creel spool] fun s => dbApply (cacheTouch s spool) d
  else
    pmcEvent (modSpl s fun q => { q with dbs := q.dbs ++ [d], misses := q.misses + 1 }) 0x0A (some p)
      (some (splOf s spool).cls) .none 1

/-- A doorbell by a requester; the management port presents no partition and rings none. -/
def doorbellBy (s : State) (rq : Requester) (spool kind val : Nat) : State :=
  match rqPart rq with
  | some p => if spool < 2 ^ 20 then doorbell s p spool kind val else s
  | none => s

def execPush (rq : Requester) (spool tail : Nat) (s : State) : Host.Outcome State Fault Refusal :=
  act s fun s => portAccess s rq fun t => doorbellBy t rq spool dbPush tail
def execConsume (rq : Requester) (spool count : Nat) (s : State) : Host.Outcome State Fault Refusal :=
  act s fun s => portAccess s rq fun t => doorbellBy t rq spool dbConsume count
def execAbort (rq : Requester) (spool seq : Nat) (s : State) : Host.Outcome State Fault Refusal :=
  act s fun s => portAccess s rq fun t => doorbellBy t rq spool dbAbort seq

/-- CREEL_DESCRIPTOR_READ: once the memory grants the read in the spool's class, the entry is read into a line and the spool's waiting doorbells take effect in order; where every
line is held they wait (R424). -/
def creelReadEff (s : State) (k : Nat) : State :=
  let ds := s.spl.dbs.filter fun d => d.spool == k
  if ds.isEmpty ∨ !(engReady s (creelUse s k false)) then s
  else match cacheEnsure s k with
    | none => modSpl s fun p => { p with cacheWait := p.cacheWait + 1 }
    | some s1 =>
      if s1.flt.ctlStop then s1 else
      let s2 := modSpl s1 fun p => { p with dbs := p.dbs.filter fun d => d.spool != k }
      qNote (ds.foldl dbApply s2) (qKey 8 0 0 0 0) s2.spl.cache.length

def execCreelDescriptorRead (spool : Nat) (s : State) : Host.Outcome State Fault Refusal := act s fun s => creelReadEff s spool

/-! ### Fetch (R428 to R431, R436) -/

/-- Picks in flight in the stack (R430). -/
def stackInFlight (s : State) : Nat := smCount s.spl.picks fun _ x => !(pickIsDone x)

/-- The spool may fetch its next pick: a record slot is free for it beside those of every pick whose record is not yet written, the
records that wait among them (R430; DEDUCED, log entry 99). -/
def fetchReady (s : State) (k : Nat) : Bool :=
  let x := splOf s k
  x.st == .active && x.head != x.tail && inFlight s k < 64 && stackInFlight s < 16384
  && unwritten s k + x.waitRec.length + 2 ≤ freeSlots x && (damperTake s x.owner .hearth x.cls 128).isSome && active s x.owner

/-- The spool that the engine serves next: the highest class, and within it ascending after the spool served last (R430). -/
def fetchChoice (s : State) : Option Nat :=
  let ready := (s.spl.creel.map (·.1)).filter (fetchReady s)
  (List.range 4).findSome? fun c =>
    let ks := ready.filter fun k => (splOf s k).cls == c
    match smFind s.spl.turn c with
    | none => ks.head?
    | some t => match ks.find? fun k => t < k with
      | some k => some k
      | none => ks.head?

/-- Reserved bytes of the header are zero (R428). -/
def headerOk (b : List Byte) : Bool := (byteAt b 1).toNat / 4 == 0 && leAt b 2 6 == 0

/-- The pick just read at `n` completes at once where R431 or R436 say so: marked by an abort, poisoned, unknown, or with a
reserved header field set. -/
def fetchCheck (s : State) (n : Nat) (bad : Bool) (x : PickR) : State :=
  if (splOf s x.spool).abort = some x.seq then
    pickDone (setPick s n { x with abortSt := some stDone }) n stAborted 0 []
  else if bad then pickDone s n stPickPoison 0 []
  else if 0x10 < x.opc then pickDone s n stBadOpcode 0 []
  else if !(headerOk x.bytes) then pickDone s n stBadField 0 []
  else if x.opc = 9 then smpFetch s n x
  else s

/-- PICK_FETCH: the engine serves the spool: once the memory grants the read in the spool's class, its next pick is read, and charged 128 bytes (R428 to R431, R443, R452). -/
def pickFetchEff (s : State) (k : Nat) : State :=
  if fetchChoice s ≠ some k ∨ s.flt.ctlStop then s
  else withCtl s [.creel k] fun s =>
    let x := splOf s k
    let at_ := x.ring + 128 * (x.head % 2 ^ x.pickLog)
    if !(ownedRange s x.owner at_ 128) then splHalt s k 1
    else if !(engReady s (engReads s x.cls at_ 128)) then s
    else match cacheEnsure s k with
      | none => s
      | some s0 => if s0.flt.ctlStop then s0 else match damperTake s0 x.owner .hearth x.cls 128 with
        | none => s
        | some s1 =>
          let rd := engFetch s1 (some x.owner) x.cls at_ 128
          let z := (rd.1.getD 0 ⟨0, true⟩).poison
          let b := if z then [] else gransBytes rd.1 0 128
          let tag := if z then 0 else leAt b 8 8
          let n := rd.2.spl.next
          let pk : PickR := 
            { spool := k
              seq := x.head
              part := x.owner
              cls := x.cls
              opc := (byteAt b 0).toNat
              order := bitAt (byteAt b 1).toNat 0
              alert := bitAt (byteAt b 1).toNat 1
              tag := tag
              bytes := b
              st := .fetched }
          let s2 := setSpl rd.2 k { x with head := add32 x.head 1, tags := smSet x.tags (x.head % 2 ^ x.pickLog) tag }
          let s3 := modSpl (setPick s2 n pk) fun p => { p with next := n + 1, turn := smSet p.turn x.cls k }
          let s4 := qNote s3 (qKey 9 0 0 0 0) (stackInFlight s3)
          let s5 := sootPick s4 x.owner x.cls k x.head pk.opc 0 0 tag
          fetchCheck s5 n (anyBad rd.1) pk

def execPickFetch (spool : Nat) (s : State) : Host.Outcome State Fault Refusal := act s fun s => pickFetchEff s spool

/-! ### Records (R432, R433) -/

/-- The pick whose record its spool writes next. -/
def recordNext (s : State) (k : Nat) : Option Nat :=
  s.spl.doneQ.find? fun n => match pickOf s n with
    | some x => x.spool == k
    | none => false

/-- COMPLETION_RECORD: once the memory grants a write to it in the spool's class (R277), the record of a complete pick is written, in the order of completion, and after it the record of an
accepted abort of the pick (R432, R433, R442). -/
def completionRecordEff (s : State) (n : Nat) : State :=
  match pickOf s n with
  | none => s
  | some x => match x.st with
    | .done status reason result =>
      let y := splOf s x.spool
      let slot := y.cq + 64 * (y.written % 2 ^ y.recLog)
      if recordNext s x.spool ≠ some n then s
      else if y.st = .active ∧ !y.die ∧ !(engReady s (engWrites s y.cls slot 64)) then s
      else
        let s1 := modSpl s fun p => { p with picks := smDel p.picks n, doneQ := p.doneQ.filter (· != n) }
        let s2 := recWrite s1 x.spool (recBytes x.tag x.seq x.ret x.opc 0 status x.alert reason result)
        let s3 := sootPick s2 x.part x.cls x.spool x.seq x.opc 1 status x.tag
        let s4 := match x.abortSt with
          | some a => abortRec s3 x.spool x.seq x.tag a
          | none => s3
        s4
    | _ => s

def execCompletionRecord (pick : Nat) (s : State) : Host.Outcome State Fault Refusal := act s fun s => completionRecordEff s pick

/-- NOP_PICK: completes when it starts (R436). -/
def nopPickEff (s : State) (n : Nat) : State :=
  pickStart s n 0x00 fun x s => pickDone s n (if pkZero x 0x10 0x80 then stDone else stBadField) 0 []

def execNopPick (pick : Nat) (s : State) : Host.Outcome State Fault Refusal := act s fun s => nopPickEff s pick

/-! ### Configuration commands (R421, R443, R612) -/

/-- The pick ring of an enable lies where it may. -/
def pickRingOk (s : State) (p ring log : Nat) : Bool := ownedRange s p ring (128 * 2 ^ log)

/-- The record ring of a spool lies where it may (R421). -/
def recRingOk (s : State) (p : Nat) (x : Spool) : Bool :=
  if x.die then (smGet ({} : Agent) s.ports.agents x.src).bound else ownedRange s p x.cq (64 * 2 ^ x.recLog)

/-- The entry that ENABLE would load from the page's registers. -/
def splOfRegs (s : State) (p : Nat) : Spool :=
  { st := .active
    cls := pageF s p 0x320 0 2
    owner := p
    pickLog := pageF s p 0x308 48 5
    recLog := pageF s p 0x318 0 5
    die := pageF s p 0x318 8 1 == 1
    src := pageF s p 0x318 16 8
    ring := pageF s p 0x308 0 48 / 128 * 128
    cq := pageF s p 0x310 0 64 / 64 * 64 }

/-- Commands of SPL_CFG_CMD. -/
inductive SplCmd where
  | none | enable | disable | resume
deriving DecidableEq, Repr

/-- The result of a configuration command on spool `k` of partition `p`, and the state (R421, R443, R612). -/
def splCmd (s : State) (p k : Nat) (c : SplCmd) : Nat × State :=
  let x := splOf s k
  if c = .none then (7, s)
  else if !(inSplRange s p k) then (1, s)
  else match c with
    | .enable =>
      let n := splOfRegs s p
      if x.st ≠ .disabled then (1, s)
      else if !(pickRingOk s p n.ring n.pickLog) then (2, s)
      else if !(recRingOk s p n) then (3, s)
      else if n.cls = 0 ∧ !(rightEmber s p) then (4, s)
      else (0, setSpl s k n)
    | .disable =>
      if x.st = .disabled then (7, s)
      else if 0 < inFlight s k then (5, s)
      else (0, setSpl s k { x with st := .disabled })
    | _ =>
      if x.st ≠ .halted then (6, s)
      else if (if x.haltCause = 1 then pickRingOk s p x.ring x.pickLog && recRingOk s p x else recRingOk s p x) then
        (0, recFlush (setSpl s k { x with st := .active, haltCause := 0 }) k x.waitRec.length)
      else (6, s)

/-- A write of SPL_CFG_CMD by a requester that may reach the page (R448, R612). -/
def splCfg (s : State) (rq : Requester) (p : Nat) (c : SplCmd) : State :=
  if p < 1024 ∧ mayPresent s rq p then
    let k := selF s rq (pageBase p + 0x300) 0 20
    let r := splCmd s p k c
    modPart (if r.1 = 0 then creelSync r.2 k else r.2) p fun x => { x with splResult := r.1, splCount := (x.splCount + 1) % 4096 }
  else strayPage s rq

def execEnable (rq : Requester) (part : Nat) (s : State) : Host.Outcome State Fault Refusal := act s fun s => portAccess s rq fun t => splCfg t rq part .enable
def execDisable (rq : Requester) (part : Nat) (s : State) : Host.Outcome State Fault Refusal := act s fun s => portAccess s rq fun t => splCfg t rq part .disable
def execResume (rq : Requester) (part : Nat) (s : State) : Host.Outcome State Fault Refusal := act s fun s => portAccess s rq fun t => splCfg t rq part .resume

end Sys2Proof.Machine
end

