-- ==== Sys2Proof/Machine/RegRead.lean ====
section
/-! DEFINITION. What each word of the register window reads as, who may read it, and the reads that capture, stream or
keep a shadow (R504, R587 to R613). -/

namespace Sys2Proof.Machine

/-- A word from (low bit, width, value) parts. -/
def wd (parts : List (Nat × Nat × Nat)) : W64 := parts.foldl (fun w p => w ||| put p.1 p.2.1 p.2.2) 0

def w64 (n : Nat) : W64 := BitVec.ofNat 64 n

/-! ### Global, hearth and flue blocks (R593 to R595) -/

/-- GLB_RGN_DESC of table index `i` (R593). -/
def rgnDesc (s : State) (i : Nat) : W64 :=
  match rgnAt s i with
  | none => 3
  | some r =>
    let loc := r.kind == .bankLocal
    wd [(0, 2, match r.kind with
          | .striped => 0
          | .bankLocal => 1
          | .reserved => 2),
        (2, 15, r.base / 0x200000), (17, 6, r.first), (23, 7, r.count),
        (30, 5, if loc then r.c0 else 0), (35, 5, if loc then r.c1 else 31),
        (40, 4, if loc then r.r0 else 0), (44, 4, if loc then r.r1 else s.boot.dies - 1),
        (48, 1, b2n r.acc), (49, 10, r.owner), (59, 1, b2n r.block), (60, 1, b2n r.banked), (61, 1, b2n r.init), (62, 1, 1)]

/-- A word of a violation log entry (R594). -/
def violWord (v : Viol) (i : Nat) : W64 :=
  if i = 0 then wd [(0, 1, b2n v.valid), (16, 16, v.count), (32, 32, v.time)] else w64 (bitsAt v.hdr.toNat (64 * (i - 1)) 64)

/-- Agents bound to a hearth module (R348). -/
def agentsBound (s : State) (m : Nat) : Nat := smCount s.ports.agents fun _ a => a.bound && a.module == m

/-- The module status word of either port (R594, R595). -/
def modStat (s : State) (flue : Bool) (m : Nat) : W64 :=
  let x := modOf s flue m
  wd ([(0, 4, modSNum x.st), (4, 1, b2n x.half), (8, 4, x.fails), (24, 8, x.repaired)] ++
    (if flue then [(32, 2, lightNum x.light), (34, 1, b2n !x.lol), (35, 1, b2n !x.att)]
     else [(16, 5, agentsBound s m)]))

/-- Words of HP_ERR_CNT and FL_ERR_CNT. -/
def errWord (x : PModule) : Nat → W64
  | 0 => w64 x.crcErr
  | 1 => w64 x.weftErr
  | 2 => w64 x.replayCnt
  | _ => w64 x.discard

/-- Eight bytes of HP_AGENT_MAP from SRC `a`. -/
def agentWord (s : State) (a : Nat) : W64 :=
  wd ((List.range 8).flatMap fun j =>
    let g := smGet ({} : Agent) s.ports.agents (a + j)
    [(8 * j, 4, g.module), (8 * j + 7, 1, b2n g.bound)])

/-- FL_PEER_STAT of a peer-table entry. -/
def peerStat (s : State) (k : Nat) : W64 :=
  if 4096 < k then 0
  else
    let p := smGet ({} : Peer) s.ports.peers k
    wd [(0, 16, p.id), (16, 16, p.mods), (32, 7, p.roles), (39, 1, b2n p.enabled), (40, 10, p.part), (50, 3, sessNum p.sess),
      (53, 1, b2n p.unreach), (54, 5, (anchorOf s p).getD 31)]

def fanWord (s : State) (k i : Nat) : W64 :=
  match smFind s.str.fans k with
  | none => 0
  | some f =>
    if i = 0 then wd [(0, 32, f.lastSent), (32, 32, f.lastFinal)]
    else wd [(0, 32, f.lastRecant), (32, 4, f.dests.length), (36, 1, b2n f.spec), (37, 10, f.owner), (47, 1, 1)]

def rxNum : RxSt → Nat
  | .idle => 0 | .receiving => 1 | .complete => 2 | .final => 3 | .recanted => 4 | .incomplete => 5

def fanRxWord (s : State) (k i : Nat) : W64 :=
  match smFind s.str.rxFan k with
  | none => 0
  | some r =>
    if i = 0 then wd [(0, 3, rxNum r.st), (3, 1, r.validHalf), (4, 1, 1), (16, 16, r.src), (32, 10, r.owner)]
    else wd [(0, 32, r.lastFinal), (32, 32, r.complete)]

/-- Words of the global block. -/
def wordGlb (s : State) (rq : Requester) (off : Nat) : Option W64 :=
  match off with
  | 0x00 => some (w64 glbRelease)
  | 0x08 => some (wd [(0, 5, s.boot.dies)])
  | 0x10 => some (wd [(0, 16, s.boot.fwVer)])
  | 0x18 => some (wd [(0, 16, s.boot.libVer)])
  | 0x20 => some (selRd s rq 0x20)
  | 0x28 => some (rgnDesc s (selF s rq 0x20 0 13))
  | _ => none

/-- Words that both ports have, at offset `o` of the port's block. -/
def wordPort (s : State) (rq : Requester) (flue : Bool) (o : Nat) : Option W64 :=
  let b := if flue then 0x20000 else 0x10000
  let m := selF s rq b 0 4
  match o with
  | 0x00 => some (selRd s rq b)
  | 0x08 => some (modStat s flue m)
  | 0x10 => some 0
  | 0x18 => some (regRd s (b + 0x18))
  | _ => if 0x20 ≤ o ∧ o < 0x40 then some (errWord (modOf s flue m) ((o - 0x20) / 8)) else none

def wordHp (s : State) (rq : Requester) (off : Nat) : Option W64 :=
  let o := off - 0x10000
  match wordPort s rq false o with
  | some w => some w
  | none =>
    if o = 0x40 then some (regRd s 0x10040)
    else if 0x100 ≤ o ∧ o < 0x100 + 320 then
      let v := smGet ({} : Viol) (modOf s false (selF s rq 0x10000 0 4)).viol ((o - 0x100) / 40 + 1)
      some (violWord v ((o - 0x100) % 40 / 8))
    else if o = 0x300 then some (w64 s.ports.tposeStalls)
    else if 0x400 ≤ o ∧ o < 0x500 then some (agentWord s (o - 0x400))
    else none

def wordFl (s : State) (rq : Requester) (off : Nat) : Option W64 :=
  let o := off - 0x20000
  match wordPort s rq true o with
  | some w => some w
  | none =>
    match o with
    | 0x40 => some (w64 s.ports.lossDark)
    | 0x48 => some (w64 s.ports.lossSess)
    | 0x50 => some (w64 s.ports.lossRx)
    | 0x58 => some (w64 s.ports.lossBytes)
    | 0x60 => some (regRd s 0x20060 ||| wd [(0, 1, b2n s.ports.markLost), (1, 4, s.ports.markGood)])
    | 0x68 => some (wd [(0, 16, s.ports.peerId)])
    | 0x70 => some (selRd s rq 0x20070)
    | 0x78 => some (peerStat s (selF s rq 0x20070 0 13))
    | 0x80 => some (regRd s 0x20080)
    | 0x300 => some (selRd s rq 0x20300)
    | 0x308 => some (fanWord s (selF s rq 0x20300 0 4) 0)
    | 0x310 => some (fanWord s (selF s rq 0x20300 0 4) 1)
    | 0x320 => some (selRd s rq 0x20320)
    | 0x328 => some (fanRxWord s (selF s rq 0x20320 0 8) 0)
    | 0x330 => some (fanRxWord s (selF s rq 0x20320 0 8) 1)
    | _ =>
      if 0x100 ≤ o ∧ o < 0x100 + 440 then
        let k := selF s rq 0x20070 0 13
        let v := if 4096 < k then {} else smGet ({} : Viol) (smGet ({} : Peer) s.ports.peers k).viol ((o - 0x100) / 40 + 1)
        some (violWord v ((o - 0x100) % 40 / 8))
      else none

/-! ### Scheduler, warp, clocks and boot (R596 to R599) -/

/-- Half watts of an FP32 power, rounded down (R596). -/
def halfWatts (b : W32) : Nat := f32Floor b 2

def wordSch (s : State) (rq : Requester) (off : Nat) : Option W64 :=
  match off with
  | 0x30038 =>
    let v := selRd s rq 0x30038
    let die := fld v 7 4
    some (v ||| (if die < s.boot.dies then put 16 5 (ofSigned 5 (debtOf (pairAt s die (fld v 2 5)) (fld v 0 2))) else 0))
  | 0x30070 =>
    some (wd [(0, 9, halfWatts s.sched.ceiling), (16, 9, halfWatts s.sched.floorT), (32, 9, halfWatts s.sched.lastP)])
  | 0x30080 => some (w64 s.sched.refForced)
  | 0x30088 => some (w64 s.sched.refPulled)
  | 0x30090 => some (w64 s.sched.emberDem)
  | 0x30098 => some (w64 s.sched.calDef)
  | 0x300A0 => some (w64 s.sched.tsvWait)
  | 0x300A8 => some (w64 (s.sched.ballast / 1000))
  | _ => if (fieldsAt off).isEmpty then none else some (regRd s off)

/-- WW_SPARE_STAT (R597). -/
def spareStat (s : State) : W64 :=
  wd [(17, 1, b2n s.warp.noSpare), (18, 3, min 7 s.warp.queue.length)] |||
  (match s.warp.migr with
   | none => 0
   | some g => wd [(0, 2, if g.switching then 2 else 1), (2, 4, g.die), (6, 5, g.pos), (11, 6, g.spare), (32, 27, g.mark)])

/-- A per-pair counter of the pair that WW_PAIR_SEL names; zero where the pair does not exist (R592). -/
def pairCounter (s : State) (rq : Requester) (m : SMap Nat) : W64 :=
  let p := selF s rq 0x40000 0 6
  let d := selF s rq 0x40000 8 4
  if p < 34 ∧ d < s.boot.dies then w64 (smGet 0 m (d * 34 + p)) else 0

def wordWw (s : State) (rq : Requester) (off : Nat) : Option W64 :=
  match off with
  | 0x40000 => some (selRd s rq 0x40000)
  | 0x40008 => some (pairCounter s rq s.warp.ce)
  | 0x40010 => some (pairCounter s rq s.warp.ue)
  | 0x40018 => some (pairCounter s rq s.warp.poison)
  | 0x40020 => some (w64 s.warp.drop)
  | 0x40028 => some (w64 s.warp.sweepPoison)
  | 0x40038 => some (regRd s off)
  | 0x40040 => some (wd [(0, 27, min s.warp.sweepPos 0x7FFFFE0)])
  | 0x40048 => some (w64 s.warp.sweepPass)
  | 0x40050 => some (spareStat s)
  | 0x40058 => some (regRd s off)
  | _ =>
    if 0x40100 ≤ off ∧ off < 0x40200 then
      let d := smGet ({} : TsvDie) s.sched.dies ((off - 0x40100) / 16)
      some (w64 (if off % 16 = 0 then d.tsvRetry else d.weftRetry))
    else none

def pwrNum : PwrSt → Nat
  | .service => 0 | .retainEntry => 1 | .retain => 2 | .retainExit => 3

def wordClk (s : State) (off : Nat) : Option W64 :=
  let c := s.clk
  match off with
  | 0x50000 => some (wd [(0, 1, b2n c.refReady), (1, 1, b2n c.rootReady), (2, 1, b2n c.coast), (3, 1, b2n c.hpLock),
      (4, 1, b2n c.flLock), (5, 1, b2n c.foscFault), (8, 3, c.swRefused), (16, 1, b2n c.psRefused)])
  | 0x50008 => some (regRd s off)
  | 0x50010 => some (regRd s off ||| wd [(4, 2, c.refActive), (8, 9, c.trim), (32, 32, c.ratio)])
  | 0x50018 => some (regRd s off)
  | 0x50020 => some (regRd s off)
  | 0x50028 => some (regRd s off ||| wd [(2, 2, pwrNum c.pst)])
  | _ => none

def bootNum : BootSt → Nat
  | .clocks => 0 | .stack => 1 | .flash => 2 | .read => 3 | .check => 4 | .load => 5 | .arrays => 6 | .tables => 7
  | .service => 8 | .haltStack => 9 | .haltFlash => 10 | .haltImage => 11 | .haltVersion => 12

def wordBt (s : State) (off : Nat) : Option W64 :=
  let b := s.boot
  match off with
  | 0x60000 => some (wd [(0, 4, bootNum b.st), (4, 1, b2n b.slotB), (5, 1, b2n b.fallback), (6, 1, b2n b.overridden),
      (8, 2, b.libLoad), (12, 3, b.libFail), (32, 32, b.refusal)])
  | 0x60008 => some b.imageId
  | 0x60010 => some (wd [(0, 32, b.secFloorReg)])
  | 0x60018 => some (regRd s off)
  | 0x60020 => some (regRd s off)
  | 0x60028 => some 0
  | 0x60030 => some (regRd s off)
  | 0x60038 => some (wd [(0, 3, b.flSt), (4, 2, b.flCmd)])
  | _ => none

/-! ### Observation (R600) -/

/-- The unit that a queue select names exists (R541, R592). -/
def queueExists (s : State) (k : Nat) : Bool :=
  let die := bitsAt k 8 4
  let pos := bitsAt k 12 5
  let q := k % 32
  1 ≤ q && q ≤ 15 &&
    (if q = 1 ∨ q = 2 ∨ q = 6 ∨ q = 7 ∨ q = 13 then decide (die < s.boot.dies)
     else if q = 3 ∨ q = 4 then decide (pos < 16) else if q = 12 then decide (die * 32 + pos < 64) else true)

/-- OBS_Q_STAT as it stands for the requester's queue (R541). -/
def qStat (s : State) (rq : Requester) : List W64 :=
  let k := (selRd s rq 0xE00200).toNat
  if queueExists s k then
    let q := smGet ({} : QObs) s.obs.queues k
    [w64 (queueCur s k), w64 (max q.max (queueCur s k)), w64 q.sum, s.clk.gtc]
  else [0, 0, 0, 0]

/-- OBS_WFG_EDGE of the requester's index (R554). -/
def wfgWords (s : State) (rq : Requester) : List W64 :=
  match s.obs.wfgEdges[selF s rq 0xE00618 0 16]? with
  | some e => [wd [(0, 32, e.waiter), (32, 32, e.holder)], wd [(0, 16, e.reason), (16, 16, e.flags), (32, 32, e.age)]]
  | none => [0, 0]

/-- OBS_BRK_CTX: 8 bytes of the selected hob's saved record, while a firing is suspended at the breakpoint (R556); a granule of it
that is poison reads as zero. -/
def brkCtx (s : State) (rq : Requester) : W64 :=
  match (smGet ({} : Brk) s.obs.brk (selF s rq 0xE00700 0 3)).held with
  | none => 0
  | some n =>
    let x := firingOf s n
    match x.slot, x.saved.find? fun e => e.1 == selF s rq 0xE00720 0 9 with
    | some q, some e => w64 (leAt (gransBytes (ctxPeek s q e.1) 0 1280) (selF s rq 0xE00720 16 11 / 8 * 8) 8)
    | _, _ => 0

def wordObs (s : State) (rq : Requester) (off : Nat) : Option W64 :=
  let pm := smGet ({} : Pmc) s.obs.pmc (selF s rq 0xE00400 0 4)
  let rg := smGet ({} : SootRing) s.obs.rings (selF s rq 0xE00500 0 4)
  let bk := smGet ({} : Brk) s.obs.brk (selF s rq 0xE00700 0 3)
  let copy := some (smGet 0 s.capt (rqOff rq off))
  let pc := part s (selF s rq 0xE00300 0 10)
  match off with
  | 0xE00000 => some s.clk.gtc
  | 0xE00008 => some (atime s)
  | 0xE00010 => some s.obs.ofs
  | 0xE00018 => some (regRd s off)
  | 0xE00020 => some (regRd s off)
  | 0xE00028 => some 0
  | 0xE00030 => some (wd [(0, 16, s.obs.epoch), (16, 1, b2n s.obs.armed.isSome), (17, 1, b2n s.obs.armLate),
      (18, 1, b2n s.obs.slip), (19, 1, b2n s.obs.locked)])
  | 0xE00038 => some s.obs.markCnt
  | 0xE00040 => some s.obs.markGtc
  | 0xE00048 => some 0
  | 0xE00050 => copy
  | 0xE00058 => copy
  | 0xE00060 => copy
  | 0xE00100 => some (selRd s rq off ||| wd [(1, 1, b2n (s.obs.snapDone.contains (rqKey rq)))])
  | 0xE00200 => some (selRd s rq off)
  | 0xE00228 => some 0
  | 0xE00300 => some (selRd s rq off)
  | 0xE00308 => some (w64 pc.chHearth)
  | 0xE00310 => some (w64 pc.chHob)
  | 0xE00318 => some (w64 pc.chFlue)
  | 0xE00400 => some (selRd s rq off)
  | 0xE00408 => some pm.cfg
  | 0xE00410 => some (w64 pm.val)
  | 0xE00418 => some (wd [(8, 1, b2n s.obs.running)])
  | 0xE00500 => some (selRd s rq off)
  | 0xE00508 => some rg.cfg
  | 0xE00510 => some (wd [(0, 1, b2n rg.cfgRefused), (1, 1, b2n rg.stall)])
  | 0xE00518 => some (w64 rg.lost)
  | 0xE00520 => some (w64 rg.wr)
  | 0xE00528 => some (w64 rg.rd)
  | 0xE00530 => some rg.drain0
  | 0xE00538 => some rg.drain1
  | 0xE00600 => some 0
  | 0xE00608 => some (wd [(0, 1, b2n s.obs.wfgDone), (1, 1, b2n s.obs.wfgBuilding), (2, 1, b2n s.obs.wfgTrunc),
      (16, 17, s.obs.wfgEdges.length), (33, 16, s.obs.wfgCycles)])
  | 0xE00610 => some (wd [(0, 32, s.obs.wfgWalk)])
  | 0xE00618 => some (selRd s rq off)
  | 0xE00620 => copy
  | 0xE00628 => copy
  | 0xE00700 => some (selRd s rq off)
  | 0xE00708 => some bk.cfg
  | 0xE00710 => some (wd [(0, 32, bk.epoch.toNat)])
  | 0xE00718 => some (wd [(8, 1, b2n bk.held.isSome)])
  | 0xE00720 => some (selRd s rq off)
  | 0xE00728 => some (brkCtx s rq)
  | _ => if (0xE00208 ≤ off ∧ off < 0xE00228) ∨ (0xE00108 ≤ off ∧ off < 0xE00148) then copy else none

/-! ### Fireback and faults (R601) -/

def mbNum : MbSt → Nat
  | .idle => 0 | .pending => 1 | .evaluating => 2 | .running => 3 | .done => 4

/-- A word of FB_ALERT.SUMMARY, from 1: bit p of partition p, and bit 1,024 of the fireback (R601). -/
def summaryWord (s : State) (i : Nat) : W64 :=
  if i = 17 then wd [(0, 1, b2n (fbAlertOn s))]
  else wd ((s.parts.filter fun kv => kv.1 / 64 == i - 1 && partAlertOn s kv.1).map fun kv => (kv.1 % 64, 1, 1))

/-- A word of mailbox `n` at byte `o` (R474, R601). -/
def mboxWord (s : State) (n o : Nat) : W64 :=
  let m := mboxOf s n
  if o < 0xF0 then w64 (leNat ((List.range 8).map fun i => smGet 0 m.bytes (o + i)))
  else if o = 0xF0 then 0
  else wd [(0, 3, mbNum m.st), (3, 5, m.ignored), (8, 8, m.status), (16, 16, m.detail), (32, 32, m.counter)]

def inMboxes (off : Nat) : Bool := 0xF40000 ≤ off && off < 0xF80100
def mboxNo (off : Nat) : Nat := (off - 0xF40000) / 256

/-- The fault record that FLT_REC_SEL names, as bytes (R565). -/
def recSelected (s : State) (rq : Requester) : List Byte :=
  if selF s rq 0xF10028 8 1 = 1 then
    match smFind s.flt.log (selF s rq 0xF10028 16 16) with
    | some l => recordBytes l.fr
    | none => []
  else match s.flt.recent[selF s rq 0xF10028 0 8]? with
    | some r => recordBytes r
    | none => []

/-- The ring entry that FLT_RING_IDX names (R568). -/
def ringSelected (s : State) (rq : Requester) : List Byte :=
  match smFind s.flt.ring (selF s rq 0xF10038 0 6) with
  | some r => ringBytes r
  | none => []

/-- The history entry that FLT_HIST_SEL names; that of a die which is not populated is zero (R571). -/
def histSelected (s : State) (rq : Requester) : List Byte :=
  let e := selF s rq 0xF10050 4 10
  if s.boot.dies * 34 ≤ e then []
  else if selF s rq 0xF10050 0 1 = 0 then pairHistBytes (smGet {} s.flt.pairs e) ((servedPos s (e / 34) (e % 34)).getD 255)
  else tileHistBytes (smGet {} s.flt.tiles e)

/-- Streamed registers, by offset: the bytes of the item and how many words it has (R589). -/
def streamItem (s : State) (rq : Requester) (off : Nat) : Option (List Byte × Nat) :=
  match off with
  | 0xF10030 => some (recSelected s rq, 32)
  | 0xF10040 => some (ringSelected s rq, 4)
  | 0xF10058 => some (histSelected s rq, if selF s rq 0xF10050 0 1 = 0 then 16 else 4)
  | _ => none

/-- Position of a requester in a streamed register. -/
def strmPos (s : State) (rq : Requester) (off : Nat) : Nat := smGet 0 s.strm (rqOff rq off)

/-- FLT_LOG_STAT.FLASH: failed, or writing while a record, the history or a counter reservation waits for its write (R601; DESIGN
CHOICE, log entry 59). -/
def logFlash (s : State) : Nat :=
  if s.flt.flash = 2 then 2 else b2n (!s.flt.commitQ.isEmpty || s.flt.histDue || s.fb.resvWrite.isSome)

def wordFlt (s : State) (rq : Requester) (off : Nat) : Option W64 :=
  let f := s.flt
  match off with
  | 0xF10000 => some (w64 f.newest)
  | 0xF10008 => some (w64 f.committed)
  | 0xF10010 => some (wd [(0, 1, b2n f.fallback), (1, 1, b2n f.flashOk), (2, 2, logFlash s)])
  | 0xF10018 => some (w64 f.lost)
  | 0xF10020 => some (regRd s off)
  | 0xF10028 => some (selRd s rq off)
  | 0xF10038 => some (selRd s rq off)
  | 0xF10048 => some (wd [(0, 6, f.ringNext), (32, 32, f.overwritten)])
  | 0xF10050 => some (selRd s rq off)
  | 0xF10060 => some (regRd s off)
  | 0xF10068 => some (regRd s off)
  | 0xF10070 => some (w64 f.notRun)
  | 0xF10078 => some (wd [(0, 32, f.lastUs)])
  | 0xF10080 => some (regRd s off ||| wd [(0, 1, b2n f.powerCycle)])
  | 0xF10088 => some (w64 f.rung2)
  | 0xF10090 => some (w64 f.rung3)
  | 0xF10098 => some (w64 f.rung4)
  | _ => match streamItem s rq off with
    | some x => some (if strmPos s rq off < x.2 then wordAt x.1 (strmPos s rq off) else 0)
    | none => none

def wordFb (s : State) (rq : Requester) (off : Nat) : Option W64 :=
  let f := s.fb
  if inMboxes off then some (mboxWord s (mboxNo off) (off % 256))
  else if 0xF10000 ≤ off then wordFlt s rq off
  else match off with
  | 0xF00000 => some Config.fusedUid
  | 0xF00008 => some (w64 f.ctr)
  | 0xF00010 => some (wd [(0, 1, b2n f.resvFail)])
  | 0xF00018 => some (w64 f.resv)
  | 0xF00020 => some (calWord f.cal)
  | 0xF00028 => some (wd [(0, 1, b2n f.calValid), (1, 1, b2n f.calEnd), (2, 1, b2n f.calBad)])
  | 0xF00030 => some (regRd s off ||| wd [(0, 9, f.gov)])
  | 0xF00038 => some (wd [(0, 16, ofSigned 16 f.temp), (16, 16, f.govExt)])
  | 0xF00040 => some (wd [(0, 9, f.faultCause)])
  | 0xF00100 => some (regRd s off ||| wd [(0, 8, f.alertCause)])
  | _ => if 0xF00108 ≤ off ∧ off < 0xF00190 then some (summaryWord s ((off - 0xF00100) / 8)) else none

/-! ### Work subsystems (R605 to R609) -/

/-- State of an epoch of a context as STP_CTX_STATE numbers it (R607). -/
def prevState (c : StepCtx) : Nat :=
  match epOf c (sub32 c.openEpoch 1) with
  | some e => match e.st with
    | .open => 1
    | .closed => 2
    | .deciding => 3
    | .updating => 4
    | .done => 5
  | none => if c.openEpoch = c.first then 0 else 5

/-- STP_CTX_STATE as it stands for a context (R607). -/
def stpWords (s : State) (k : Nat) : List W64 :=
  match smFind s.stp.ctxs k with
  | none => [0, 0, 0, 0]
  | some c =>
    let f := match epOf c c.openEpoch with
      | some e => if c.isOpen then e.fences.length else 0
      | none => 0
    [wd [(0, 32, c.last), (32, 32, c.openEpoch)],
     wd [(0, 3, prevState c), (3, 1, 1), (4, 1, b2n c.isOpen), (16, 16, f), (32, 10, c.owner)], w64 c.dupFence, w64 c.accFail]

/-- STP_CTX_HEARD as 64 words (R607). -/
def heardWords (s : State) (k : Nat) : List W64 :=
  let h := (ctxOf s k).heard
  (List.range 64).map fun i => wd ((h.filter fun x => x / 64 == i).map fun x => (x % 64, 1, 1))

/-- Where the requester's copy of STP_CTX_HEARD is held. -/
def heardOff : Nat := 0x88000

def wordStp (s : State) (rq : Requester) (off : Nat) : Option W64 :=
  let k := selF s rq 0x80000 0 6
  let c := ctxOf s k
  match off with
  | 0x80000 => some (selRd s rq off)
  | 0x80028 => some (wd [(0, 24, c.tcd)])
  | 0x80030 => some (wd [(0, 17, c.tnt)])
  | 0x80038 => some (w64 c.discard)
  | 0x80040 => some (w64 c.dropped)
  | 0x80048 => some (wd [(0, 32, c.ash.length), (32, 32, c.quota)])
  | 0x80058 => some (w64 s.stp.stray)
  | 0x80060 =>
    let p := strmPos s rq off
    some (if p = 0 then (heardWords s k).getD 0 0 else if p < 64 then smGet 0 s.capt (rqOff rq (heardOff + 8 * p)) else 0)
  | _ => if 0x80008 ≤ off ∧ off < 0x80028 then some (smGet 0 s.capt (rqOff rq off)) else none

def twNum : TwSt → Nat
  | .unpaired => 0 | .pairing => 1 | .inStep => 2 | .degraded => 3 | .diverged => 4 | .resync => 5

def twinWord (s : State) (k i : Nat) : W64 :=
  match smFind s.str.twins k with
  | none => 0
  | some t => match i with
    | 0 => wd [(0, 3, twNum t.st), (3, 1, b2n t.replay), (4, 1, b2n t.hold), (8, 8, t.partnerRec), (16, 16, t.peer), (32, 10, t.owner)]
    | 1 => wd [(0, 32, t.lastMatch), (32, 32, t.lastHdr)]
    | _ => w64 t.unverified

def smkWord (s : State) (k i : Nat) : W64 :=
  match smFind s.str.smokes k with
  | none => 0
  | some x => match i with
    | 0 => wd [(0, 1, 1), (1, 3, x.sinks.length), (6, 16, x.d), (22, 10, x.owner), (32, 6, x.ctx), (38, 2, x.snap)]
    | 1 => wd [(0, 32, x.lastComplete), (32, 32, x.lastGap)]
    | 2 => w64 x.gaps
    | 3 => w64 x.granules
    | 4 => w64 x.share
    | 5 => w64 x.used
    | _ => w64 x.high

def smkRxWord (s : State) (k i : Nat) : W64 :=
  match smFind s.str.rxSmoke k with
  | none => 0
  | some r =>
    if i = 0 then wd [(0, 32, r.complete), (32, 1, r.validHalf), (33, 1, 1), (48, 10, r.owner)] else wd [(0, 32, r.epoch)]

/-- The other words of the blocks 0x0008_1000 to 0x0008_6FFF. -/
def wordWork (s : State) (rq : Requester) (off : Nat) : Option W64 :=
  match off with
  | 0x81000 => some (w64 s.ports.hedMaskWait)
  | 0x81008 => some (w64 s.ports.maskBytes)
  | 0x82020 => some (wd [(0, 32, s.smp.lastNs), (32, 4, match s.smp.run with
      | some r => r.ctx
      | none => s.smp.lastCtx), (36, 1, b2n s.smp.run.isSome)])
  | 0x82028 => some (w64 s.smp.picks)
  | 0x83000 => some (selRd s rq off)
  | 0x83028 => some (w64 s.str.twinBytes)
  | 0x83030 => some (w64 s.str.twinHigh)
  | 0x84000 => some (selRd s rq off)
  | 0x84040 => some (selRd s rq off)
  | 0x84048 => some (smkRxWord s (selF s rq 0x84040 0 8) 0)
  | 0x84050 => some (smkRxWord s (selF s rq 0x84040 0 8) 1)
  | 0x85000 => some (w64 s.spl.misses)
  | 0x85008 => some (w64 s.spl.cacheWait)
  | 0x85010 => some (wd [(0, 13, (s.spl.cache.filter fun k => 0 < inFlight s k).length), (32, 15, stackInFlight s)])
  | 0x86000 => some (w64 s.poolHearth)
  | 0x86008 => some (w64 s.poolHob)
  | 0x86010 => some (w64 s.poolFlue)
  | _ =>
    if 0x83008 ≤ off ∧ off < 0x83020 then some (twinWord s (selF s rq 0x83000 0 6) ((off - 0x83008) / 8))
    else if 0x84008 ≤ off ∧ off < 0x84040 then some (smkWord s (selF s rq 0x84000 0 4) ((off - 0x84008) / 8))
    else if (fieldsAt off).isEmpty then none else some (regRd s off)

/-- STATE of FIR_STATUS (R605). -/
def firStatusNum : FirSt → Nat
  | .launching => 1 | .running => 2 | .stopping => 3 | .saving => 4 | .restoring => 5 | .ending => 6
  | .held => 0 | .queued => 0 | .suspended => 0

def firCount (s : State) (st : FirSt) : Nat := min 16383 (smCount s.fir.all fun _ x => x.st == st)

def wordFir (s : State) (off : Nat) : Option W64 :=
  match off with
  | 0x100000 => some (match curFiring s with
    | none => 0
    | some (_, x) => wd [(0, 20, x.spool), (20, 10, x.part), (32, 3, firStatusNum x.st), (36, 2, x.cls), (38, 1, b2n x.f.update),
        (39, 1, b2n x.red), (40, 16, x.f.prog)])
  | 0x100008 => some (match curFiring s with
    | none => 0
    | some (_, x) => wd [(0, 32, x.f.epoch), (32, 32, x.seq)])
  | 0x100010 => some (wd [(0, 11, slotsFree s), (16, 11, s.fir.slots), (28, 2, redFree s)])
  | 0x100018 => some (wd [(0, 14, firCount s .held), (16, 14, firCount s .queued), (32, 14, firCount s .suspended)])
  | 0x100040 => some (wd [(0, 1, b2n (0 < weftWaits s)), (8, 8, min 255 (weftWaits s))])
  | _ => if (fieldsAt off).isEmpty then none else some (regRd s off)

/-- Words of the hob registers; those of a logical number beyond the populated grid read as zero (R605, R592). -/
def wordHob (s : State) (off : Nat) : Option W64 :=
  let n := (off - 0x110000) / 64
  let h := hobOf s n
  let there := n < s.boot.dies * 32
  match off % 64 with
  | 0x00 => some (if there then wd [(0, 5, n % 32), (8, 4, n / 32), (16, 9, n), (32, 6, physPair s (n / 32) (n % 32))] else 0)
  | 0x08 => some (if there then w64 h.ce else 0)
  | 0x10 => some (if there then w64 h.halts else 0)
  | 0x18 => some (if there then wd [(0, 3, h.endSt), (16, 16, h.ckpt), (32, 32, h.firings)] else 0)
  | _ => none

/-! ### Partition pages (R610) -/

def partNum : PartSt → Nat
  | .free => 0 | .active => 1 | .reinit => 2

def splNum : SplSt → Nat
  | .disabled => 0 | .active => 1 | .halted => 2

/-- SPL_STAT as it stands for the spool that SPL_CFG_IDX names; zero outside the partition's range (R610). -/
def splWords (s : State) (p k : Nat) : List W64 :=
  if inSplRange s p k then
    let x := splOf s k
    [wd [(0, 2, splNum x.st), (2, 2, x.cls), (4, 1, b2n x.abort.isSome), (8, 4, x.haltCause), (16, 16, inFlight s k)],
     wd [(0, 32, x.tail), (32, 32, x.head)], wd [(0, 32, x.retired), (32, 32, x.written)],
     wd [(0, 32, x.consumed), (32, 32, x.abort.getD 0)]]
  else [0, 0, 0, 0]

def wordPage (s : State) (rq : Requester) (off : Nat) : Option W64 :=
  let p := (off - 0x200000) / 4096
  let o := (off - 0x200000) % 4096
  let x := part s p
  match o with
  | 0x000 => some (wd [(0, 2, partNum x.st)])
  | 0x040 => some (regRd s off ||| wd [(0, 7, x.alert)])
  | 0x050 => some 0
  | 0x060 => some (wd [(0, 1, b2n (0 < x.bulk)), (16, 16, x.reinits)])
  | 0x068 => some (w64 x.strayDb)
  | 0x070 => some (w64 x.strayPage)
  | 0x078 => some (w64 x.pwFail)
  | 0x080 => some (w64 x.emberDem)
  | 0x0D8 => some (w64 x.posted)
  | 0x120 => some (w64 (ofSigned 64 x.lvlHearth))
  | 0x128 => some (w64 (ofSigned 64 x.lvlHob))
  | 0x130 => some (w64 (ofSigned 64 x.lvlFlue))
  | 0x300 => some (selRd s rq off)
  | 0x328 => some 0
  | 0x330 => some (wd [(0, 4, x.splResult), (8, 12, x.splCount)])
  | _ =>
    if 0x090 ≤ o ∧ o < 0x0D8 then some (w64 (smGet 0 x.refused ((o - 0x090) / 8 + 1)))
    else if 0x340 ≤ o ∧ o < 0x360 then some (smGet 0 s.capt (rqOff rq off))
    else if (fieldsAt off).isEmpty then none else some (regRd s off)

/-! ### Access (R448, R469, R539, R591, R604) -/

/-- What a word reads as now, or none where no register lies (R587, R588, R603). -/
def wordNow (s : State) (rq : Requester) (off : Nat) : Option W64 :=
  if off < 0x10000 then wordGlb s rq off
  else if off < 0x20000 then wordHp s rq off
  else if off < 0x30000 then wordFl s rq off
  else if off < 0x40000 then wordSch s rq off
  else if off < 0x50000 then wordWw s rq off
  else if off < 0x60000 then wordClk s off
  else if off < 0x70000 then wordBt s off
  else if off < 0x80000 then none
  else if off < 0x81000 then wordStp s rq off
  else if off < 0xA0000 then wordWork s rq off
  else if off < 0xB0000 then some 0
  else if off < 0x100000 then none
  else if off < 0x101000 then wordFir s off
  else if off < 0x110000 then none
  else if off < 0x118000 then wordHob s off
  else if off < 0x200000 then none
  else if off < 0x600000 then wordPage s rq off
  else if off < 0xE00000 then some 0
  else if off < 0xF00000 then wordObs s rq off
  else if off < 0x1000000 then wordFb s rq off
  else none

/-- Groups of registers that share a rule of access (R591, R604). -/
inductive RegGrp where
  | all | rgnSel | rgnDesc | itemSel | item (owner : Nat) | flash | page (p : Nat) | doorbell | obs | fb | other
deriving DecidableEq, Repr

/-- Owner of the item that a status register shows for the requester; 1,024, which is no partition, where there is none. -/
def itemOwner (s : State) (rq : Requester) (off : Nat) : Nat :=
  if off < 0x20320 then ((smFind s.str.fans (selF s rq 0x20300 0 4)).map (·.owner)).getD 1024
  else if off < 0x30000 then ((smFind s.str.rxFan (selF s rq 0x20320 0 8)).map (·.owner)).getD 1024
  else if off < 0x81000 then ((smFind s.stp.ctxs (selF s rq 0x80000 0 6)).map (·.owner)).getD 1024
  else if off < 0x84000 then ((smFind s.str.twins (selF s rq 0x83000 0 6)).map (·.owner)).getD 1024
  else if off < 0x84040 then ((smFind s.str.smokes (selF s rq 0x84000 0 4)).map (·.owner)).getD 1024
  else ((smFind s.str.rxSmoke (selF s rq 0x84040 0 8)).map (·.owner)).getD 1024

def regGrp (s : State) (rq : Requester) (off : Nat) : RegGrp :=
  if inPages off then .page ((off - 0x200000) / 4096)
  else if (0xA0000 ≤ off ∧ off < 0xB0000) ∨ (0x600000 ≤ off ∧ off < 0xE00000) then .doorbell
  else if 0xE00000 ≤ off ∧ off < 0xF00000 then .obs
  else if 0xF00000 ≤ off then .fb
  else if off < 0x20 ∨ off = 0x20068 ∨ off = 0x50028 ∨ (0x110000 ≤ off ∧ off < 0x118000 ∧ off % 64 = 0) then .all
  else if off = 0x20 then .rgnSel
  else if off = 0x28 then .rgnDesc
  else if off = 0x20300 ∨ off = 0x20320 ∨ off = 0x80000 ∨ off = 0x83000 ∨ off = 0x84000 ∨ off = 0x84040 then .itemSel
  else if off = 0x80058 then .other
  else if (0x20308 ≤ off ∧ off < 0x20340) ∨ (0x80008 ≤ off ∧ off < 0x81000) ∨ (0x83008 ≤ off ∧ off < 0x83020) ∨
      (0x84008 ≤ off ∧ off < 0x84060) then .item (itemOwner s rq off)
  else if off = 0x60028 ∨ off = 0x60030 ∨ off = 0x60038 then .flash
  else .other

/-- The requester is the one BT_FLASH_CTL names (R591, R599). -/
def flashNamed (s : State) (rq : Requester) : Bool :=
  match rq with
  | .mgmt => true
  | _ => regF s 0x60020 2 1 == 0 && rqPart rq == some (regF s 0x60020 12 10)

/-- The requester may read the fault registers and the status of the fireback (R469). -/
def fbReader (s : State) (rq : Requester) : Bool :=
  match rq with
  | .mgmt => true
  | .hearth _ _ p => active s p && rightObserve s p
  | .flue _ _ => false

/-- Bits of a fireback word that the requester may read (R469). -/
def fbMask (s : State) (rq : Requester) (off : Nat) : W64 :=
  let whole : W64 := BitVec.allOnes 64
  if inMboxes off then (if mboxAllowed s rq (mboxNo off) then whole else 0)
  else if fbReader s rq then whole
  else match rq with
    | .hearth _ _ p =>
      if active s p then (if off = 0xF00020 then whole else if off = 0xF00030 then put 0 9 0x1FF else 0) else 0
    | _ => 0

/-- The bits of a word that the requester may read: none, some or all (R448, R469, R539, R591, R604). -/
def readMask (s : State) (rq : Requester) (off : Nat) : W64 :=
  let yes (b : Bool) : W64 := if b then BitVec.allOnes 64 else 0
  match regGrp s rq off with
  | .all => yes true
  | .rgnSel => yes true
  | .itemSel => yes true
  | .rgnDesc => yes (regAllowed s rq || (match rgnAt s (selF s rq 0x20 0 13) with
      | some r => rqPart rq == some r.owner
      | none => false))
  | .item o => yes (regAllowed s rq || rqPart rq == some o)
  | .flash => yes (flashNamed s rq)
  | .page p => yes (p < 1024 && mayPresent s rq p)
  | .doorbell => yes true
  | .obs => yes (obsAllowed s rq)
  | .fb => fbMask s rq off
  | .other => yes (regAllowed s rq)

/-- A read that the tables do not allow is counted, but for the items of others, which read as zero (R448, R469, R591). -/
def strayRead (s : State) (rq : Requester) (off : Nat) : Bool :=
  readMask s rq off == 0 && (match regGrp s rq off with
    | .rgnDesc => false
    | .item _ => false
    | _ => true)

/-! ### Reads with an effect (R504, R589, R600, R607, R610) -/

/-- Words that a read of the word at `off` captures, from that word upward (R600, R607, R610). -/
def captured (s : State) (rq : Requester) (off : Nat) : Option (List W64) :=
  if off = 0xE00208 then some (qStat s rq)
  else if off = 0xE00108 then some ((List.range 8).map fun i => smGet 0 s.capt (rqOff rq (snapOff + 8 * i)))
  else if off = 0xE00620 then some (wfgWords s rq)
  else if off = 0x80008 then some (stpWords s (selF s rq 0x80000 0 6))
  else if inPages off && (off - 0x200000) % 4096 == 0x340 then
    some (splWords s ((off - 0x200000) / 4096) (selF s rq (off - 0x40) 0 20))
  else none

/-- The first read of STP_CTX_HEARD takes the set whose words follow (R607). -/
def heardTake (s : State) (rq : Requester) (off : Nat) : State :=
  if off = 0x80060 ∧ strmPos s rq off = 0 then captSet s rq heardOff (heardWords s (selF s rq 0x80000 0 6)) else s

def isStream (off : Nat) : Bool := off == 0xF10030 || off == 0xF10040 || off == 0xF10058 || off == 0x80060

/-- A read that reaches the end of a word: a streamed register advances at an 8-byte read (R589), and OBS_WFG_IDX advances at
the read of the last word of OBS_WFG_EDGE (R600). -/
def readAdvance (s : State) (rq : Requester) (off len : Nat) (hi : Bool) : State :=
  if isStream off ∧ len = 8 then { s with strm := smSet s.strm (rqOff rq off) (strmPos s rq off + 1) }
  else if off = 0xE00628 ∧ (len = 8 ∨ hi) then selWr s rq 0xE00618 (BitVec.allOnes 64) (selRd s rq 0xE00618 + 1)
  else s

/-- Read the word at an aligned offset: what it returns, and the state after its capture. -/
def wordRead (s : State) (rq : Requester) (off : Nat) : W64 × State :=
  let m := readMask s rq off
  match captured s rq off with
  | some ws => (ws.getD 0 0 &&& m, if m = 0 then s else captSet s rq off ws)
  | none =>
    let s1 := if m = 0 then s else heardTake s rq off
    (((wordNow s1 rq off).getD 0) &&& m, s1)

/-- A register read of 4 or 8 bytes at an offset aligned to its length (R8, R504): the bytes returned, as a number, and the
state. A read of a low half keeps the whole word in the requester's shadow, which serves the high half if that is read
next. -/
def regRead (s : State) (rq : Requester) (off len : Nat) : Nat × State :=
  let w := off / 8 * 8
  let hi := off % 8 == 4
  let key := rqKey rq
  let clear (t : State) : State := { t with shadow := smDel t.shadow key }
  if (wordNow s rq w).isNone then (0, clear s)
  else if strayRead s rq w then (0, clear (strayPage s rq))
  else
    let go (u : W64 × State) : Nat × State :=
      if len = 8 then (u.1.toNat, readAdvance (clear u.2) rq w len hi)
      else if hi then (u.1.toNat / 2 ^ 32, readAdvance (clear u.2) rq w len hi)
      else (u.1.toNat % 2 ^ 32, { u.2 with shadow := smSet u.2.shadow key (w, u.1) })
    match smFind s.shadow key with
    | some (o, v) => if len = 4 ∧ hi ∧ o = w then go (v, s) else go (wordRead s rq w)
    | none => go (wordRead s rq w)

end Sys2Proof.Machine
end

