-- ==== Sys2Proof/Machine/RegCmds.lean ====
section
/-! DEFINITION. Writes of the register window, and the register commands (R8 to R11, R426, R448, R469, R539, R588 to R614). -/

namespace Sys2Proof.Machine

/-! ### Writes by access type -/

/-- A value of a threshold entry above 65,536 is stored as 65,536 (R251, R610). -/
def thrClamp (w : W64) : W64 :=
  let e (lo : Nat) : Nat := min 65536 (fld w lo 17)
  put 0 17 (e 0) ||| put 32 17 (e 32)

/-- Write the RW fields of a stored word under a mask (R10, R592). -/
def storeRw (s : State) (off : Nat) (mask v : W64) : State :=
  let nw := applyFields .rw (fieldsAt off) (regRd s off) mask v
  if (fieldsAt off).any fun f => f.acc == .rw then
    regSet s off (if inPages off ∧ 0x240 ≤ off % 4096 ∧ off % 4096 < 0x280 then thrClamp nw else nw)
  else s

/-- A write of 1 to bit `i` of the word reaches the block: the mask covers it. -/
def wrote (mask v : W64) (i : Nat) : Bool := fld (mask &&& v) i 1 == 1

/-- A write that reaches any bit of a field. -/
def reaches (mask : W64) (lo n : Nat) : Bool := fld mask lo n != 0

/-- Clear VALID of the violation entry at a word of HP_VIOL_LOG or FL_VIOL_LOG, if the write asks it (R594, R595). -/
def violClear (s : State) (rq : Requester) (off : Nat) (mask v : W64) : State :=
  let o := off % 0x10000
  if wrote mask v 0 ∧ 0x100 ≤ o ∧ (o - 0x100) % 40 = 0 then
    let k := (o - 0x100) / 40 + 1
    let clr (m : SMap Viol) : SMap Viol := match smFind m k with
      | some e => smSet m k { e with valid := false }
      | none => m
    if off < 0x20000 ∧ k ≤ 8 then modModule s false (selF s rq 0x10000 0 4) fun x => { x with viol := clr x.viol }
    else if 0x20000 ≤ off ∧ k ≤ 11 ∧ selF s rq 0x20070 0 13 ≤ 4096 then
      modPorts s fun p => { p with peers := match smFind p.peers (selF s rq 0x20070 0 13) with
        | some e => smSet p.peers (selF s rq 0x20070 0 13) { e with viol := clr e.viol }
        | none => p.peers }
    else s
  else s

/-- A write of BT_FLASH_CMD (R599); command 0 is none. -/
def flashCmdWrite (s : State) (rq : Requester) (mask v : W64) : State :=
  if reaches mask 0 2 then
    match fld v 0 2 with
    | 1 => eraseEff s rq
    | 2 => programEff s rq (fld v 16 10)
    | 3 => markTrialEff s rq
    | _ => s
  else s

/-- A write of a step context's RW fields, by its owner or the management port (R604, R607). -/
def ctxWrite (s : State) (rq : Requester) (off : Nat) (mask v : W64) : State :=
  let k := selF s rq 0x80000 0 6
  match smFind s.stp.ctxs k with
  | none => s
  | some c =>
    if rqPart rq = none ∨ rqPart rq = some c.owner then
      if off = 0x80028 then
        let d := fld (wMerge (w64 c.tcd) mask v) 0 24
        if 10 ≤ d ∧ d ≤ 10000000 then setCtx s k { c with tcd := d } else s
      else if off = 0x80030 then
        let d := fld (wMerge (w64 c.tnt) mask v) 0 17
        if 10 ≤ d ∧ d ≤ 100000 then setCtx s k { c with tnt := d } else s
      else s
    else s

/-- Keep a field of the old word where the new value lies outside its range (R592). -/
def keepRange (old nw : W64) (lo n a b : Nat) : W64 :=
  if a ≤ fld nw lo n ∧ fld nw lo n ≤ b then nw else setFld nw lo n (fld old lo n)

/-- A write of OBS_SOOT_DRAIN (R552, R600). -/
def drainWrite (s : State) (rq : Requester) (off : Nat) (mask v : W64) : State :=
  let k := selF s rq 0xE00500 0 4
  let r := smGet ({} : SootRing) s.obs.rings k
  let put_ (x : SootRing) : State := modObs s fun o => { o with rings := smSet o.rings k { x with owner := ownerOf rq } }
  if off = 0xE00530 then
    let w := wMerge r.drain0 (mask &&& fieldBits [(0, 9), (16, 5), (32, 30)]) v
    let w1 := keepRange r.drain0 w 16 5 12 40
    let w2 := keepRange r.drain0 w1 32 16 1 65535
    let w3 := keepRange r.drain0 w2 48 14 1 10000
    let s1 := put_ { r with drain0 := w3 }
    if wrote mask v 9 then nowEff s1 rq else s1
  else
    let w := wMerge r.drain1 mask v
    if fld w 0 6 = 0 then put_ { r with drain1 := w } else s

/-- A write of OBS_BRK_CFG; a hit count of 0 lies outside its range (R555, R600). -/
def brkWrite (s : State) (rq : Requester) (off : Nat) (mask v : W64) : State :=
  let k := selF s rq 0xE00700 0 3
  let b := smGet ({} : Brk) s.obs.brk k
  let put_ (x : Brk) : State := modObs s fun o => { o with brk := smSet o.brk k { x with owner := ownerOf rq } }
  if off = 0xE00708 then
    let w := keepRange b.cfg (wMerge b.cfg mask v) 48 16 1 65535
    put_ { b with cfg := w, count := if reaches mask 48 16 then fld w 48 16 else b.count }
  else put_ { b with epoch := BitVec.ofNat 32 (fld (wMerge (w64 b.epoch.toNat) mask v) 0 32) }

/-- Writes of the observation block by one who may make them (R600). -/
def obsWrite (s : State) (rq : Requester) (off : Nat) (mask v : W64) : State :=
  if !(selFields off).isEmpty then
    let s1 := selWr s rq off mask v
    if off = 0xE00100 ∧ wrote mask v 0 then takeEff s1 rq else s1
  else match off with
  | 0xE00018 => storeRw s off mask v
  | 0xE00020 => storeRw s off mask v
  | 0xE00028 => if wrote mask v 0 then armEff s rq else s
  | 0xE00048 => timeProbeEff s rq
  | 0xE00228 => if wrote mask v 0 then clrMaxEff s rq else s
  | 0xE00408 => pmcCfgEff s rq mask v
  | 0xE00418 =>
    let s1 := if wrote mask v 0 then pmcRunEff s rq false else s
    if wrote mask v 1 then pmcRunEff s1 rq true else s1
  | 0xE00508 => sootCfgEff s rq mask v
  | 0xE00528 => sootRdEff s rq mask v
  | 0xE00530 => drainWrite s rq off mask v
  | 0xE00538 => drainWrite s rq off mask v
  | 0xE00600 => if wrote mask v 0 then buildEff s rq else s
  | 0xE00708 => brkWrite s rq off mask v
  | 0xE00710 => brkWrite s rq off mask v
  | 0xE00718 => if wrote mask v 0 then releaseBrkEff s rq else s
  | _ => s

/-- The bytes of a write, at their addresses within the mailbox. -/
def mboxBytes (m : Mbox) (o len : Nat) (v : W64) : Mbox :=
  { m with bytes := (List.range len).foldl (fun t i =>
      if o + i < 0xF0 then smSet t (o + i) (BitVec.ofNat 8 (bitsAt v.toNat (8 * i) 8)) else t) m.bytes }

/-- A write to the fireback sub-window: the mailboxes and the three read selects; any other changes nothing and is logged
(R469, R473, R475). `off` is the address of the access itself. -/
def fbWrite (s : State) (rq : Requester) (off len : Nat) (v : W64) : State :=
  let w := off / 8 * 8
  let mask := wMask len (off % 8 == 4)
  let val := wVal len (off % 8 == 4) v
  if inMboxes off then
    let n := mboxNo off
    let o := off % 256
    if o / 8 * 8 = 0xF0 then mboxGoEff s rq n
    else if o < 0xF0 ∧ mboxAllowed s rq n then setMbox s n (mboxBytes (mboxOf s n) o len v)
    else reportRwf s rq off
  else if w = 0xF10028 ∨ w = 0xF10038 ∨ w = 0xF10050 then
    if fbReader s rq then selWr s rq w mask val else reportRwf s rq off
  else reportRwf s rq off

/-- A write to a partition page by one who may reach it (R448, R610). -/
def pageWrite (s : State) (rq : Requester) (off len : Nat) (mask v : W64) : State :=
  let p := (off - 0x200000) / 4096
  match (off - 0x200000) % 4096 with
  | 0x040 =>
    let s1 := modPart s p fun x => { x with alert := x.alert - (x.alert &&& fld (mask &&& v) 0 7) }
    driveAlert (storeRw s1 off mask v)
  | 0x050 => prtMarkEff s rq p len v
  | 0x300 => selWr s rq off mask v
  | 0x328 =>
    if reaches mask 0 2 then
      splCfg s rq p (match fld v 0 2 with
        | 1 => .enable
        | 2 => .disable
        | 3 => .resume
        | _ => .none)
    else s
  | _ => storeRw s off mask v

/-- Doorbells: a spool's takes an 8-byte write and ignores and counts any other; a region's is R56's (R425, R426, R613). -/
def doorbellWrite (s : State) (rq : Requester) (off len : Nat) (v : W64) : State :=
  if off < 0x600000 then modeDoorbellEff s rq ((off - 0xA0000) / 8) len
  else if len = 8 then doorbellBy s rq ((off - 0x600000) / 8) (fld v 62 2) (fld v 0 32)
  else match rqPart rq with
    | some p => strayDb s p
    | none => s

/-- Writes of the other registers by one whom the tables allow (R593 to R599, R605 to R609). -/
def plainWrite (s : State) (rq : Requester) (off : Nat) (mask v : W64) : State :=
  if !(selFields off).isEmpty then selWr s rq off mask v
  else match off with
  | 0x10010 => if wrote mask v 0 then moduleRetryEff s rq false else s
  | 0x20010 => if wrote mask v 0 then moduleRetryEff s rq true else s
  | 0x40050 => if wrote mask v 17 then modWarp s fun w => { w with noSpare := false } else s
  | 0x50000 => if wrote mask v 16 then modClk s fun c => { c with psRefused := false } else s
  | 0x60028 => flashCmdWrite s rq mask v
  | 0x80028 => ctxWrite s rq off mask v
  | 0x80030 => ctxWrite s rq off mask v
  | _ => storeRw (violClear s rq off mask v) off mask v

/-- The tables allow the requester to write the register (R448, R539, R591, R604). -/
def writeAllowed (s : State) (rq : Requester) (off : Nat) : Bool :=
  match regGrp s rq off with
  | .all => regAllowed s rq
  | .rgnSel => true
  | .itemSel => true
  | .rgnDesc => regAllowed s rq
  | .item o => regAllowed s rq || rqPart rq == some o
  | .flash => flashNamed s rq
  | .page p => p < 1024 && mayPresent s rq p
  | .doorbell => true
  | .obs => obsAllowed s rq
  | .fb => true
  | .other => regAllowed s rq

/-- The write reaches an RWF field, which no path but the fireback's changes; it is logged (R11). -/
def rwfAttempt (s : State) (rq : Requester) (off : Nat) (mask : W64) : State :=
  if off < 0xF00000 ∧ touches .rwf (fieldsAt off) mask then reportRwf s rq off else s

/-- A register write of 4 or 8 bytes at an offset aligned to its length (R8 to R11, R588). -/
def regWrite (s : State) (rq : Requester) (off len : Nat) (v : W64) : State :=
  let w := off / 8 * 8
  let mask := wMask len (off % 8 == 4)
  let val := wVal len (off % 8 == 4) v
  if (wordNow s rq w).isNone ∧ !(0xF00000 ≤ off ∧ off < 0x1000000) then s
  else
    let s1 := rwfAttempt s rq w mask
    if !(writeAllowed s rq w) then strayPage s1 rq
    else match regGrp s rq w with
      | .page _ => pageWrite s1 rq w len mask val
      | .doorbell => doorbellWrite s1 rq w len val
      | .obs => obsWrite s1 rq w mask val
      | .fb => fbWrite s1 rq off len v
      | _ => plainWrite s1 rq w mask val

/-! ### The register commands -/

/-- An access the ports and the register window accept: 4 or 8 bytes, aligned, within the window (R8). -/
def regShape (off len : Nat) : Bool := (len == 4 || len == 8) && off % len == 0 && off < 0x2000000

/-- A flue access to the observation or fireback sub-window, refused with ACCESS_DENIED (R469, R539). -/
def flueDenied (rq : Requester) (off : Nat) : Bool :=
  match rq with
  | .flue _ _ => 0xE00000 ≤ off && off < 0x1000000
  | _ => false

/-- A register access of a shape, charged and performed, or refused and counted (R8, R357, R469). -/
def regAccess (s : State) (rq : Requester) (off len : Nat) (f : State → State) : State :=
  if !(regShape off len) then
    match rqPart rq with
    | some p => countRefused s p 8 false
    | none => s
  else if flueDenied rq off then
    match rqPart rq with
    | some p => countRefused s p 2 false
    | none => s
  else portAccess s rq f

/-- A read command: what it returns is kept for its requester. One that travels over a weft bus has no effect while an earlier rank
holds the bus (R34, R605). -/
def readCmd (s : State) (rq : Requester) (off len : Nat) : State :=
  if onWeft off && !(weftFree s (weftDie off) 3) then s else regAccess s rq off len fun t0 =>
    if weftFailed t0 rq off then weftOver t0 rq else
    let r := regRead (if onWeft off then weftOver t0 rq else t0) rq off len
    { r.2 with rdata := smSet r.2.rdata (rqKey rq) r.1 }

/-- A flue write to the fireback sub-window, which is refused, is still recorded as an attempt (R11, R469). -/
def noteDenied (s : State) (rq : Requester) (off : Nat) : State :=
  if flueDenied rq off ∧ 0xF00000 ≤ off then reportRwf s rq off else s

/-- REGISTER_WRITE (R10). -/
def execRegisterWrite (rq : Requester) (off len : Nat) (val : W64) (s : State) : Host.Outcome State Fault Refusal :=
  act s fun s => regAccess (if regShape off len then noteDenied s rq off else s) rq off len fun t => regWrite t rq off len val

/-- LOW_HALF_READ: a 4-byte read of the low half of the register at `off` (R504). -/
def execLowHalfRead (rq : Requester) (off : Nat) (s : State) : Host.Outcome State Fault Refusal :=
  act s fun s => readCmd s rq (off / 8 * 8) 4

/-- STREAMED_READ: an 8-byte read of a streamed register (R589); of any other, an ordinary read. -/
def execStreamedRead (rq : Requester) (off : Nat) (s : State) : Host.Outcome State Fault Refusal :=
  act s fun s => readCmd s rq off 8

/-- CAPTURE_READ: an 8-byte read of the first word of a capturing block (R600, R607, R610). -/
def execCaptureRead (rq : Requester) (off : Nat) (s : State) : Host.Outcome State Fault Refusal :=
  act s fun s => readCmd s rq off 8

/-- HOB_REGISTER_READ: a read in the hob registers, which travels over the weft bus (R606). -/
def execHobRegisterRead (rq : Requester) (off len : Nat) (s : State) : Host.Outcome State Fault Refusal :=
  act s fun s => if 0x110000 ≤ off ∧ off < 0x118000 then readCmd s rq off len else s

/-- HED_SEED_WRITE: a write of HED_SEED in a partition's page replaces the whole seed or one half, for uses that take the key
afterwards (R242). -/
def execHedSeedWrite (rq : Requester) (off len : Nat) (val : W64) (s : State) : Host.Outcome State Fault Refusal :=
  act s fun s => if inPages off ∧ (off - 0x200000) % 4096 / 8 * 8 = 0x200 then regAccess s rq off len fun t => regWrite t rq off len val
    else s

end Sys2Proof.Machine
end

