-- ==== Sys2Proof/Machine/StepCmds.lean ====
section
/-! DEFINITION. Meanings of the step engine's events and picks (R180, R181, R186, R193 to R205). -/

namespace Sys2Proof.Machine

/-! ### Accumulation and fences -/

/-- An accepted ACCW of the same agent and channel is ahead of entry `n` (R362). -/
def accEarlier (s : State) (n chan : Nat) : Bool := s.stp.acc.any fun kv => kv.1 < n && kv.2.chan == chan

/-- The pair holds entry `n`'s granules: its column request has been granted (R186). -/
def accGranted (p : PairS) (n : Nat) : Bool := p.q.any fun r => r.busy && (match r.op with
  | .acc k _ => k == n
  | _ => false)

/-- The pair lets entry `n`'s granules go. -/
def accRelease (s : State) (die pos n : Nat) : State :=
  let p := pairAt s die pos
  refillEmber (setPair s die pos { p with q := p.q.filter fun r => match r.op with
    | .acc k _ => k != n
    | _ => true }) die pos

/-- ACCW_APPLY: the oldest accepted ACCW of its channel, whose column request has been granted, is applied and reported (R76,
R186, R191, R327, R362). -/
def accwApplyEff (s : State) (n : Nat) : State :=
  match smFind s.stp.acc n with
  | none => s
  | some a =>
    if accEarlier s n a.chan || !(accGranted (pairAt s a.die a.pos) n) then s
    else
      let r := accApply (accRelease s a.die a.pos n) a
      let s1 := modStp r.2 fun t =>
        { t with
          acc := smDel t.acc n
          fences := smMap t.fences fun _ f => { f with wait := f.wait.filter (· != n) } }
      match a.from_ with
      | none => s1
      | some (flue, m, h) => complete s1 flue m h (if r.1 then 7 else 0) []

/-- A fence against the state of its epoch (R193): whether it is refused as not yet open, and the state. -/
def fenceLedger (s : State) (k : Nat) (c : StepCtx) (e contrib : Nat) : Bool × State :=
  if c.isOpen ∧ e = c.openEpoch then
    match epOf c e with
    | none => (false, s)
    | some x =>
      if x.fences.contains contrib then
        (false, setCtx s k (modBook { c with dupFence := c.dupFence + 1 } e fun b => { b with rep := b.rep + 1 }))
      else
        let fs := x.fences ++ [contrib]
        (false, setCtx s k (setEp c
          { x with
            fences := fs
            deadline := true
            cause := if x.cause = 0 ∧ c.expect ≤ fs.length then 1 else x.cause }))
  else if c.openEpoch ≤ e then (true, setCtx s k (modBook c e fun b => { b with ref := b.ref + 1 }))
  else if e + 1 = c.openEpoch ∧ c.first ≤ e then
    (false, drainTry (setCtx s k (modEp { c with drainWait := c.drainWait ++ [(contrib, e)] } e fun x =>
      { x with late := x.late ++ [contrib] })) k)
  else (false, setCtx s k (ashDrop c contrib e 0))

/-- FENCE_COUNTED: every ACCW ahead of the fence is applied, failed or in the ash bin (R194). -/
def fenceCountedEff (s : State) (n : Nat) : State :=
  match smFind s.stp.fences n with
  | none => s
  | some f =>
    if f.wait ≠ [] then s
    else
      let s1 := modStp s fun t => { t with fences := smDel t.fences n }
      match smFind s1.stp.ctxs f.ctx with
      | none => reply s1 f.mute f.flue f.module f.hdr 5 []
      | some c =>
        let r := fenceLedger s1 f.ctx c f.epoch f.contrib
        reply r.2 f.mute f.flue f.module f.hdr (if r.1 then 5 else 0) []

/-! ### Close -/

/-- Record the cause of the open epoch's close, if none is recorded (R195, R196). -/
def setCause (c : StepCtx) (cause : Nat) : StepCtx :=
  modEp c c.openEpoch fun x => { x with cause := if x.cause = 0 then cause else x.cause }

/-- CLOSE_DEADLINE_EXPIRES (R195). -/
def closeDeadlineEff (s : State) (k : Nat) : State :=
  modCtx s k fun c =>
    match epOf c c.openEpoch with
    | some x => if c.isOpen ∧ x.deadline then setCause c 2 else c
    | none => c

def execCloseDeadlineExpires (ctx : Nat) (s : State) : Host.Outcome State Fault Refusal := act s fun s => closeDeadlineEff s ctx

/-- CLOSE_POINT: the condition is met, the last retag sweep is over and every drain begun is applied (R195): the epoch is
CLOSED, its half's sweep starts, and records whose drain has not begun are dropped (R196, R197, R202). -/
def closePointEff (s : State) (k : Nat) : State :=
  match smFind s.stp.ctxs k with
  | none => s
  | some c => match epOf c c.openEpoch with
    | none => s
    | some x =>
      if !c.isOpen || x.cause == 0 || c.retag.isSome || !c.drains.isEmpty then s
      else
        let gone := (c.ash.filter fun r => r.epoch + 1 == x.e).length
        let c1 := modEp
          { c with
            ash := c.ash.filter fun r => r.epoch + 1 != x.e
            dropped := c.dropped + gone
            dropLater := c.dropLater.filter fun q => x.e ≤ q.2
            drainWait := c.drainWait.filter fun q => x.e ≤ q.2
            books := if gone = 0 then c.books else smMod {} c.books (x.e - 1) fun b => { b with gone := b.gone + gone } } (x.e - 1)
          fun y => if x.e = 0 then y else { y with dropped := y.dropped + gone }
        let x1 := { x with st := .closed, gtc := s.clk.gtc.toNat, deadline := false }
        let c2 := setEp { c1 with isOpen := false, openEpoch := x.e + 1, retag := some x.e } x1
        openTry (sootEp (setCtx s k c2) k 2 x.cause x1) k

def execClosePoint (ctx : Nat) (s : State) : Host.Outcome State Fault Refusal := act s fun s => closePointEff s ctx

/-- The retag of one scale-and-tag granule (R197). -/
def retagGran (s : State) (die pos loc e : Nat) : State :=
  let r := readRaw s die pos loc
  if r.2.1.poison then r.2.2
  else
    let w := r.2.1.bits.toNat
    let nw := (List.range 16).foldl (fun v b =>
      if bitsAt v (16 * b + 8) 8 = (e + 2) % 256 then
        v - bitsAt v (16 * b) 16 * 2 ^ (16 * b) + (e + 254) % 256 * 2 ^ (16 * b + 8)
      else v) w
    if nw ≠ w ∨ r.1 = .correctable then
      writeGran (spendAlways r.2.2 (eWr s)) die pos loc ⟨BitVec.ofNat 256 nw, false⟩ else r.2.2

/-- The scale-and-tag granules of a context's regions in the half of epoch `e` (R197). -/
def retagPlaces (s : State) (c : StepCtx) (e : Nat) : List Place :=
  c.rgns.flatMap fun q => match rgnAt s q.rgn with
    | none => []
    | some r =>
      let half := sliceBytes r / 2
      let base := r.first * unitBytes + e % 2 * half
      (rangeFrom r.r0 (r.r1 + 1 - r.r0)).flatMap fun die =>
        (rangeFrom r.c0 (r.c1 + 1 - r.c0)).flatMap fun pos =>
          (List.range (half / 2080)).map fun u => ⟨die, pos, base + 2080 * u + 2048⟩

/-- RETAG_SWEEP_DONE: every scale-and-tag granule of the closed epoch's half has been read, and its expired tags rewritten, in a
turn of the flame class (R197, R277). -/
def retagDoneEff (s : State) (k : Nat) : State :=
  match smFind s.stp.ctxs k with
  | none => s
  | some c => match c.retag with
    | none => s
    | some e =>
      let ps := retagPlaces s c e
      match engTurn s { cls := 1, places := ps, rd := ps.length, wr := 0 } with
      | none => s
      | some t => modCtx (ps.foldl (fun u pl => retagGran u pl.die pl.pos pl.loc e) t) k fun c => { c with retag := none }

def execRetagSweepDone (ctx : Nat) (s : State) : Host.Outcome State Fault Refusal := act s fun s => retagDoneEff s ctx

/-- SUMS_COLLECTED: the last accepted ACCW of a closed epoch is applied; the sums are collected over the weft buses (R79), the epoch is DECIDING and
the norm message is sent (R196, R198, R203). -/
def sumsCollectedEff (s : State) (k : Nat) : State :=
  match smFind s.stp.ctxs k with
  | none => s
  | some c => match c.eps.find? fun x => x.st == .closed with
    | none => s
    | some x =>
      if s.stp.acc.any (fun kv => kv.2.ctx == k && kv.2.epoch == x.e) ∨ !((ctxHobs s c).all fun n => weftFree s (n / 32) 2) then s
      else
        let hs := (ctxHobs s c).filter fun n => c.ovf.contains (n * 2 + x.e % 2)
        let x1 := { x with
                    st := .deciding
                    tEnd := s.clk.gtc.toNat + 1000 * c.tnt
                    part := ownPartial s c (x.e % 2)
                    ovf := !hs.isEmpty
                    ovfHobs := hs.length }
        let c1 := setEp c x1
        decideTry (normSendAll (setCtx s k c1) c1 x1) k 3

def execSumsCollected (ctx : Nat) (s : State) : Host.Outcome State Fault Refusal := act s fun s => sumsCollectedEff s ctx

/-- The epoch whose norm timeout expires first: of those whose message is out and whose timeout runs, the one with the earliest
end, the older of two (R203, R205). -/
def normFirst (c : StepCtx) : Option Epoch :=
  (c.eps.filter fun x => x.st == .deciding && !x.timedOut).foldl (fun b x => match b with
    | none => some x
    | some y => if x.tEnd < y.tEnd then some x else some y) none

/-- NORM_TIMEOUT: the norm timeout that ends first expires (R205). -/
def normTimeoutEff (s : State) (k : Nat) : State :=
  match smFind s.stp.ctxs k with
  | none => s
  | some c => match normFirst c with
    | none => s
    | some x => decideTry (setCtx s k (setEp c { x with timedOut := true })) k 3

def execNormTimeout (ctx : Nat) (s : State) : Host.Outcome State Fault Refusal := act s fun s => normTimeoutEff s ctx

/-- The column accesses of one record's drain: its three granules in the ash bin, and the block and its scale-and-tag granule that
it is applied to, in the flame class (R201, R277). -/
def drainUse (s : State) (slot : Nat) (a : Option AccReq) : EngUse :=
  let here := (List.range 3).map fun i => resPlace s (ashOff s slot + 32 * i)
  match a with
  | none => { cls := 1, places := here, rd := 3, wr := 0 }
  | some a =>
    let q := accAt s a
    { cls := 1
      places := here ++ ((List.range 4).map fun g => ⟨a.die, a.pos, q.ub + 128 * q.b + 32 * g⟩) ++ [⟨a.die, a.pos, q.ub + 2048⟩]
      rd := 4
      wr := 0 }

/-- The accumulating write that a record read from the ash bin becomes (R201); none where its address no longer lies in an
accumulator region. -/
def drainAcc (s : State) (k : Nat) (c : StepCtx) (d : Drain) (v : Nat × Nat × Nat × List Datum) : Option AccReq :=
  match findRegion s v.1 with
  | none => none
  | some (i, rg) => (accPlace s rg v.1 v.2.1).map fun pl =>
      mkAcc s k i c rg pl (d.epoch + 1) v.2.1 d.contrib v.2.2.1 v.2.2.2 d.w 3 none 0 c.owner

/-- The context once a record has been taken out of the ash bin: the drain is over when it was the last. -/
def drainTaken (c : StepCtx) (d : Drain) (r : AshRec) : StepCtx :=
  let rest := c.ash.erase r
  if rest.any fun q => q.contrib == d.contrib && q.epoch == d.epoch then { c with ash := rest }
  else { c with ash := rest, drains := c.drains.erase d }

/-- ASH_DRAIN_RECORD: the drain in progress reads its next record and applies it to the next epoch, in a turn of the flame class;
it is over when no record is left. A record whose header is lost is dropped and counted (R201, R277, R312, R452, R458). -/
def ashDrainEff (s : State) (k : Nat) : State :=
  match smFind s.stp.ctxs k with
  | none => s
  | some c => match c.drains with
    | [] => s
    | d :: ds =>
      match c.ash.find? fun r => r.contrib == d.contrib && r.epoch == d.epoch with
      | none => setCtx s k { c with drains := ds }
      | some r =>
        let rd := resReadN s (ashOff s r.slot) 3
        match ashRead rd.1 with
        | none =>
          match engTurn rd.2 (drainUse s r.slot none) with
          | none => s
          | some t => modCtx t k fun c => modBook (modEp { drainTaken c d r with dropped := c.dropped + 1 } d.epoch
              fun x => { x with dropped := x.dropped + 1 }) d.epoch fun b => { b with gone := b.gone + 1 }
        | some v =>
          let a := drainAcc s k c d v
          match engTurn rd.2 (drainUse s r.slot a) with
          | none => s
          | some s0 =>
            match damperTake s0 c.owner .hearth 1 (96 + 4 * accCount v.2.1) with
            | none => s
            | some s1 =>
              let s2 := modCtx (spendAlways s1 (accCount v.2.1 * eAcc s)) k fun c =>
                modBook (drainTaken c d r) (d.epoch + 1) fun b => { b with acc := b.acc + 1 }
              match a with
              | none => s2
              | some a => (accApply s2 a).2

def execAshDrainRecord (ctx : Nat) (s : State) : Host.Outcome State Fault Refusal := act s fun s => ashDrainEff s ctx

/-! ### Picks -/

/-- The fields of a step block (R439), from its bytes. -/
def parseStep (owner : Nat) (b : List Byte) : StepCtx :=
  let n := leAt b 0x14 2
  let f := leAt b 0x04 4
  { owner := owner
    rgns := (List.range (leAt b 0x02 1)).map fun i =>
      ⟨leAt b (0x40 + 16 * i) 2, leAt b (0x44 + 16 * i) 4, leAt b (0x48 + 16 * i) 8⟩
    u := leAt b 0x03 1
    first := f
    expect := leAt b 0x00 2
    tcd := leAt b 0x08 4
    tnt := leAt b 0x0C 4
    group := leAt b 0x10 4
    n := n
    own := leAt b 0x16 2
    q := leAt b 0x18 2
    dynamic := leAt b 0x1A 1 == 1
    scaleNext := leAt b 0x1B 1
    sMin := leAt b 0x1C 1
    sMax := leAt b 0x1D 1
    g := leAt b 0x1E 2
    clip := BitVec.ofNat 32 (leAt b 0x20 4)
    ashAdd := leAt b 0x24 1 == 1
    ringLog := leAt b 0x25 1
    quota := leAt b 0x28 4
    ashW := BitVec.ofNat 32 (leAt b 0x2C 4)
    ring := leAt b 0x30 8
    peers := (List.range n).map fun j => leAt b (0x140 + 2 * j) 2
    openEpoch := f
    dec := f
    eps := [{ e := f }] }

/-- The values of a step block lie within the ranges of R179 (R439). -/
def stepRanges (s : State) (c : StepCtx) (b : List Byte) : Bool :=
  1 ≤ c.rgns.length && c.rgns.length ≤ 16 && 1 ≤ c.u && c.u ≤ 16 && 1 ≤ c.expect && c.expect ≤ 4096
  && 10 ≤ c.tcd && c.tcd ≤ 10000000 && 10 ≤ c.tnt && c.tnt ≤ 100000
  && 1 ≤ c.n && c.n ≤ 4096 && c.own < c.n && 1 ≤ c.q && c.q ≤ c.n
  && leAt b 0x1A 1 ≤ 1 && c.sMin ≤ c.scaleNext && c.scaleNext ≤ c.sMax && c.sMax ≤ 24 && 1 ≤ c.g
  && 0 < c.clip.toNat && c.clip.toNat ≤ 0x7F800000 && leAt b 0x24 1 ≤ 1 && 4 ≤ c.ringLog && c.ringLog ≤ 16
  && leAt b 0x26 2 == 0 && leAt b 0x38 8 == 0 && (List.range 16).all (fun i => leAt b (0x42 + 16 * i) 2 == 0 || c.rgns.length ≤ i)
  && c.rgns.all (fun r => (rgnAt s r.rgn).isSome) && (c.rgns.map (·.rgn)).Nodup

/-- A region can be bound to a context of partition `p` (R180). -/
def rgnBindable (s : State) (p i : Nat) : Bool :=
  match rgnAt s i with
  | some r => r.kind == .bankLocal && r.acc && r.owner == p && !r.block && (ctxOfRgn s i).isNone
  | none => false

/-- Message slots of the norm-exchange buffers (R180). -/
def normRoom (s : State) : Nat := s.staging.norm * 0x8000

/-- STEP_CONFIG (R179, R180, R436). -/
def stepConfigEff (s : State) (n : Nat) : State :=
  pickStart s n 0x06 fun x s =>
    let a := pkF x 0x10 8
    if !(pkZero x 0x18 0x80) then pickDone s n stBadField 0 []
    else if !(rightStep s x.part) || !(ownedRange s x.part a 0x140) then pickDone s n stDenied 0 []
    else
      let h := engFetch s (some x.part) x.cls a 0x40
      let len := 0x140 + 2 * leAt (gransBytes h.1 (a % 32) 0x40) 0x14 2
      if !(ownedRange s x.part a len) then pickDone s n stDenied 0 []
      else
        let rd := engRead (engNow h.2 (engReads s x.cls (a + 0x40) (len - 0x40))) (some x.part) a len
        let b := gransBytes rd.1 (a % 32) len
        let c := parseStep x.part b
        let t := rd.2
        if anyBad rd.1 then pickDone t n stPickPoison 0 []
        else if !(stepRanges t c b) then pickDone t n stBadField 0 []
        else if !(ownedRange t x.part c.ring (64 * 2 ^ c.ringLog)) then pickDone t n stDenied 0 []
        else match smFreeKey t.stp.ctxs 64 0 with
          | none => pickDone t n stContextFull 0 []
          | some k =>
            if 64 ≤ k then pickDone t n stContextFull 0 []
            else if c.rgns.any fun r => !(rgnBindable t x.part r.rgn) then pickDone t n stRegionBound 0 []
            else if normRoom t < 2 * c.n + t.stp.ctxs.foldl (fun m kv => m + 2 * kv.2.n) 0 then pickDone t n stNormFull 0 []
            else pickDone (sootEp (setCtx t k c) k 1 0 { e := c.first }) n stDone 0 (leBytes 1 k)

def execStepConfig (pick : Nat) (s : State) : Host.Outcome State Fault Refusal := act s fun s => stepConfigEff s pick

/-- STEP_RETIRE (R181). -/
def stepRetireEff (s : State) (n : Nat) : State :=
  pickStart s n 0x07 fun x s =>
    let k := pkF x 0x10 1
    if !(pkZero x 0x11 0x80) then pickDone s n stBadField 0 []
    else if !(rightStep s x.part) then pickDone s n stDenied 0 []
    else match smFind s.stp.ctxs k with
      | none => pickDone s n stNotFound 0 []
      | some c =>
        if c.owner ≠ x.part then pickDone s n stNotFound 0 []
        else if c.eps.any fun e => e.st == .closed || e.st == .deciding || e.st == .updating then
          pickDone s n stContextBusy 0 []
        else pickDone (modStp s fun t => { t with ctxs := smDel t.ctxs k }) n stDone 0 []

def execStepRetire (pick : Nat) (s : State) : Host.Outcome State Fault Refusal := act s fun s => stepRetireEff s pick

/-- STEP_CLOSE: the close condition of the open epoch is met (R195, R436). -/
def stepCloseEff (s : State) (n : Nat) : State :=
  pickStart s n 0x08 fun x s =>
    let k := pkF x 0x10 1
    let e := pkF x 0x14 4
    if !(pkZero x 0x11 0x14 && pkZero x 0x18 0x80) then pickDone s n stBadField 0 []
    else if !(rightStep s x.part) then pickDone s n stDenied 0 []
    else match smFind s.stp.ctxs k with
      | none => pickDone s n stNotFound 0 []
      | some c =>
        if c.owner ≠ x.part then pickDone s n stNotFound 0 []
        else if !c.isOpen || c.openEpoch != e then pickDone s n stBadState 0 []
        else pickDone (setCtx s k (setCause c 3)) n stDone 0 (leBytes 4 e)

def execStepClose (pick : Nat) (s : State) : Host.Outcome State Fault Refusal := act s fun s => stepCloseEff s pick

end Sys2Proof.Machine
end

