-- ==== Sys2Proof/Machine/PktOps.lean ====
section
/-! DEFINITION. Requests of the two ports: what is accepted, what waits, and what each request does (R26, R40 to R54, R184 to
R200, R309, R327 to R330, R340, R353 to R363, R366, R376 to R380, R447 to R458). -/

namespace Sys2Proof.Machine

/-! ### The shape of a request (R353 to R356, R376, R377) -/

/-- Bytes of data that a request packet carries, from its header (R354, R355). -/
def reqSlots (h : BitVec 256) : Nat :=
  match hOpc h with
  | 2 => granulesOf (hAddr h) (hLen h)
  | 3 => 2
  | 4 => 2
  | _ => 0

/-- Bits of a request header that no field occupies are zero (R353, R355, R376). -/
def reqReserved (flue : Bool) (h : BitVec 256) : Bool :=
  let z (lo n : Nat) : Bool := hdrF h lo n == 0
  z 14 2 && z 26 6 && z 120 8
  && (if flue then z 32 8 && z 192 16 else z 192 64)
  && (if hOpc h = 7 then z 116 4 else z 112 8)
  && (match hOpc h with
    | 3 => true
    | 4 => z 190 2
    | 5 => z 160 2 && z 174 18
    | 6 => z 133 3 && z 160 32
    | 8 => true
    | _ => z 128 64)

/-- The LONG bit of a request: by its row on the hearth, always set on the flue (R355, R376). -/
def reqLong (flue : Bool) (h : BitVec 256) : Bool := hLong h == (flue || [3, 4, 5, 6, 8].contains (hOpc h))

/-- LEN of a request, as its row gives it: 1 to 64 for RD and WR without crossing a 64-byte boundary, 64 for WRBE and ACCW,
none for the others (R354, R355). -/
def reqLen (h : BitVec 256) : Bool :=
  let n := hLen h
  match hOpc h with
  | 1 => 1 ≤ n && n ≤ 64 && hAddr h % 64 + n ≤ 64
  | 2 => 1 ≤ n && n ≤ 64 && hAddr h % 64 + n ≤ 64
  | 3 => n == 64 && hAddr h % 64 == 0
  | 4 => n == 64
  | _ => n == 0

def inRegWin (a : Nat) : Bool := regWin ≤ a && a < regWin + 0x2000000
def inMaskWin (a : Nat) : Bool := maskWin ≤ a && a < maskWin + 0x10000000000
def inStgWin (a : Nat) : Bool := stgWin ≤ a && a < stgWin + 0x3000000

/-- An address of the register window that is a doorbell (R56, R426, R613). -/
def isDoorbell (a : Nat) : Bool :=
  let o := a - regWin
  inRegWin a && o % 8 == 0 && ((0xA0000 ≤ o && o < 0xB0000) || (0x600000 ≤ o && o < 0xE00000))

/-- Status of a request that its form alone refuses (R230, R355, R356, R367): 6 malformed, 8 a register access that breaks
only R8; 0 otherwise. Writes to the mask window are refused with 2 (R46). -/
def shapeStatus (flue : Bool) (h : BitVec 256) : Nat :=
  let o := hOpc h
  let a := hAddr h
  if !(1 ≤ o && o ≤ 8) || (flue && o == 6) || !(reqLong flue h) || !(reqReserved flue h) then 6
  else if (o = 1 ∨ o = 6 ∨ o = 7) ∧ hPosted h then 6
  else if o ≤ 2 ∧ inRegWin a ∧ (hLen h = 4 ∨ hLen h = 8) ∧ a % hLen h = 0 then 0
  else if !(reqLen h) then 6
  else if o ≤ 2 ∧ inRegWin a then 8
  else if inMaskWin a ∧ (2 ≤ o ∧ o ≤ 5 ∨ o = 8) then 2
  else if inMaskWin a ∧ o = 1 ∧ !flue ∧ hLen h < 4 then 6
  else if o = 8 ∧ !(isDoorbell a) then 6
  else if o = 3 ∧ inRegWin a then 6
  else if o = 4 ∧ hdrF h 160 2 = 3 then 6
  else 0

/-- The peer's roles allow the opcode (R374, R380). -/
def roleAllows (p : Peer) (o : Nat) : Bool :=
  if o = 4 ∨ o = 5 then bitAt p.roles 0 else bitAt p.roles 1

/-- The partition and source of a request pass R447 and R380. -/
def srcStatus (s : State) (flue : Bool) (h : BitVec 256) : Nat :=
  let p := hPart h
  if flue then match peerOf s (hSpeer h) with
    | none => 2
    | some kp => if roleAllows kp.2 (hOpc h) && kp.2.part == p && active s p then 0 else 2
  else if active s p && srcAllowed s p (hSrc h) then 0 else 2

/-! ### What the address allows (R41, R44, R46, R52, R54, R449, R451) -/

/-- Status that the region of an address gives a request that reads, writes or reads a tile: 1 unmapped, 2 reserved, of
another partition or in reassignment, 3 banked. The mode is the region's at the request's turn: while a change of mode drains or waits,
the old one (R58; R57 can be read otherwise, DESIGN CHOICE, log entry 38). -/
def rgnStatus (s : State) (p a : Nat) : Nat :=
  if inReserved s a then 2
  else match findRegion s a with
    | none => 1
    | some kr =>
      let r := kr.2
      if r.kind = .reserved ∨ r.block ∨ r.owner ≠ p ∨ r.reassign then 2 else if r.banked then 3 else 0

/-- Status that the region of an address gives an ACCW or a contribution fence (R54, R185, R193); a mapped address outside
memory lies in no accumulator region. -/
def accStatus (s : State) (p a : Nat) : Nat :=
  if inReserved s a then 2
  else match findRegion s a with
    | none => if inStgWin a || inRegWin a then 4 else 1
    | some kr =>
      let r := kr.2
      if r.kind = .reserved ∨ r.block ∨ r.owner ≠ p ∨ r.reassign then 2
      else if r.kind ≠ .bankLocal ∨ !r.acc ∨ !r.banked then 4
      else if (ctxOfRgn s kr.1).isNone then 5 else 0

/-- Status that the staging carve-outs give an access of `n` bytes at offset `o` (R44). -/
def stgStatus (s : State) (p o n : Nat) (write : Bool) : Nat :=
  if inGrant s p o n then 0
  else if !write ∧ stgSootBase s.staging ≤ o ∧ o + n ≤ stgTposeBase s.staging ∧ rightObserve s p then 0
  else 2

/-- Status that the address of an RD, WR or WRBE gives it. -/
def rwStatus (s : State) (flue : Bool) (h : BitVec 256) : Nat :=
  let a := hAddr h
  let p := hPart h
  let w := hOpc h ≠ 1
  if inStgWin a then stgStatus s p (a - stgWin) (hLen h) w
  else if inRegWin a then
    (if flue ∧ 0xE00000 ≤ a - regWin ∧ a - regWin < 0x1000000 then 2 else 0)
  else if inMaskWin a then (if flue then 2 else 0)
  else rgnStatus s p a

/-- Bytes of a TREAD's result by element type (R231). -/
def treadBytes (t : Nat) : Nat :=
  match t with
  | 0 => 4096 | 1 => 8192 | 2 => 16384 | 3 => 4224 | 4 => 3200 | _ => 2176

/-- The combination of shape, type, base and pitch is one of R230. -/
def treadShape (h : BitVec 256) : Bool :=
  let t := hdrF h 130 3
  let b := 2 ^ t
  let pitch := hdrF h 136 24
  hAddr h % 32 == 0 && (match hdrF h 128 2 with
    | 0 => t ≤ 5
    | 1 => t ≤ 2 && pitch % 32 == 0 && 64 * b ≤ pitch
    | _ => false)

/-- Extent of a TREAD's source: the bytes from its base to its end (R230, R149, R152). -/
def treadExtent (h : BitVec 256) : Nat :=
  let t := hdrF h 130 3
  if hdrF h 128 2 = 1 then 63 * hdrF h 136 24 + 64 * 2 ^ t
  else match t with
    | 0 => 4096 | 1 => 8192 | 2 => 16384 | 3 => 4224 | 4 => 3200 | _ => 2176

/-- Status of a TREAD (R230, R232). -/
def treadStatus (s : State) (h : BitVec 256) : Nat :=
  let a := hAddr h
  if !(treadShape h) then 6
  else
    let st := rgnStatus s (hPart h) a
    if st ≠ 0 then st
    else match findRegion s a with
      | none => 1
      | some kr => if a + treadExtent h ≤ kr.2.base + rgnSize s kr.2 then 0
        else (let e := rgnStatus s (hPart h) (a + treadExtent h - 1); if e = 0 then 1 else e)

/-- Status of a request before it takes effect: 0 where it does (R357). -/
def reqStatus (s : State) (flue : Bool) (h : BitVec 256) : Nat :=
  let src := srcStatus s flue h
  if src ≠ 0 then src
  else match hOpc h with
    | 1 => rwStatus s flue h
    | 2 => rwStatus s flue h
    | 3 => rwStatus s flue h
    | 4 =>
      let st := accStatus s (hPart h) (hAddr h)
      if st ≠ 0 ∧ st ≠ 5 then st
      else match findRegion s (hAddr h) with
        | none => 1
        | some kr => if (accPlace s kr.2 (hAddr h) (hdrF h 160 2)).isNone then 4 else st
    | 5 => accStatus s (hPart h) (hAddr h)
    | 6 => treadStatus s h
    | _ => 0

/-! ### Charges (R452) -/

/-- Byte enables of the granule `i` of a write (R354, R355). -/
def wrEnables (h : BitVec 256) (i : Nat) : BitVec 32 :=
  if hOpc h = 3 then BitVec.ofNat 32 (hdrF h (128 + 32 * i) 32)
  else
    let a := hAddr h
    let g := (a / 32 + i) * 32
    BitVec.ofNat 32 ((List.range 32).foldl (fun v j => v + b2n (a ≤ g + j && g + j < a + hLen h) * 2 ^ j) 0)

/-- Hearth charge of a request (R452). -/
def reqCharge (h : BitVec 256) : Nat :=
  let n := granulesOf (hAddr h) (hLen h)
  let a := hAddr h
  match hOpc h with
  | 1 => if inMaskWin a then (hLen h + 31) / 32 * 32 else if inRegWin a then 32 else 32 * n
  | 4 => if hdrF h 160 2 = 2 then 64 else 128
  | 6 => treadBytes (hdrF h 130 3)
  | 2 => if inRegWin a then 32 else
    ((List.range n).map fun i => if enFull (wrEnables h i) then 32 else 96).foldl (· + ·) 0
  | 3 => ((List.range 2).map fun i =>
      if wrEnables h i == 0 then 0 else if enFull (wrEnables h i) then 32 else 96).foldl (· + ·) 0
  | _ => 32

/-- Element type, and the pitch in bytes of a PITCHED source; none for TILE. -/
def tType (h : BitVec 256) : Nat := hdrF h 130 3
def tPitch (h : BitVec 256) : Option Nat := if hdrF h 128 2 = 1 then some (hdrF h 136 24) else none

/-- Offsets from the base of the granules that the source covers. -/
def srcGrans (h : BitVec 256) : List Nat :=
  match tPitch h with
  | some p => (List.range 64).flatMap fun r => (List.range (2 * 2 ^ tType h)).map fun i => r * p + 32 * i
  | none => (List.range (treadBytes (tType h) / 32)).map (32 * ·)

/-- Bytes of port ingress that a request takes, for the ember cap (R280). -/
def reqBytes (p : Pkt) : Nat := 32 * (1 + p.data.length)

/-- Bytes of hearth egress that the completion of a request takes (R280). -/
def reqEgress (flue : Bool) (h : BitVec 256) : Nat :=
  if flue ∨ hPosted h then 0
  else match hOpc h with
    | 1 => 32 * (1 + granulesOf (hAddr h) (hLen h))
    | 6 => 32 + treadBytes (hdrF h 130 3)
    | _ => 32

/-- Bytes that a request to memory takes of the dies' TSV channels: granules read go up, data written goes down (R78,
R280). -/
def reqLegs (s : State) (h : BitVec 256) : List (Nat × Nat) :=
  let leg (dir a n : Nat) : List (Nat × Nat) := match addrPlace s (a / 32 * 32) with
    | some pl => [(2 * pl.die + dir, n)]
    | none => []
  match hOpc h with
  | 1 => leg 0 (hAddr h) (32 * granulesOf (hAddr h) (hLen h))
  | 2 => leg 1 (hAddr h) (32 * granulesOf (hAddr h) (hLen h))
  | 3 => leg 1 (hAddr h) 64
  | 4 => leg 1 (hAddr h) 64
  | 6 => (srcGrans h).flatMap fun o => leg 0 (hAddr h + o) 32
  | _ => []

/-! ### Order (R328 to R330, R362) -/

/-- Two requests come from one agent: the same source on the hearth, the same peer on the flue. -/
def sameAgent (flue : Bool) (h g : BitVec 256) : Bool := if flue then hSpeer h == hSpeer g else hSrc h == hSrc g

/-- Channel keys that a FENCE names (R329). -/
def fenceChans (flue : Bool) (m : Nat) (h : BitVec 256) : List Nat :=
  ((List.range 4).filter fun v => bitAt (hdrF h 112 4) v).map fun v => (if flue then 0x10000 + m * 4 else hSrc h * 4) + v

/-- An earlier fence of the agent, under way or still in its own channel, holds a request of arrival number `no` (R329). -/
def fenceHolds (s : State) (flue : Bool) (m : Nat) (h : BitVec 256) (no : Nat) : Bool :=
  (s.ports.fences.any fun f =>
    f.flue == flue && f.no < no && f.chans.contains (chanKey flue m h) && sameAgent flue f.hdr h)
  || s.ports.waitQ.any fun kv => kv.2.any fun w =>
    w.flue == flue && w.no < no && hOpc w.pkt.hdr == 7 && sameAgent flue w.pkt.hdr h
      && (fenceChans flue w.module w.pkt.hdr).contains (chanKey flue m h)

/-- An earlier write of the channel holds the request back: writes and doorbells wait until earlier writes are visible, an
ACCW until earlier plain writes are; a read waits only for writes that the pair's queue has not yet taken, since the queue
keeps their order (R326, R328, R330, R362). -/
def orderHolds (s : State) (flue : Bool) (m : Nat) (h : BitVec 256) : Bool :=
  let c := chanKey flue m h
  match hOpc h with
  | 1 => s.sched.portWait.any fun w => match w.2.op with
      | .write n _ => ((smFind s.ports.txns n).map (·.chan)) == some c
      | .merge n _ => ((smFind s.ports.txns n).map (·.chan)) == some c
      | _ => false
  | 2 => chanWrites s c
  | 3 => chanWrites s c
  | 8 => chanWrites s c
  | 4 => s.ports.txns.any fun kv => kv.2.chan == c && kv.2.isWrite
  | _ => false

/-- A request waits for a fence or for the order of its channel (R328, R329). -/
def reqWaits (s : State) (flue : Bool) (m : Nat) (h : BitVec 256) (no : Nat) : Bool :=
  fenceHolds s flue m h no || orderHolds s flue m h

/-! ### Taking effect -/

/-- The requester of a register access that a packet carries. -/
def reqOf (s : State) (flue : Bool) (m : Nat) (h : BitVec 256) : Requester :=
  if flue then .flue (((peerOf s (hSpeer h)).map (·.1)).getD 4096) (hPart h) else .hearth m (hSrc h) (hPart h)

/-- Data slots of a read response: the bytes from ADDR on, each at its place in its granule, the others zero (R354). -/
def slotsOf (a : Nat) (bs : List Byte) : List Datum :=
  (bytesGrans (List.replicate (a % 32) 0 ++ bs ++ List.replicate ((32 - (a + bs.length) % 32) % 32) 0)).map fun g => ⟨g, false⟩

/-- A datum with the bytes outside [a, a + n) of its granule at `g` zero (R354). -/
def cutDatum (a n g : Nat) (d : Datum) : Datum :=
  ⟨mergeBytes 0 d.bits (BitVec.ofNat 32 ((List.range 32).foldl (fun v j => v + b2n (a ≤ g + j && g + j < a + n) * 2 ^ j) 0)),
   d.poison⟩

/-- A failed partial write: counted in the writing partition's page, with its cause (R309, R340, R611). -/
def pwFail (s : State) (p : Nat) : State := partAlert (modPart s p fun x => { x with pwFail := x.pwFail + 1 }) p 3

/-- The column request of a memory access: one burst (R278, R325). -/
def portCol (s : State) (flue : Bool) (h : BitVec 256) (cls n a : Nat) (op : ColOp) : State :=
  match addrPlace s (a / 32 * 32) with
  | none => s
  | some pl => enqueueCol s pl.die pl.pos
      { cls := cls
        src := if flue then .flue else .hearth
        off := pl.loc
        n := n
        addr := a / 32 * 32
        part := some (hPart h)
        op := op }

/-- Open the transaction of a request to memory: one burst. -/
def openReq (s : State) (mute flue : Bool) (m : Nat) (h : BitVec 256) (w : Bool) : Nat × State :=
  let t := openTxn s flue m h w 1
  (t.1, if mute then modPorts t.2 fun p =>
      { p with txns := smMap p.txns fun k x => if k = t.1 then { x with mute := true } else x } else t.2)

/-- RD (R327, R354, R355). -/
def rdEff (s : State) (mute flue : Bool) (m cls : Nat) (h : BitVec 256) : State :=
  let a := hAddr h
  let n := hLen h
  if inRegWin a then
    let rq := reqOf s flue m h
    if weftFailed s rq (a - regWin) then reply (weftOver s rq) mute flue m h weftStatus [] else
    let r := regRead s rq (a - regWin) n
    reply (if onWeft (a - regWin) then weftOver r.2 rq else r.2) mute flue m h 0 (slotsOf a (leBytes n r.1))
  else if inMaskWin a then
    let o := a - maskWin
    let bs := (List.range n).map fun i => maskByte s (hPart h) (bitsAt o 36 4) (bitsAt o 32 4) (bitsAt (o + i) 0 32)
    reply (modPorts s fun p => { p with maskBytes := (p.maskBytes + n) % 2 ^ 64 }) mute flue m h 0 (slotsOf a bs)
  else if inStgWin a then
    let ds := (List.range (granulesOf a n)).map fun i =>
      let g := a / 32 + i
      cutDatum a n (32 * g) (stgRead s.staging (g - stgWin / 32))
    reply s mute flue m h 0 ds
  else
    let t := openReq s mute flue m h false
    portCol t.2 flue h cls (granulesOf a n) a (.read t.1)

/-- WR and WRBE (R309, R327, R340, R355). -/
def wrEff (s : State) (mute flue : Bool) (m cls : Nat) (h : BitVec 256) (data : List Datum) : State :=
  let a := hAddr h
  let n := hLen h
  let ds := ((List.range data.length).zip data).map fun e => (e.2, wrEnables h e.1)
  if inRegWin a then
    let v := leAt ((data.flatMap fun d => granBytes d.bits)) (a % 32) n
    reply (regWrite s (reqOf s flue m h) (a - regWin) n (w64 v)) mute flue m h 0 []
  else if inStgWin a then
    let r := stgWrite s.staging ((a - stgWin) / 32) ds
    let s1 := { s with staging := r.2 }
    if r.1 then reply (pwFail s1 (hPart h)) mute flue m h 7 [] else reply s1 mute flue m h 0 []
  else
    let t := openReq s mute flue m h true
    portCol t.2 flue h cls data.length a (if ds.all (fun e => enFull e.2) then .write t.1 data else .merge t.1 ds)

/-- The column request of an accepted ACCW: the four granules of its block, and its scale-and-tag granule, in the class that it
carries (R76, R186, R277). -/
def accCol (s : State) (n cls addr : Nat) (a : AccReq) : State :=
  let q := accAt s a
  enqueueCol s a.die a.pos
    { cls := cls
      src := .accw
      off := q.ub + 128 * q.b
      n := 4
      addr := addr / 32 * 32
      part := some a.part
      op := .acc n (q.ub + 2048) }

/-- ACCW that the address admits (R26, R184, R199). -/
def accwEff (s : State) (mute flue : Bool) (m cls : Nat) (h : BitVec 256) (data : List Datum) : State :=
  let a := hAddr h
  let e := hdrF h 128 32
  let fmt := hdrF h 160 2
  let contrib := hdrF h 162 12
  let rtag := hdrF h 174 16
  match findRegion s a with
  | none => reply s mute flue m h 1 []
  | some (i, r) =>
    match ctxOfRgn s i, accPlace s r a fmt with
    | some (k, c), some pl =>
      if c.openEpoch ≤ e ∧ !(c.isOpen ∧ e = c.openEpoch) then reply s mute flue m h 5 []
      else
        let c1 := modBook c e fun b => { b with acc := b.acc + 1 }
        if c.isOpen ∧ e = c.openEpoch then
          let x := mkAcc s k i c r pl e fmt contrib rtag data 0x3F800000 1 (if mute then none else some (flue, m, h))
            (chanKey flue m h) (hPart h)
          let n := s.stp.next
          accCol (modStp (setCtx s k c1) fun t => { t with acc := smSet t.acc n x, next := n + 1 }) n cls a x
        else reply (qBump (ashEnter s k c1 e contrib fmt rtag a data) (qKey 12 (k / 32) (k % 32) 0 0)) mute flue m h 0 []
    | _, _ => reply s mute flue m h 5 []

/-- CFENCE that the address admits: it waits for the ACCWs of its contributor ahead of it (R193, R194). -/
def cfenceEff (s : State) (mute flue : Bool) (m : Nat) (h : BitVec 256) : State :=
  match findRegion s (hAddr h) with
  | none => reply s mute flue m h 1 []
  | some (i, _) =>
    match ctxOfRgn s i with
    | none => reply s mute flue m h 5 []
    | some (k, _) =>
      let c := chanKey flue m h
      let contrib := hdrF h 162 12
      let w := (s.stp.acc.filter fun kv => kv.2.ctx == k && kv.2.contrib == contrib && kv.2.chan == c).map (·.1)
      let f : FenceReq := { ctx := k, epoch := hdrF h 128 32, contrib := contrib, flue := flue, module := m, hdr := h, chan := c,
                            wait := w, mute := mute }
      let s1 := modCtx s k fun c => if c.openEpoch ≤ f.epoch then
          modBook c f.epoch fun b => { b with recv := b.recv + 1 } else c
      modStp s1 fun t => { t with fences := smSet t.fences t.next f, next := t.next + 1 }

/-- TREAD: accepted, it waits for room in the carve-out (R234). -/
def treadEff (s : State) (mute : Bool) (m cls : Nat) (h : BitVec 256) : State :=
  let n := s.ports.nextTxn
  let t : Tread := { module := m, hdr := h, cls := cls, part := hPart h, mute := mute }
  { modPorts s (fun p => { p with nextTxn := n + 1 }) with treads := smSet s.treads n t }

/-- The effect of a request whose status is OK, its charge made. -/
def reqEff (s : State) (mute flue : Bool) (m cls no : Nat) (p : Pkt) : State :=
  let h := p.hdr
  match hOpc h with
  | 1 => rdEff s mute flue m cls h
  | 2 => wrEff s mute flue m cls h p.data
  | 3 => wrEff s mute flue m cls h p.data
  | 4 => accwEff s mute flue m cls h p.data
  | 5 => cfenceEff s mute flue m h
  | 6 => treadEff s mute m cls h
  | 7 => modPorts s fun q =>
      { q with fences := q.fences ++ [{ flue := flue, module := m, hdr := h, chans := fenceChans flue m h, no := no,
                                        mute := mute }] }
  | _ => reply (doorbellWrite s (reqOf s flue m h) (hAddr h - regWin) 8 (w64 (hdrF h 128 64))) mute flue m h 0 []

/-! ### Accepting, waiting and retrying -/

/-- A request marked ember by a partition without the right is counted in its page also where its address then refuses it
(R363). -/
def emberRefused (s : State) (h : BitVec 256) : State :=
  if hCls h = 0 ∧ !(rightEmber s (hPart h)) ∧ active s (hPart h) then
    pmcEvent (modPart s (hPart h) fun x => { x with emberDem := x.emberDem + 1 }) 0x05 (some (hPart h)) (some 0) .none 1
  else s

/-- A flue write to the fireback sub-window, which its address refuses, is still recorded as an attempt (R11, R469). -/
def flueRwf (s : State) (flue : Bool) (m : Nat) (h : BitVec 256) : State :=
  if flue ∧ hOpc h = 2 ∧ inRegWin (hAddr h) ∧ 0xF00000 ≤ hAddr h - regWin ∧ hAddr h - regWin < 0x1000000 then
    reportRwf s (reqOf s flue m h) (hAddr h - regWin) else s

/-- Control words that the serving of a request reads: its partition's entries, and the step context of a gradient request (R312). -/
def ctlOf (s : State) (h : BitVec 256) : List CtlWord :=
  [.partition (hPart h), .damper (hPart h)] ++
    (if hOpc h = 4 ∨ hOpc h = 5 then
      match findRegion s (hAddr h) with
      | some (i, _) => match ctxOfRgn s i with
        | some (k, _) => [.stepCtx k]
        | none => []
      | none => []
    else [])

/-- Try a request at the head of its channel: whether it was refused or took effect, why it waits otherwise, and the state. -/
def reqTry (s : State) (mute flue : Bool) (m no : Nat) (p : Pkt) : Bool × WaitWhy × State :=
  let h := p.hdr
  let st := reqStatus s flue h
  if tilesSleep s ∨ s.flt.ctlStop then (false, .order, s)
  else if (ctlOf s h).any s.flt.ctl.contains then (false, .order, withCtl s (ctlOf s h) id)
  else if st ≠ 0 then (true, .order, reply (flueRwf (emberRefused s h) flue m h) mute flue m h st [])
  else if reqWaits s flue m h no then (false, .order, s)
  else if hOpc h = 1 ∧ inRegWin (hAddr h) ∧ onWeft (hAddr h - regWin) ∧ !(weftFree s (weftDie (hAddr h - regWin)) 3) then
    (false, .weft, s)
  else
    let c := carriedClass s flue h (reqBytes p) (reqEgress flue h) (reqLegs s h)
    match damperTake c.2 (hPart h) .hearth c.1 (reqCharge h) with
    | none => (false, .damper, s)
    | some s1 => (true, .order, reqEff s1 mute flue m c.1 no p)

/-- Let the requests of a channel go on, in order, until one must wait (R328, R366). -/
def chanGo (s : State) (c : Nat) : Nat → State
  | 0 => s
  | fuel + 1 =>
    match smGet [] s.ports.waitQ c with
    | [] => s
    | w :: rest =>
      let r := reqTry s w.mute w.flue w.module w.no w.pkt
      if r.1 then
        let s1 := modPorts r.2.2 fun q =>
          { q with waitQ := if rest.isEmpty then smDel q.waitQ c else smSet q.waitQ c rest }
        chanGo (if w.cred then freeCred s1 w.flue w.module (reqCred w.pkt) else s1) c fuel
      else modPorts r.2.2 fun q => { q with waitQ := smSet q.waitQ c ({ w with why := r.2.1 } :: rest) }

/-- Let every channel go on. -/
def chansGo (s : State) : State := s.ports.waitQ.foldl (fun t kv => chanGo t kv.1 kv.2.length) s

/-- Complete the transactions whose columns are all granted (R309, R327, R357). -/
def txnsDone (s : State) : State :=
  s.ports.txns.foldl (fun t kv =>
    let x := kv.2
    if x.left ≠ 0 ∨ hOpc x.hdr = 6 then t
    else
      let t1 := modPorts t fun p => { p with txns := smDel p.txns kv.1 }
      if x.isWrite then
        if x.failed then reply (pwFail t1 (hPart x.hdr)) x.mute x.flue x.module x.hdr 7 []
        else reply t1 x.mute x.flue x.module x.hdr 0 []
      else
        reply t1 x.mute x.flue x.module x.hdr 0
          (x.data.map fun d => cutDatum (hAddr x.hdr) (hLen x.hdr) d.1 d.2)) s

/-- What follows once columns are granted or an accumulation is applied: completions, then the channels that waited, then the
streams. The commands that wait are none of its business. -/
def portsGo (s : State) : State := { streamPump (chansGo (txnsDone s)) with pending := s.pending }

/-- Hearth requests outside the form or from an unbound source are violations of kinds 2 and 3 (R367); on the flue of kinds 6
and 5 (R395). -/
def refuseForm (s : State) (flue : Bool) (m : Nat) (h : BitVec 256) (st kind : Nat) : State :=
  let s1 := if flue then match peerOf s (hSpeer h) with
      | some kp => violFlue s kp.1 kind h
      | none => s
    else violHearth s m kind h
  complete (retainExit s1) flue m h st []

/-- A write to a register that is no doorbell carries a completion whatever its POSTED bit says (R327; what becomes of a POSTED one is
DEDUCED, log entry 27). -/
def withCompletion (flue : Bool) (p : Pkt) : Pkt :=
  let h := p.hdr
  if shapeStatus flue h = 0 ∧ hOpc h = 2 ∧ inRegWin (hAddr h) ∧ !(isDoorbell (hAddr h / 8 * 8)) then
    { p with hdr := h &&& ~~~(BitVec.ofNat 256 (2 ^ 9)) } else p

/-- A request that the port has received whole: refused for its form or source, tried at once, or put behind the earlier ones
of its channel (R356, R357, R366). -/
def reqArrive (s : State) (flue : Bool) (m : Nat) (p0 : Pkt) : State :=
  let p := withCompletion flue p0
  let h := p.hdr
  let form := shapeStatus flue h
  let bound := flue || (let a := smGet ({} : Agent) s.ports.agents (hSrc h); a.bound && a.module == m)
  if s.boot.st ≠ .service then freeCred (complete s flue m h 9 []) flue m (reqCred p)
  else if form = 6 ∨ form = 8 then freeCred (refuseForm s flue m h form (if flue then 6 else 2)) flue m (reqCred p)
  else if !bound then freeCred (refuseForm s flue m h 6 3) flue m (reqCred p)
  else if form = 2 then freeCred (complete (retainExit s) flue m h 2 []) flue m (reqCred p)
  else if srcStatus s flue h ≠ 0 then
    freeCred (if flue then refuseForm s flue m h 2 5 else complete (retainExit s) flue m h 2 []) flue m (reqCred p)
  else
    let no := s.ports.nextTxn
    let s1 := modPorts (retainExit s) fun q => { q with nextTxn := no + 1 }
    let c := chanKey flue m h
    let wait (t : State) (w : WaitWhy) : State :=
      let t1 := modPorts t fun q =>
        { q with waitQ := smMod [] q.waitQ c fun l => l ++ [{ flue := flue, module := m, pkt := p, why := w, no := no }] }
      qBump t1 (qKey (if flue then 4 else 3) 0 m (hVc h) 0)
    if (smGet [] s1.ports.waitQ c).isEmpty then
      let r := reqTry s1 false flue m no p
      if r.1 then freeCred r.2.2 flue m (reqCred p) else wait r.2.2 r.2.1
    else wait s1 .order

end Sys2Proof.Machine
end

