-- ==== Sys2Proof/Machine/PktCmds.lean ====
section
/-! DEFINITION. Meanings of the request commands, and of the events that let waiting requests go on (R329, R355, R360, R366,
R367, R377 to R381, R395). -/

namespace Sys2Proof.Machine

/-! ### Credits of an arriving packet or frame (R359, R381) -/

/-- Credit index of a header: a packet of a compute die takes those of its channel; a frame of the flue, below 0x80 those of
its channel, and else 8 responses, 12 stream data, 10 control (R359, R377, R381). -/
def hdrCredIdx (flue : Bool) (h : BitVec 256) : Nat :=
  let o := hOpc h
  if !flue ∨ o < 0x80 then hVc h
  else if o < 0xA0 then 8
  else if o = 0xC1 ∨ o = 0xD1 ∨ o = 0xD8 then 12
  else 10

/-- Credits that a packet takes: its header, and its data slots. -/
def pktCred (flue : Bool) (p : Pkt) : List (Nat × Nat) :=
  let i := hdrCredIdx flue p.hdr
  [(i, 1), (if i < 4 then i + 4 else i + 1, p.data.length)]

/-- The partner holds the credits, and they are taken; none where it does not. -/
def takeCred (s : State) (flue : Bool) (m : Nat) (p : Pkt) : Option State :=
  let x := modOf s flue m
  if (pktCred flue p).all fun c => c.2 ≤ smGet 0 x.rxCred c.1 then
    some (setModule s flue m
      { x with rxCred := (pktCred flue p).foldl (fun t c => if c.2 = 0 then t else smMod 0 t c.1 (· - c.2)) x.rxCred })
  else none

/-- A packet without the credits it needs, or with fewer or more data slots than its header requires: the link is lost
(R367, R395). -/
def creditLost (s : State) (flue : Bool) (m kind : Nat) (h : BitVec 256) : State :=
  linkLost (if flue then violFlue s 4096 kind h else violHearth s m kind h) flue m

/-! ### Frames of the flue (R376 to R380, R395) -/

/-- Sequence channel of an ordered frame (R378): 0 to 3 requests, 4 responses, 5 control, 6 stream control; none for a stream
data frame, and none for HELLO and HELLO_ACK, which open a session. -/
def seqChan (h : BitVec 256) : Option Nat :=
  let o := hOpc h
  if o ≤ 8 then some (hVc h)
  else if o = 0xA0 ∨ o = 0xA1 ∨ o = 0xC1 ∨ o = 0xD1 ∨ o = 0xD8 then none
  else if 0x80 ≤ o ∧ o ≤ 0x82 then some 4
  else if 0xC0 ≤ o ∧ o ≤ 0xC5 then some 6
  else some 5

/-- A frame of an OPEN session, in sequence: its peer's entry and the state, or the state after its discard (R378, R395). -/
def frameOpen (s : State) (h : BitVec 256) : (Nat × Peer) ⊕ State :=
  let k := ((peerOf s (hSpeer h)).map (·.1)).getD 4096
  if hDpeer h ≠ s.ports.peerId then .inr (violFlue s k 3 h)
  else match openPeer s (hSpeer h) with
    | none => .inr (violFlue s k 4 h)
    | some kp => match seqChan h with
      | none => .inl kp
      | some c =>
        if hSseq h = smGet 0 kp.2.rxSseq c then .inl kp
        else .inr (sessLose (violFlue s kp.1 7 h) kp.1 true)

/-- Expect the next sequence number on the frame's channel (R378). -/
def seqNext (s : State) (k : Nat) (h : BitVec 256) : State :=
  match seqChan h with
  | none => s
  | some c => modPeer s k fun p => { p with rxSseq := smSet p.rxSseq c ((hSseq h + 1) % 65536) }

/-- A frame of an OPEN session whose credits are taken: `f` acts on the peer's entry, and the credits are freed where `f` does
not keep them. -/
def frameDo (s : State) (m : Nat) (p : Pkt) (f : State → Nat → Peer → State) : State :=
  match frameOpen s p.hdr with
  | .inr t => freeCred t true m (pktCred true p)
  | .inl (k, pr) => f (seqNext s k p.hdr) k pr

/-! ### Requests -/

/-- A request received whole, its credits taken. -/
def reqIn (s : State) (flue : Bool) (m : Nat) (p : Pkt) : State :=
  if flue then frameDo s m p fun t _ _ => reqArrive t true m p else reqArrive s false m p

/-- The module carries packets: a hearth module UP, a flue module UP and LIT (R364, R375). -/
def modCarries (s : State) (flue : Bool) (m : Nat) : Bool :=
  m < 16 && (modOf s flue m).st == .up && (!flue || (modOf s true m).light == .lit)

/-- A request packet of opcode `opc` from a module that carries packets. -/
def reqCmd (s : State) (opc : Nat) (flue : Bool) (m : Nat) (h : BitVec 256) (data : List Datum) : State :=
  let p : Pkt := ⟨h, data⟩
  if !(modCarries s flue m) || hOpc h != opc then s
  else match takeCred s flue m p with
    | none => creditLost s flue m (if flue then 8 else 5) h
    | some t =>
      if shapeStatus flue h = 0 ∧ data.length ≠ reqSlots h then creditLost s flue m 6 h else portsGo (reqIn t flue m p)

def execRd (flue : Bool) (module : Nat) (hdr : BitVec 256) (data : List Datum) (s : State) :
    Host.Outcome State Fault Refusal := act s fun s => reqCmd s 0x01 flue module hdr data
def execWr (flue : Bool) (module : Nat) (hdr : BitVec 256) (data : List Datum) (s : State) :
    Host.Outcome State Fault Refusal := act s fun s => reqCmd s 0x02 flue module hdr data
def execWrbe (flue : Bool) (module : Nat) (hdr : BitVec 256) (data : List Datum) (s : State) :
    Host.Outcome State Fault Refusal := act s fun s => reqCmd s 0x03 flue module hdr data
def execAccw (flue : Bool) (module : Nat) (hdr : BitVec 256) (data : List Datum) (s : State) :
    Host.Outcome State Fault Refusal := act s fun s => reqCmd s 0x04 flue module hdr data
def execCfence (flue : Bool) (module : Nat) (hdr : BitVec 256) (data : List Datum) (s : State) :
    Host.Outcome State Fault Refusal := act s fun s => reqCmd s 0x05 flue module hdr data
def execTread (flue : Bool) (module : Nat) (hdr : BitVec 256) (data : List Datum) (s : State) :
    Host.Outcome State Fault Refusal := act s fun s => reqCmd s 0x06 flue module hdr data
def execFence (flue : Bool) (module : Nat) (hdr : BitVec 256) (data : List Datum) (s : State) :
    Host.Outcome State Fault Refusal := act s fun s => reqCmd s 0x07 flue module hdr data
def execDb (flue : Bool) (module : Nat) (hdr : BitVec 256) (data : List Datum) (s : State) :
    Host.Outcome State Fault Refusal := act s fun s => reqCmd s 0x08 flue module hdr data

/-! ### Fences and waiting requests -/

/-- What a fence waits for is over: no earlier request of its agent on its channels waits, is under way, or holds an ACCW or a
transposed read (R329). -/
def fenceOver (s : State) (f : FenceR) : Bool :=
  !((smFilter s.ports.waitQ fun c _ => f.chans.contains c).any fun kv => kv.2.any fun w =>
      w.flue == f.flue && w.no < f.no && sameAgent f.flue f.hdr w.pkt.hdr)
  && !(s.ports.txns.any fun kv => f.chans.contains kv.2.chan && sameAgent f.flue f.hdr kv.2.hdr)
  && !(s.stp.acc.any fun kv => f.chans.contains kv.2.chan && (match kv.2.from_ with
      | some q => sameAgent f.flue f.hdr q.2.2
      | none => false))
  && (f.flue || !(s.treads.any fun kv => f.chans.contains (chanKey false kv.2.module kv.2.hdr)))

/-- FENCE_COMPLETE: a fence whose earlier requests are over completes, and what it held goes on (R329). -/
def fenceCompleteEff (s : State) (i : Nat) : State :=
  match s.ports.fences[i]? with
  | none => s
  | some f =>
    if fenceOver s f then
      portsGo (reply (modPorts s fun p => { p with fences := listDel p.fences i }) f.mute f.flue f.module f.hdr 0 [])
    else s

def execFenceComplete (fence : Nat) (s : State) : Host.Outcome State Fault Refusal := act s fun s => fenceCompleteEff s fence

/-- DAMPER_ADMIT: the damper admits the request at the head of a channel, and those behind it that may go on (R366). -/
def damperAdmitEff (s : State) (c : Nat) : State := portsGo (chanGo s c (smGet [] s.ports.waitQ c).length)

def execDamperAdmit (chan : Nat) (s : State) : Host.Outcome State Fault Refusal := act s fun s => damperAdmitEff s chan

/-- ACCW_APPLY, and what waited for it (R186, R328). -/
def execAccwApply (entry : Nat) (s : State) : Host.Outcome State Fault Refusal := act s fun s => portsGo (accwApplyEff s entry)

/-- FENCE_COUNTED, and what follows (R193, R194). -/
def execFenceCounted (entry : Nat) (s : State) : Host.Outcome State Fault Refusal := act s fun s => portsGo (fenceCountedEff s entry)

/-- COLUMN_SLOT_GRANT: one column slot of a pair, and what its grant completes (R278, R325, R327). -/
def execColumnSlotGrant (die pos : Nat) (pullIn : Bool) (s : State) : Host.Outcome State Fault Refusal :=
  act s fun s => if die < s.boot.dies ∧ pos < 32 then portsGo (columnSlot s die pos pullIn) else s

end Sys2Proof.Machine
end

