-- ==== Sys2Proof/Machine/FrameOps.lean ====
section
/-! DEFINITION. What the frames of the flue do: sessions, norm messages, fan-out receive streams, the twin and smoke (R384,
R385, R387, R392, R400 to R412, R417). -/

namespace Sys2Proof.Machine

/-! ### The form of a frame (R376, R377, R400, R414) -/

/-- Opcode fields of a control or stream frame: (low bit, width). -/
def frameFields (o : Nat) : List (Nat × Nat) :=
  match o with
  | 0xA2 => [(128, 8)]
  | 0xB0 => [(128, 57)]
  | 0xC0 => [(128, 80)]
  | 0xC1 => [(128, 40)]
  | 0xC2 => [(128, 45), (176, 32)]
  | 0xC3 => [(128, 40)]
  | 0xC4 => [(128, 48)]
  | 0xC5 => [(128, 73)]
  | 0xD0 => [(128, 43), (176, 32)]
  | 0xD1 => [(128, 43)]
  | 0xD2 => [(128, 44)]
  | 0xD8 => [(128, 40)]
  | 0xD9 => [(128, 45), (176, 32)]
  | _ => []

/-- Data slots that a control or stream frame's header requires. -/
def frameSlots (h : BitVec 256) : Nat :=
  match hOpc h with
  | 0xA0 => 1
  | 0xA1 => 1
  | 0xB0 => 1
  | 0xC1 => hLen h
  | 0xD1 => hLen h
  | 0xD8 => hLen h
  | 0xD0 => (match hdrF h 168 3 with
    | 1 => 32
    | 4 => 1
    | _ => 0)
  | 0xD2 => 1
  | 0x80 => granulesOf (hAddr h) (hLen h)
  | _ => 0

/-- Bits of a flue header that some field of R376 or of the opcode occupies. -/
def frameMask (o : Nat) : Nat :=
  ([(0, 14), (16, 10), (40, 80), (208, 48)] ++ frameFields o).foldl (fun v (p : Nat × Nat) => v ||| ((2 ^ p.2 - 1) <<< p.1)) 0

/-- The frame is well formed: a listed opcode, long, its reserved bits zero, 1 to 32 slots of stream data. -/
def frameForm (h : BitVec 256) : Bool :=
  let o := hOpc h
  [0xA0, 0xA1, 0xA2, 0xA3, 0xA4, 0xB0, 0xC0, 0xC1, 0xC2, 0xC3, 0xC4, 0xC5, 0xD0, 0xD1, 0xD2, 0xD8, 0xD9].contains o
  && hLong h && (h.toNat &&& frameMask o == h.toNat)
  && (!(o == 0xC1 || o == 0xD1 || o == 0xD8) || (1 ≤ hLen h && hLen h ≤ 32))

/-- The peer's roles allow the frame (R374, R380): NORM, FAN_SRC and TWIN frames need theirs; session control and, from the
source that a receive stream names, smoke frames need none. -/
def frameRole (p : Peer) (o : Nat) : Bool :=
  if o = 0xB0 then bitAt p.roles 2
  else if 0xC0 ≤ o ∧ o ≤ 0xC5 then bitAt p.roles 3
  else if 0xD0 ≤ o ∧ o ≤ 0xD2 then bitAt p.roles 5
  else true

/-- Bytes of a datum list. -/
def dataBytes (ds : List Datum) : List Byte := ds.flatMap fun d => granBytes d.bits

/-! ### Sessions (R383 to R385) -/

/-- A HELLO or HELLO_ACK against R384: 0 where it passes, otherwise the number of the check that fails. -/
def helloCheck (p : Peer) (h : BitVec 256) (b : List Byte) : Nat :=
  if leAt b 0 2 / 256 ≠ glbRelease / 256 then 1
  else if leAt b 2 2 ≠ hSpeer h ∨ !p.enabled then 2
  else if leAt b 4 2 &&& p.roles ≠ leAt b 4 2 then 3
  else 0

/-- A session ends refused: BYE with reason 2, and a record of the failed check (R383). -/
def sessRefuse (s : State) (k check : Nat) : State :=
  let p := smGet ({} : Peer) s.ports.peers k
  let s1 := if p.sess = .open then
      sessStreams (muteReqs (dropPeer s k) false fun fl _ h => fl && hSpeer h == p.id) p.id else s
  let s2 := setSess (sendOrd s1 k 0xA2 [(128, 8, 2)] [] 0 none) k .refused
  report s2 chFlue { evt s2 (Config.openCode 3 0) .info 383 with peer := p.id, detA := check }

/-- A HELLO (`ack` false) or HELLO_ACK of the peer of entry `k` (R383, R384). A HELLO of the same boot instance in OPEN, of which R383
has no row, is answered and starts the sequence numbers anew (DESIGN CHOICE, log entry 45). -/
def helloIn (s : State) (ack : Bool) (k : Nat) (h : BitVec 256) (data : List Datum) : State :=
  let p := smGet ({} : Peer) s.ports.peers k
  let b := dataBytes data
  let boot := leAt b 8 4
  let c := helloCheck p h b
  if p.sess = .refused then s
  else if c ≠ 0 then sessRefuse s k c
  else match p.sess with
    | .closed => if ack then s else sessOpen (helloSend s k 0xA1) k boot
    | .unreachable => if ack then s else sessOpen (helloSend s k 0xA1) k boot
    | .helloSent => sessOpen (if ack then s else helloSend s k 0xA1) k boot
    | .open =>
      if ack then s
      else if p.boot ≠ some boot then sessLose s k false
      else helloSend (modPeer s k fun q => { q with txSseq := [], rxSseq := [] }) k 0xA1
    | .refused => s

/-! ### NORM (R204, R387) -/

/-- A NORM frame; from a peer without the role it is counted in STP_NORM_STRAY (R387). -/
def normIn (s : State) (p : Peer) (h : BitVec 256) (data : List Datum) : State :=
  if bitAt p.roles 2 then
    let b := dataBytes data
    if anyBad data then s
    else normArrive s (leAt b 8 4) (hdrF h 160 12 + 1) (hdrF h 128 32) (hdrF h 172 12) (hdrF h 184 1 == 1) (w64 (leAt b 0 8))
  else modStp s fun t => { t with stray := t.stray + 1 }

/-! ### Receive streams of fan-out and smoke (R392, R417) -/

def rxOf (s : State) (smoke : Bool) (k : Nat) : Option Rx := smFind (if smoke then s.str.rxSmoke else s.str.rxFan) k

def setRx (s : State) (smoke : Bool) (k : Nat) (r : Rx) : State :=
  modStr s fun t => if smoke then { t with rxSmoke := smSet t.rxSmoke k r } else { t with rxFan := smSet t.rxFan k r }

/-- The receive stream of a frame, from its source. -/
def rxFrom (s : State) (smoke : Bool) (p : Peer) (k : Nat) : Option Rx :=
  match rxOf s smoke k with
  | some r => if r.src = p.id then some r else none
  | none => none

/-- Begin to receive an epoch into the half other than VALID_HALF. -/
def rxBegin (r : Rx) (e slice : Nat) : Rx :=
  { r with st := .receiving, epoch := e, got := 0, want := none, wantFinal := false, gap := false, slice := slice }

/-- The epoch received is made final: LAST_FINAL, and VALID_HALF flips (R392). -/
def rxFinal (r : Rx) : Rx := { r with st := .final, lastFinal := r.epoch, validHalf := 1 - r.validHalf }

/-- The epoch is complete, and final if its end said so (R392). -/
def rxComplete (r : Rx) (final : Bool) : Rx :=
  let c := { r with st := .complete, complete := r.epoch, want := none }
  if final then rxFinal c else c

/-- Complete the epoch where every granule that its end frame counted has arrived. -/
def rxCheck (r : Rx) : Rx :=
  match r.want with
  | some n => if r.st = .receiving ∧ n ≤ r.got then rxComplete r r.wantFinal else r
  | none => r

/-- The open region that a receive stream writes. -/
def rxRegion (s : State) (r : Rx) : Option Region :=
  match rgnAt s r.rgn with
  | some g => if g.owner = r.owner ∧ !g.block ∧ g.kind ≠ .reserved ∧ !g.banked ∧ !g.reassign then some g else none
  | none => none

/-- Stream data for an epoch in RECEIVING: written with its poison marks, or outside the half (R392). -/
def rxData (s : State) (smoke : Bool) (k : Nat) (r : Rx) (h : BitVec 256) (data : List Datum) : State :=
  let a := hAddr h
  match rxRegion s r with
  | some g =>
    if a % 32 = 0 ∧ a + 32 * data.length ≤ r.half then
      setRx (engWrite (engNow s (engWrites s (hCls h) (g.base + (1 - r.validHalf) * r.half + a) (32 * data.length)))
        (g.base + (1 - r.validHalf) * r.half + a) data) smoke k
        (rxCheck { r with got := r.got + data.length })
    else rxShort s smoke k
  | none => rxShort s smoke k

/-- The end frame of an epoch with status DONE: complete at once, or once the missing granules arrive. -/
def rxEnd (s : State) (smoke : Bool) (k : Nat) (r : Rx) (n : Nat) (final : Bool) : State :=
  setRx s smoke k (rxCheck { r with want := some n, wantFinal := final })

/-- What FAN_STATE says of a COMPLETE epoch (R392). -/
def rxState (r : Rx) (lastFinal lastSent : Nat) (recanted : Bool) : Rx :=
  if r.st = .complete then
    (if recanted ∧ r.epoch = lastSent then { r with st := .recanted }
     else if r.epoch = lastFinal then rxFinal r else r)
  else r

/-- A fan-out frame to this block (R392). -/
def fanIn (s : State) (k : Nat) (p : Peer) (h : BitVec 256) (data : List Datum) : State :=
  let o := hOpc h
  let i := hdrF h (if o = 0xC5 then 192 else 160) 8
  let e := hdrF h 128 32
  let bad := violFlue s k 10 h
  match rxFrom s false p i with
  | none => bad
  | some r =>
    if o = 0xC0 then
      let restart := hdrF h 177 1 == 1
      if ((r.st = .idle ∨ r.st = .final) ∧ (e = r.lastFinal + 1 ∨ restart)) ∨
          ((r.st = .recanted ∨ r.st = .incomplete) ∧ restart) then
        setRx s false i (rxBegin r e (32 * hdrF h 178 30))
      else bad
    else if o = 0xC1 then if r.st = .receiving ∧ e = r.epoch then rxData s false i r h data else bad
    else if o = 0xC2 then
      if r.st = .receiving ∧ e = r.epoch then
        (if hdrF h 168 4 = 0 then rxEnd s false i r (hdrF h 176 32) (hdrF h 172 1 == 1) else rxShort s false i)
      else bad
    else if o = 0xC3 then if r.st = .complete ∧ e = r.epoch then setRx s false i (rxFinal r) else bad
    else if o = 0xC4 then if r.st = .complete ∧ e = r.epoch then setRx s false i { r with st := .recanted } else bad
    else setRx s false i (rxState r e (hdrF h 160 32) (hdrF h 200 1 == 1))

/-- A smoke frame to this block (R414, R417): an epoch runs from OPEN to END, a snapshot from SNAP_BEGIN to SNAP_END; one with
GAP leaves the stream INCOMPLETE. -/
def smokeIn (s : State) (k : Nat) (p : Peer) (h : BitVec 256) (data : List Datum) : State :=
  let i := hdrF h 160 8
  let e := hdrF h 128 32
  let bad := violFlue s k 10 h
  match rxFrom s true p i with
  | none => bad
  | some r =>
    if hOpc h = 0xD8 then
      if r.st = .receiving ∧ e = r.epoch then rxData s true i r h data else bad
    else match hdrF h 168 4 with
      | 1 => setRx s true i (rxBegin r e 0)
      | 3 => setRx s true i (rxBegin r e 0)
      | 2 =>
        if hdrF h 172 1 = 1 then setRx s true i { r with st := .incomplete, epoch := e, want := none, gap := true }
        else if r.st = .receiving ∧ e = r.epoch then rxEnd s true i r (hdrF h 176 32) true
        else bad
      | 4 => if r.st = .receiving ∧ e = r.epoch then rxEnd s true i r (hdrF h 176 32) true else bad
      | _ => bad

/-! ### The twin (R400 to R412) -/

/-- The place of a granule of a record's operand: the hob of its rank, and the pair-local offset (R405, R412). -/
def twinPlace (s : State) (t : Twin) (opd e addr : Nat) : Option Place :=
  let o := t.ops.getD opd {}
  let sl := storageBytes o.type t.nPer
  let w := t.c1 + 1 - t.c0
  let rank := addr / sl
  match rgnAt s o.rgn with
  | none => none
  | some r =>
    if o.used ∧ addr % 32 = 0 ∧ 0 < sl ∧ rank < w * (t.r1 + 1 - t.r0) then
      some ⟨t.r0 + rank / w, t.c0 + rank % w,
        r.first * unitBytes + (if r.acc then e % 2 * (sliceBytes r / 2) else 0) + o.d + addr % sl⟩
    else none

/-- Write a granule of a record's operand, charged in the frame's class (R405, R412). -/
def twinPut (s : State) (t : Twin) (opd e cls addr : Nat) (d : Datum) : Option State :=
  match twinPlace s t opd e addr with
  | some pl => some (writeGran (engNow s { cls := cls, places := [pl], rd := 0, wr := 1 }) pl.die pl.pos pl.loc d)
  | none => none

/-- A resync is over at its receiver once every counted granule is written (R409, R412). -/
def resyncCheck (s : State) (k : Nat) : State :=
  let t := twinOf s k
  match t.want with
  | some (n, e) =>
    if t.st = .resync ∧ !t.source ∧ n ≤ t.written then
      let s1 := twinPickDone s k stDone
      let s2 := setTwin s1 k { twinOf s1 k with st := .inStep, want := none, written := 0, next := e, since := false }
      if t.replay then s2 else releaseTry s2 t.ctx
    else s
  | none => s

/-- Fields of a PAIR header equal the record's (R398, R400). -/
def pairAgrees (t : Twin) (data : List Datum) : Bool := (data.getD 0 ⟨0, true⟩) == pairSlot t

/-- A record begins a resync: what it held of epochs not yet compared or replayed is over (R412). -/
def resyncStart (t : Twin) (source : Bool) : Twin :=
  { t with
    st := .resync
    source := source
    written := 0
    want := none
    own := []
    other := []
    hdrs := []
    recv := []
    counted := [] }

/-- TWIN_HDR (R404, R409, R412). -/
def twinHdrIn (s : State) (j k : Nat) (t : Twin) (h : BitVec 256) (data : List Datum) : State :=
  let e := hdrF h 128 32
  let kind := hdrF h 168 3
  let bad := violFlue s j 11 h
  if kind = 4 then
    (if t.st = .pairing then
      (if pairAgrees t data then
        let s1 := twinPickDone s k stDone
        setTwin s1 k { twinOf s1 k with st := .inStep, next := t.first, since := false }
      else
        let s1 := twinPickDone s k stPairMismatch
        let s2 := setTwin s1 k { twinOf s1 k with st := .unpaired }
        report s2 chTwin { evt s2 (Config.openCode 3 1) .info 409 with part := some t.owner, peer := t.peer, detB := k })
    else s)
  else if kind = 5 then
    (if t.st = .diverged then setTwin s k (resyncStart t false) else bad)
  else if kind = 6 then
    (if t.st = .resync ∧ !t.source then resyncCheck (setTwin s k { t with want := some (hdrF h 176 32, e) }) k else bad)
  else if !t.replay ∨ t.st ≠ .inStep ∨ e ≠ t.next then bad
  else if kind = 1 then
    setTwin s k { t with next := e + 1, lastHdr := e, since := true, hdrs := t.hdrs ++ [(e, data)] }
  else if kind = 2 ∨ kind = 3 then setTwin s k { t with next := e + 1, lastHdr := e, since := true }
  else bad

/-- An epoch whose header the replay record has taken and whose replay has not ended. -/
def twinOpen (s : State) (k : Nat) (t : Twin) (e : Nat) : Bool :=
  (t.hdrs.any fun q => q.1 == e) || s.fir.all.any fun kv => kv.2.replay == some k && kv.2.f.epoch == e

/-- TWIN_DATA (R405, R412). -/
def twinDataIn (s : State) (j k : Nat) (t : Twin) (h : BitVec 256) (data : List Datum) : State :=
  let e := hdrF h 128 32
  let opd := hdrF h 168 3
  let bad := violFlue s j 11 h
  let go (res : Bool) (s : State) : State :=
    ((List.range data.length).zip data).foldl (fun u q =>
      let a := hAddr h + 32 * q.1
      match twinPut u t opd (if res then 0 else e) (hCls h) a q.2 with
      | none => violFlue u j 11 h
      | some v =>
        let y := twinOf v k
        if res then setTwin v k { y with written := y.written + 1 }
        else
          let sl := storageBytes (t.ops.getD opd {}).type t.nPer
          setTwin v k { y with recv := y.recv ++ [(e, a / sl, a % sl)] }) s
  if e = 0xFFFFFFFF then
    if t.st = .resync ∧ !t.source ∧ bitAt t.mask opd then resyncCheck (go true s) k else bad
  else if t.replay ∧ t.st = .inStep ∧ opd = 1 ∧ twinOpen s k t e then go false s
  else bad

/-- TWIN_DIGEST (R408, R409). -/
def twinDigestIn (s : State) (j k : Nat) (t : Twin) (h : BitVec 256) (data : List Datum) : State :=
  let e := hdrF h 128 32
  let b := dataBytes data
  let d : Digest :=
    { epoch := e
      status := hdrF h 169 3
      digest := BitVec.ofNat 128 (leAt b 0 16)
      stored := leAt b 16 8
      count := leAt b 24 4
      bad := leAt b 28 2 }
  if t.st ≠ .inStep ∨ (hdrF h 168 1 == 1) = t.replay then violFlue s j 11 h
  else
    let s1 := setTwin s k
      { t with
        other := (t.other.filter fun y => y.epoch != e) ++ [d]
        counted := if t.replay then (t.counted.filter fun q => q.1 != e) ++ [(e, d.count)] else t.counted }
    let s2 := if d.status = 2 then twinDiverge s1 k e else twinCompare s1 k e
    if t.replay then s2 else releaseTry s2 t.ctx

/-- A twin frame to this block (R400). -/
def twinIn (s : State) (j : Nat) (p : Peer) (h : BitVec 256) (data : List Datum) : State :=
  let k := hdrF h 160 8
  match smFind s.str.twins k with
  | none => violFlue s j 11 h
  | some t =>
    if t.peer ≠ p.id ∨ t.st = .unpaired then violFlue s j 11 h
    else match hOpc h with
      | 0xD0 => twinHdrIn s j k t h data
      | 0xD1 => twinDataIn s j k t h data
      | _ => twinDigestIn s j k t h data

/-! ### All frames -/

/-- What an accepted control or stream frame of an OPEN session does. -/
def frameEff (s : State) (k : Nat) (p : Peer) (h : BitVec 256) (data : List Datum) : State :=
  let o := hOpc h
  if o = 0xA2 then sessLose s k false
  else if o = 0xA3 then sendOrd s k 0xA4 [] [] 0 none
  else if o = 0xA4 then s
  else if o = 0xB0 then normIn s p h data
  else if !(frameRole p o) then complete (violFlue s k 5 h) true 0 h 2 []
  else if o ≤ 0xC5 then fanIn s k p h data
  else if o ≤ 0xD2 then twinIn s k p h data
  else smokeIn s k p h data

/-- A control or stream frame received whole, its credits taken: they are freed once it has been applied (R360, R381). -/
def frameIn (s : State) (m : Nat) (p : Pkt) : State :=
  let h := p.hdr
  let o := hOpc h
  let k := ((peerOf s (hSpeer h)).map (·.1)).getD 4096
  let free (t : State) : State := freeCred t true m (pktCred true p)
  if !(frameForm h) ∨ p.data.length ≠ frameSlots h then
    match frameOpen s h with
    | .inr t => free t
    | .inl kp => free (complete (violFlue (seqNext s kp.1 h) kp.1 6 h) true m h 6 [])
  else if o = 0xA0 ∨ o = 0xA1 then
    free (if hDpeer h ≠ s.ports.peerId then violFlue s k 3 h
      else if k = 4096 then violFlue s 4096 4 h
      else helloIn s (o == 0xA1) k h p.data)
  else frameDo s m p fun t k pr => free (frameEff t k pr h p.data)

end Sys2Proof.Machine
end

