-- ==== Sys2Proof/Machine/FlitOps.lean ====
section
/-! DEFINITION. Flits: what is accepted, what is taken out of them, and what leaves in them (R349 to R354, R359 to R365, R375,
R378, R381, R394, R395). -/

namespace Sys2Proof.Machine

/-! ### Flit check (R349, R351, R352) -/

/-- CRC-16 of a byte string: x^16 + x^12 + x^5 + 1, initial value 0xFFFF, no final inversion (R349). -/
def crc16 (bs : List Byte) : BitVec 16 :=
  bs.foldl (fun (c : BitVec 16) b =>
    (List.range 8).foldl (fun (x : BitVec 16) i =>
      let top := x.getLsbD 15 != b.getLsbD (7 - i)
      let y := x <<< 1
      if top then y ^^^ 0x1021 else y) c) 0xFFFF

/-- Bytes 0 to 253 of a flit (R349). -/
def flitBytes (f : Flit) : List Byte :=
  f.slots.flatMap granBytes ++ leBytes 28 f.weft.toNat ++ [f.pois, f.seq]

def flitCrcOk (f : Flit) : Bool := f.slots.length == 7 && crc16 (flitBytes f) == f.crc

/-- The weft bits of slot `i` that folds address `l` are right (R304, R351). -/
def slotWeftOk (f : Flit) (i l : Nat) : Bool :=
  weftBits l (f.pois.getLsbD i) (granBytes (f.slots.getD i 0)) == bitsAt f.weft.toNat (32 * i) 32

/-! ### Slots into packets (R350, R351, R354, R379) -/

/-- Data slots that a header requires. -/
def needSlots (flue : Bool) (h : BitVec 256) : Nat :=
  if 1 ≤ hOpc h ∧ hOpc h ≤ 8 then reqSlots h else if flue then frameSlots h else 0

/-- Bytes of a hob's slice of the stream that a data frame belongs to (R379). -/
def foldSlice (s : State) (h : BitVec 256) : Nat :=
  let k := hdrF h 160 8
  match hOpc h with
  | 0xC1 => ((smFind s.str.rxFan k).map (·.slice)).getD 0
  | 0xD1 => match smFind s.str.twins k with
    | some t => storageBytes (t.ops.getD (hdrF h 168 3) {}).type t.nPer
    | none => 0
  | _ => ((smFind s.str.rxSmoke k).map (·.slice)).getD 0

/-- Address that data slot `i` of a packet folds (R305, R354, R379): a register access its offset in the register window, and a
completion record zero in both slots; ADDR of a BWR that drains a soot ring is never zero. -/
def foldAddr (slice : Nat) (h : BitVec 256) (i : Nat) : Nat :=
  let o := hOpc h
  let a := hAddr h
  if o ≤ 8 ∨ o = 0x80 then (if regWin ≤ a ∧ a < regWin + 0x2000000 then ((a - regWin) / 32 + i) * 32 else (a / 32 + i) * 32)
  else if o = 0xC1 ∨ o = 0xD1 ∨ o = 0xD8 then (hAddr h + 32 * i) % slice
  else if o = 0x83 then a + 32 * i
  else if o = 0x90 then (if a = 0 then 0 else a + 32 * i)
  else 0

/-- What parsing has found: packets still open, packets and control headers complete in order (with a mark where a slot of the
packet failed its weft check), whether every slot passed, and control headers with a reserved bit set. -/
structure FlitP where
  part : List (Pkt × Nat × Bool) := []
  out : List (Pkt × Bool) := []
  ok : Bool := true

/-- Move the open packets that are complete to the output, in order. -/
def flitFlush (x : FlitP) : Nat → FlitP
  | 0 => x
  | n + 1 => match x.part with
    | (p, 0, b) :: rest => flitFlush { x with part := rest, out := x.out ++ [(p, b)] } n
    | _ => x

/-- Take one slot of a flit. -/
def flitSlot (s : State) (flue : Bool) (f : Flit) (x : FlitP) (i : Nat) : FlitP :=
  let w := f.slots.getD i 0
  match x.part with
  | (p, n + 1, b) :: rest =>
    let good := slotWeftOk f i (foldAddr (foldSlice s p.hdr) p.hdr p.data.length)
    let q : Pkt := ⟨p.hdr, p.data ++ [⟨w, f.pois.getLsbD i⟩]⟩
    flitFlush { x with part := (q, n, b || !good) :: rest, ok := x.ok && good } 4
  | _ =>
    let good := slotWeftOk f i 0
    let hs : List (BitVec 256) := if hLong w then [w] else
      [BitVec.ofNat 256 (w.toNat % 2 ^ 128), BitVec.ofNat 256 (w.toNat / 2 ^ 128)]
    let ps := (hs.filter fun h => h != 0).map fun h => ((⟨h, []⟩ : Pkt), needSlots flue h, !good)
    flitFlush { x with part := x.part ++ ps, ok := x.ok && good } 4

/-- Parse a flit from the packets still open. -/
def flitParse (s : State) (flue : Bool) (f : Flit) (part : List (Pkt × Nat × Bool)) : FlitP :=
  (List.range 7).foldl (flitSlot s flue f) { part := part }

/-! ### Control headers (R352, R355, R359, R364, R367) -/

/-- Only defined bits of a control header are set (R355). -/
def ctlForm (h : BitVec 256) : Bool :=
  let m := if hOpc h = 0xF0 then (2 ^ 8 - 1) + 3 * 2 ^ 12 + (2 ^ 34 - 1) * 2 ^ 64
    else if hOpc h = 0 then 0 else (2 ^ 8 - 1) + (2 ^ 8 - 1) * 2 ^ 64
  h.toNat &&& m == h.toNat

/-- Credit indices that a CREDIT header returns to this block: requests (of a channel), responses, then BWR on the hearth, or
control and stream frames on the flue. -/
def creditIdx (flue : Bool) (h : BitVec 256) : Option Nat :=
  match hdrF h 96 2, flue with
  | 0, true => some (hVc h)
  | 1, _ => some 8
  | 2, false => some 14
  | 2, true => some 10
  | 3, true => some 12
  | _, _ => none

/-- CREDIT: credits come back; in CREDIT the module is UP once the initial credits of every type have come (R359, R364). -/
def creditIn (s : State) (flue : Bool) (m : Nat) (h : BitVec 256) : State :=
  match creditIdx flue h with
  | none => s
  | some i =>
    let j := if i < 4 then i + 4 else i + 1
    let s1 := modModule s flue m fun x =>
      { x with
        txCred := smMod 0 (smMod 0 x.txCred i (· + hdrF h 64 16)) j (· + hdrF h 80 16)
        credSeen := insN (insN x.credSeen i) j }
    let x := modOf s1 flue m
    if x.st = .credit ∧ (partnerIdx flue).all (fun q => x.credSeen.contains q) then
      setModS (modModule s1 flue m fun y => { y with fails := 0 }) flue m .up
    else s1

/-- ACK: the flits up to the named one are accepted (R352). -/
def ackIn (s : State) (flue : Bool) (m : Nat) (h : BitVec 256) : State :=
  let q := BitVec.ofNat 8 (hdrF h 64 8)
  modModule s flue m fun x =>
    if x.replay.any fun f => f.seq == q then
      { x with replay := (x.replay.dropWhile fun f => f.seq != q).drop 1, replays := 0 }
    else x

/-- NAK: replay from the named flit; once a flit has been replayed eight times without acceptance the module retrains, and
after eight more replays the link is lost (R352, R364). -/
def nakIn (s : State) (flue : Bool) (m : Nat) (h : BitVec 256) : State :=
  let q := BitVec.ofNat 8 (hdrF h 64 8)
  let x := modOf s flue m
  let rest := x.replay.dropWhile fun f => f.seq != q
  if rest.isEmpty then s
  else
    let fresh : Bool := rest.length < x.replay.length
    let again (n : Nat) : State :=
      setModule s flue m { x with replay := rest, resend := rest, replays := n, replayCnt := x.replayCnt + 1 }
    if fresh then again 1
    else if x.replays = 8 then setModS (setModule s flue m { x with resend := rest }) flue m .retrain
    else if 16 ≤ x.replays then linkLost s flue m
    else again (x.replays + 1)

/-- A control header (R367): with a reserved bit set it is discarded. -/
def ctlIn (s : State) (flue : Bool) (m : Nat) (h : BitVec 256) : State :=
  if !(ctlForm h) then (if flue then violFlue s 4096 1 h else violHearth s m 4 h)
  else match hOpc h with
    | 0xF0 => creditIn s flue m h
    | 0xF1 => ackIn s flue m h
    | 0xF2 => nakIn s flue m h
    | _ => s

/-- A header of no opcode of its direction, or a response to a request that the block does not send. -/
def strayIn (s : State) (flue : Bool) (m : Nat) (p : Pkt) : State :=
  if flue then frameIn s m p else freeCred (refuseForm s false m p.hdr 6 2) false m (pktCred false p)

/-- A packet or control header taken whole out of a flit; `bad` where a slot of a flue frame failed its weft check (R395). A flue
module that is not LIT carries no frames: what a peer's frame leaves is its credits (R382; DEDUCED, log entry 96). -/
def itemIn (s : State) (flue : Bool) (m : Nat) (p : Pkt) (bad : Bool) : State :=
  let o := hOpc p.hdr
  if o = 0 ∨ (0xF0 ≤ o ∧ o ≤ 0xF2) then (if bad then s else ctlIn s flue m p.hdr)
  else match takeCred s flue m p with
    | none => creditLost s flue m (if flue then 8 else 5) p.hdr
    | some t =>
      if flue && (modOf t true m).light != .lit then freeCred t true m (pktCred true p)
      else if bad then freeCred (violFlue t (((peerOf t (hSpeer p.hdr)).map (·.1)).getD 4096) 2 p.hdr) true m (pktCred true p)
      else if 1 ≤ o ∧ o ≤ 8 then reqIn t flue m p
      else strayIn t flue m p

/-- The first packet among a flit's items that the partner sends without the credits it needs (R367). -/
def flitShort (flue : Bool) : SMap Nat → List (Pkt × Bool) → Option Pkt
  | _, [] => none
  | cr, (p, _) :: rest =>
    if hOpc p.hdr = 0 ∨ (0xF0 ≤ hOpc p.hdr ∧ hOpc p.hdr ≤ 0xF2) then flitShort flue cr rest
    else if (pktCred flue p).all fun c => c.2 ≤ smGet 0 cr c.1 then
      flitShort flue ((pktCred flue p).foldl (fun t c => if c.2 = 0 then t else smMod 0 t c.1 (· - c.2)) cr) rest
    else some p

/-- Apply the items of a flit in order, while the module keeps its link. -/
def itemsIn (s : State) (flue : Bool) (m : Nat) : List (Pkt × Bool) → State
  | [] => s
  | (p, b) :: rest =>
    if (modOf s flue m).st = .down then s else itemsIn (itemIn s flue m p b) flue m rest

/-- A flit that the receiver does not accept (R352): NAK once, and discard what follows until the replay. -/
def flitDiscard (s : State) (flue : Bool) (m : Nat) (crc weft : Bool) (f : Flit) : State :=
  let x := modOf s flue m
  let s1 := setModule s flue m
    { x with
      crcErr := x.crcErr + b2n crc
      weftErr := x.weftErr + b2n weft
      discarding := true
      nakDue := x.nakDue || !x.discarding }
  let h := f.slots.getD 0 0
  if x.discarding then s1 else if flue then violFlue s1 4096 1 h else violHearth s1 m 1 h

/-- FLIT_RECEIVED (R351, R352): a flit with a packet that lacks its credits is discarded, and the link is lost (R367). -/
def flitReceivedEff (s : State) (flue : Bool) (m : Nat) (f : Flit) : State :=
  let x := modOf s flue m
  if 16 ≤ m ∨ (x.st ≠ .credit ∧ x.st ≠ .up) then s
  else
    let crc := flitCrcOk f
    let r := flitParse s flue f x.partialPkts
    let weft := flue || r.ok
    if !crc then flitDiscard s flue m true false f
    else if f.seq ≠ x.rxSeq + 1 then flitDiscard s flue m false false f
    else if !weft then flitDiscard s flue m false true f
    else match flitShort flue x.rxCred r.out with
    | some p => portsGo (creditLost s flue m (if flue then 8 else 5) p.hdr)
    | none =>
      let s1 := setModule s flue m
        { x with rxSeq := f.seq, discarding := false, ackDue := x.ackDue + 1, partialPkts := r.part }
      let s2 := if flue then s1 else pmcEvent s1 0x06 none none (.module false m) 1
      portsGo (itemsIn s2 flue m r.out)

def execFlitReceived (flue : Bool) (module : Nat) (flit : Flit) (s : State) : Host.Outcome State Fault Refusal :=
  act s fun s => flitReceivedEff s flue module flit

/-- A control header delivered to a module that takes flits. -/
def ctlCmd (s : State) (opc : Nat) (flue : Bool) (m : Nat) (h : BitVec 256) : State :=
  let st := (modOf s flue m).st
  if m < 16 ∧ (st = .up ∨ st = .credit) ∧ hOpc h = opc then portsGo (ctlIn s flue m h) else s

def execCredit (flue : Bool) (module : Nat) (hdr : BitVec 256) (s : State) : Host.Outcome State Fault Refusal :=
  act s fun s => ctlCmd s 0xF0 flue module hdr
def execAck (flue : Bool) (module : Nat) (hdr : BitVec 256) (s : State) : Host.Outcome State Fault Refusal :=
  act s fun s => ctlCmd s 0xF1 flue module hdr
def execNak (flue : Bool) (module : Nat) (hdr : BitVec 256) (s : State) : Host.Outcome State Fault Refusal :=
  act s fun s => ctlCmd s 0xF2 flue module hdr

/-! ### Sending (R349, R350, R352, R359, R378, R381, R394) -/

/-- Control headers that are due, each with what its sending settles: NAK, ACK, and the credits freed, which the partner then holds
(R352, R359, R360). -/
def ctlDue (flue : Bool) (x : PModule) : List (BitVec 256 × (PModule → PModule)) :=
  let nak := if x.nakDue then
    [(mkHdr [(0, 8, 0xF2), (64, 8, (x.rxSeq + 1).toNat)], fun (y : PModule) => { y with nakDue := false })] else []
  let ack := if 0 < x.ackDue then
    [(mkHdr [(0, 8, 0xF1), (64, 8, x.rxSeq.toNat)], fun (y : PModule) => { y with ackDue := 0 })] else []
  let cr (i j vc kind : Nat) : List (BitVec 256 × (PModule → PModule)) :=
    let a := smGet 0 x.credDue i
    let b := smGet 0 x.credDue j
    if a = 0 ∧ b = 0 then []
    else [(mkHdr [(0, 8, 0xF0), (12, 2, vc), (64, 16, a), (80, 16, b), (96, 2, kind)],
      fun (y : PModule) =>
        { y with credDue := smDel (smDel y.credDue i) j, rxCred := smMod 0 (smMod 0 y.rxCred i (· + a)) j (· + b) })]
  let reqs := (List.range 4).flatMap fun v => cr v (v + 4) v 0
  nak ++ ack ++ reqs ++ (if flue then cr 8 9 0 1 ++ cr 10 11 0 2 ++ cr 12 13 0 3 else [])

/-- Credit index of a packet that the block sends. -/
def txIdx (flue : Bool) (h : BitVec 256) : Nat :=
  if flue then hdrCredIdx true h else if hOpc h = 0x90 then 14 else 8

/-- The block holds the credits that a packet needs (R359). -/
def txOk (flue : Bool) (x : PModule) (e : EgPkt) : Bool :=
  let i := txIdx flue e.pkt.hdr
  1 ≤ smGet 0 x.txCred i && e.pkt.data.length ≤ smGet 0 x.txCred (i + 1)

/-- Rank of a flue frame in the order of R394, and of a hearth packet in class order (R362): lower goes first. -/
def txRank (flue : Bool) (e : EgPkt) : Nat :=
  if !flue then e.cls
  else if e.grp ≤ 1 then (if hOpc e.pkt.hdr = 0xC4 then 0 else if hOpc e.pkt.hdr = 0xB0 then 1 else 2)
  else if e.grp = 2 then 3 + e.cls else 8

/-- The first packet of least rank that holds its credits; a packet is not passed by a later one of its rank and credit type. -/
def txFirst (flue : Bool) (x : PModule) : Option Nat :=
  let ids := (List.range x.egress.length).zip x.egress
  let ok (e : Nat × EgPkt) : Bool := txOk flue x e.2 && !((ids.take e.1).any fun q =>
    txRank flue q.2 == txRank flue e.2 && txIdx flue q.2.pkt.hdr == txIdx flue e.2.pkt.hdr && !(txOk flue x q.2))
  ((List.range 8).findSome? fun r => (ids.find? fun e => txRank flue e.2 == r && ok e)).map (·.1)

/-- Quantum of a stream kind: 0 fan-out, 1 twin, 2 smoke (R394). -/
def quantum (k : Nat) : Nat := if k = 0 then 4096 else if k = 1 then 2048 else 1024

/-- First queued stream data frame of a kind that holds its credits. -/
def txKind (x : PModule) (k : Nat) : Option Nat :=
  (((List.range x.egress.length).zip x.egress).find? fun e => e.2.grp == 3 + k && txOk true x e.2).map (·.1)

/-- Deficit round robin over the stream kinds (R394): the frame to send, and the module with its deficits. A kind with no frame
ready is skipped and keeps no deficit. -/
def drrPick (x : PModule) : Nat → Option (Nat × PModule)
  | 0 => none
  | fuel + 1 =>
    let k := x.drr
    let nxt := (k + 1) % 3
    match txKind x k with
    | none => drrPick { x with drr := nxt, deficit := smDel x.deficit k } fuel
    | some i =>
      let need := match x.egress[i]? with
        | some e => pktBytes e.pkt
        | none => 0
      let d := smGet 0 x.deficit k
      if need ≤ d then some (i, { x with deficit := smSet x.deficit k (d - need) })
      else drrPick { x with drr := nxt, deficit := smSet x.deficit k (d + quantum k) } fuel

/-- The next packet to send, and the module's deficits then (R362, R394). -/
def txNext (flue : Bool) (x : PModule) : Option (Nat × PModule) :=
  match txFirst flue x with
  | some i => some (i, x)
  | none => if flue then drrPick x 12 else none

/-- Write the session sequence into an ordered frame as it leaves (R378). -/
def seqStamp (s : State) (e : EgPkt) : BitVec 256 × State :=
  match e.peer, seqChan e.pkt.hdr with
  | some k, some c =>
    let n := smGet 0 (smGet ({} : Peer) s.ports.peers k).txSseq c
    (e.pkt.hdr ||| mkHdr [(240, 16, n)], modPeer s k fun p => { p with txSseq := smSet p.txSseq c ((n + 1) % 65536) })
  | _, _ => (e.pkt.hdr, s)

/-- Slice bytes that the data slots of a frame which this block sends fold into (R379). -/
def txSlice (s : State) (e : EgPkt) : Nat :=
  let id := hDpeer e.pkt.hdr
  let k := hdrF e.pkt.hdr 160 8
  match e.grp with
  | 3 => s.str.fans.foldl (fun v kv => if kv.2.dests.any (fun d => d.peer == id && d.rx == k) then kv.2.slice else v) 0
  | 4 => s.str.twins.foldl (fun v kv => if kv.2.peer = id ∧ kv.2.partnerRec = k then
      storageBytes (kv.2.ops.getD (hdrF e.pkt.hdr 168 3) {}).type kv.2.nPer else v) 0
  | 5 => s.str.smokes.foldl (fun v kv => if kv.2.sinks.any (fun d => d.peer == id && d.rx == k) then kv.2.slice else v) 0
  | _ => 0

/-- The module carries packets: it is UP, and a flue module LIT besides (R364, R382). -/
def txCarries (flue : Bool) (x : PModule) : Bool := x.st == .up && (!flue || x.light == .lit)

/-- Begin a packet, one of a short header where `short` asks for it: its credits are taken, and its data slots follow those of a packet
before it in the header slot (R350, R359). The header, and the state. -/
def txBegin (s : State) (flue : Bool) (m : Nat) (short : Bool) : Option (BitVec 256 × State) :=
  let x := modOf s flue m
  match (if txCarries flue x then txNext flue x else none) with
  | none => none
  | some (i, y) => match y.egress[i]? with
    | none => none
    | some e =>
      if short && hLong e.pkt.hdr then none
      else
        let j := txIdx flue e.pkt.hdr
        let st := seqStamp s e
        let sl := txSlice s e
        let tail := ((List.range e.pkt.data.length).zip e.pkt.data).map fun q =>
          (q.2.bits, q.2.poison, foldAddr sl e.pkt.hdr q.1)
        let s1 := setModule st.2 flue m
          { y with
            egress := listDel y.egress i
            txTail := y.txTail ++ tail
            tposeTail := y.tposeTail + tileBytes e.pkt.hdr
            txCred := smMod 0 (smMod 0 y.txCred j (· - 1)) (j + 1) (· - e.pkt.data.length) }
        let s2 := if flue then pmcEvent (modPorts s1 fun p =>
            { p with egSent := smMod 0 p.egSent e.grp (fun n => (n + pktBytes e.pkt) % 2 ^ 64) }) 0x07 none none
            (.module true m) e.pkt.data.length else s1
        some (st.1, s2)

/-- A header slot: a long header, or a short one with the header of the next packet beside it where that is short too (R350). -/
def txPair (s : State) (flue : Bool) (m : Nat) (h : BitVec 256) : BitVec 256 × State :=
  if hLong h then (h, s)
  else match txBegin s flue m true with
    | some (g, t) => (h ||| (g <<< 128), t)
    | none => (h, s)

/-- The slots of the next flit, each with its poison flag and folded address, from `n` slots downward; the control headers due
come first, two to a slot (R350, R394). -/
def txSlots (s : State) (flue : Bool) (m : Nat) : List (BitVec 256) → Nat → List (BitVec 256 × Bool × Nat) × State
  | _, 0 => ([], s)
  | ctl, n + 1 =>
    let x := modOf s flue m
    match x.txTail with
    | w :: rest =>
      let t := setModule s flue m { x with txTail := rest, tposeTail := if rest.isEmpty then 0 else x.tposeTail }
      let r := txSlots (if rest.isEmpty then { t with tposeUsed := t.tposeUsed - x.tposeTail } else t) flue m ctl n
      (w :: r.1, r.2)
    | [] => match ctl with
      | a :: b :: rest =>
        let r := txSlots s flue m rest n
        ((a ||| (b <<< 128), false, 0) :: r.1, r.2)
      | [a] =>
        let u := txPair s flue m a
        let r := txSlots u.2 flue m [] n
        ((u.1, false, 0) :: r.1, r.2)
      | [] => match txBegin s flue m false with
        | some (h, t) =>
          let u := txPair t flue m h
          let r := txSlots u.2 flue m [] n
          ((u.1, false, 0) :: r.1, r.2)
        | none =>
          let r := txSlots s flue m [] n
          ((0, false, 0) :: r.1, r.2)

/-- The flit of seven slots with a sequence number (R349). -/
def mkFlit (ws : List (BitVec 256 × Bool × Nat)) (seq : BitVec 8) : Flit :=
  let ix := (List.range 7).zip ws
  let f : Flit :=
    { slots := ws.map (·.1)
      weft := BitVec.ofNat 224 (ix.foldl (fun v e => v + weftBits e.2.2.2 e.2.2.1 (granBytes e.2.1) * 2 ^ (32 * e.1)) 0)
      pois := BitVec.ofNat 8 (ix.foldl (fun v e => v + b2n e.2.2.1 * 2 ^ e.1) 0)
      seq := seq
      crc := 0 }
  { f with crc := crc16 (flitBytes f) }

/-- FLIT_SENT: a module that carries flits sends the next one: a flit to be replayed first, otherwise a new one, which waits
while 64 are unacknowledged (R349, R352). -/
def flitSentEff (s : State) (flue : Bool) (m : Nat) : State :=
  let x := modOf s flue m
  if 16 ≤ m ∨ (x.st ≠ .credit ∧ x.st ≠ .up) then s
  else match x.resend with
    | _ :: rest => setModule s flue m { x with resend := rest }
    | [] =>
      if 64 ≤ x.replay.length then s
      else
        let ctl := (ctlDue flue x).take (2 * (7 - min 7 x.txTail.length))
        let s0 := setModule s flue m (ctl.foldl (fun y c => c.2 y) x)
        let r := txSlots s0 flue m (ctl.map (·.1)) 7
        portsGo (modModule r.2 flue m fun y =>
          { y with
            txSeq := y.txSeq + 1
            replay := y.replay ++ [mkFlit r.1 y.txSeq] })

def execFlitSent (flue : Bool) (module : Nat) (s : State) : Host.Outcome State Fault Refusal :=
  act s fun s => flitSentEff s flue module

end Sys2Proof.Machine
end

