-- ==== Sys2Proof/Machine/FlueCmds.lean ====
section
/-! DEFINITION. Meanings of the flue's control and stream frames, of the stream timers, of replays, and of the bank reads of
streams (R376 to R418, R435). -/

namespace Sys2Proof.Machine

/-! ### Frames -/

/-- A control or stream frame of opcode `opc` on a flue module that carries frames (R376, R381, R395). -/
def frameCmd (s : State) (opc m : Nat) (h : BitVec 256) (data : List Datum) : State :=
  if !(modCarries s true m) || hOpc h != opc then s
  else match takeCred s true m ⟨h, data⟩ with
    | none => creditLost s true m 8 h
    | some t => portsGo (frameIn t m ⟨h, data⟩)

def execHello (module : Nat) (hdr : BitVec 256) (data : List Datum) (s : State) : Host.Outcome State Fault Refusal :=
  act s fun s => frameCmd s 0xA0 module hdr data
def execHelloAck (module : Nat) (hdr : BitVec 256) (data : List Datum) (s : State) : Host.Outcome State Fault Refusal :=
  act s fun s => frameCmd s 0xA1 module hdr data
def execBye (module : Nat) (hdr : BitVec 256) (data : List Datum) (s : State) : Host.Outcome State Fault Refusal :=
  act s fun s => frameCmd s 0xA2 module hdr data
def execPing (module : Nat) (hdr : BitVec 256) (data : List Datum) (s : State) : Host.Outcome State Fault Refusal :=
  act s fun s => frameCmd s 0xA3 module hdr data
def execPong (module : Nat) (hdr : BitVec 256) (data : List Datum) (s : State) : Host.Outcome State Fault Refusal :=
  act s fun s => frameCmd s 0xA4 module hdr data
def execNorm (module : Nat) (hdr : BitVec 256) (data : List Datum) (s : State) : Host.Outcome State Fault Refusal :=
  act s fun s => frameCmd s 0xB0 module hdr data
def execFanOpen (module : Nat) (hdr : BitVec 256) (data : List Datum) (s : State) : Host.Outcome State Fault Refusal :=
  act s fun s => frameCmd s 0xC0 module hdr data
def execFanData (module : Nat) (hdr : BitVec 256) (data : List Datum) (s : State) : Host.Outcome State Fault Refusal :=
  act s fun s => frameCmd s 0xC1 module hdr data
def execFanEnd (module : Nat) (hdr : BitVec 256) (data : List Datum) (s : State) : Host.Outcome State Fault Refusal :=
  act s fun s => frameCmd s 0xC2 module hdr data
def execFanFinal (module : Nat) (hdr : BitVec 256) (data : List Datum) (s : State) : Host.Outcome State Fault Refusal :=
  act s fun s => frameCmd s 0xC3 module hdr data
def execRecant (module : Nat) (hdr : BitVec 256) (data : List Datum) (s : State) : Host.Outcome State Fault Refusal :=
  act s fun s => frameCmd s 0xC4 module hdr data
def execFanState (module : Nat) (hdr : BitVec 256) (data : List Datum) (s : State) : Host.Outcome State Fault Refusal :=
  act s fun s => frameCmd s 0xC5 module hdr data
def execTwinHdr (module : Nat) (hdr : BitVec 256) (data : List Datum) (s : State) : Host.Outcome State Fault Refusal :=
  act s fun s => frameCmd s 0xD0 module hdr data
def execTwinData (module : Nat) (hdr : BitVec 256) (data : List Datum) (s : State) : Host.Outcome State Fault Refusal :=
  act s fun s => frameCmd s 0xD1 module hdr data
def execTwinDigest (module : Nat) (hdr : BitVec 256) (data : List Datum) (s : State) : Host.Outcome State Fault Refusal :=
  act s fun s => frameCmd s 0xD2 module hdr data
def execSmokeData (module : Nat) (hdr : BitVec 256) (data : List Datum) (s : State) : Host.Outcome State Fault Refusal :=
  act s fun s => frameCmd s 0xD8 module hdr data
def execSmokeMark (module : Nat) (hdr : BitVec 256) (data : List Datum) (s : State) : Host.Outcome State Fault Refusal :=
  act s fun s => frameCmd s 0xD9 module hdr data

/-! ### Timers of streams and mirror records (R392, R409) -/

/-- STREAM_END_WAIT: tFEND expires with granules of an ended epoch missing; fan-out receive streams are 0 to 255, smoke
receive streams 256 to 511 (R392, R417). -/
def streamEndWaitEff (s : State) (k : Nat) : State :=
  match rxOf s (256 ≤ k) (k % 256) with
  | some r => if k < 512 ∧ r.st = .receiving ∧ r.want.isSome then rxShort s (256 ≤ k) (k % 256) else s
  | none => s

def execStreamEndWait (stream : Nat) (s : State) : Host.Outcome State Fault Refusal := act s fun s => streamEndWaitEff s stream

/-- TWIN_PAIR_TIMEOUT: tTPR expires in PAIRING (R409). -/
def twinPairTimeoutEff (s : State) (k : Nat) : State := if (twinOf s k).st = .pairing then twinLose s k else s

def execTwinPairTimeout (record : Nat) (s : State) : Host.Outcome State Fault Refusal := act s fun s => twinPairTimeoutEff s record

/-- DIGEST_WAIT_TIMEOUT: tTDG expires at the owner after a commit whose partner digest has not come (R409). -/
def digestWaitEff (s : State) (k : Nat) : State :=
  let t := twinOf s k
  if !t.replay ∧ t.st = .inStep ∧ !t.own.isEmpty then twinLose s k else s

def execDigestWaitTimeout (record : Nat) (s : State) : Host.Outcome State Fault Refusal := act s fun s => digestWaitEff s record

/-- An epoch of a replay record whose owner has sent its digest and of which granules are missing. -/
def shortEpoch (s : State) (k : Nat) (t : Twin) : Option Nat :=
  (t.counted.find? fun q => twinOpen s k t q.1 && (t.recv.filter fun r => r.1 == q.1).length < q.2).map (·.1)

/-- TWIN_DATA_END_WAIT: tTWE expires after the owner's TWIN_DIGEST or after RESYNC_END with granules missing (R409). -/
def twinDataEndEff (s : State) (k : Nat) : State :=
  let t := twinOf s k
  match t.st with
  | .inStep => match shortEpoch s k t with
    | some e => if t.replay then twinDiverge (replayAbort s k stAborted) k e else s
    | none => s
  | .resync => if !t.source ∧ t.want.isSome then twinLose s k else s
  | _ => s

def execTwinDataEndWait (record : Nat) (s : State) : Host.Outcome State Fault Refusal := act s fun s => twinDataEndEff s record

/-! ### Replay (R404 to R406, R435) -/

/-- The firing of a replay of epoch `e` (R404): its broadcast source is the record's rule data source. -/
def replayFire (t : Twin) (p : Prog) (e : Nat) : FireF :=
  { prog := t.prog
    update := true
    c0 := t.c0
    c1 := t.c1
    r0 := t.r0
    r1 := t.r1
    epoch := e
    nPer := t.nPer
    origin := t.origin
    bsrc := t.ruleSrc
    bsize := p.bseg
    opTwin := 1
    ops := t.ops }

/-- REPLAY_LAUNCH: the oldest header's replay is admitted, its spool having two free record slots beyond its picks in flight
(R404, R435). -/
def replayLaunchEff (s : State) (k : Nat) : State :=
  let t := twinOf s k
  let sp := splOf s t.spool
  match t.hdrs with
  | [] => s
  | (e, seg) :: rest =>
    if !t.replay ∨ t.st ≠ .inStep ∨ sp.st = .disabled ∨ freeSlots sp < unwritten s t.spool + sp.waitRec.length + 2 then s
    else
      let p := (findProg s t.prog).getD {}
      let f := replayFire t p e
      let s1 := setTwin s k { t with hdrs := rest }
      if launchChecks s t.owner f false ≠ 0 then twinDiverge s1 k e
      else
        preemptCheck (admitFiring s1
          { f := f
            replay := some k
            part := t.owner
            cls := sp.cls
            spool := t.spool
            seq := e
            st := .queued
            code := p
            seg := seg }).2

def execReplayLaunch (record : Nat) (s : State) : Host.Outcome State Fault Refusal := act s fun s => replayLaunchEff s record

/-- Length of the prefix received without a gap: `w` bytes and on. -/
def prefixFrom (offs : List Nat) : Nat → Nat → Nat
  | 0, w => w
  | n + 1, w => if offs.contains w then prefixFrom offs n (w + 32) else w

/-- The watermark of a rank of the replay's gradient operand (R405). -/
def watermark (t : Twin) (e rank : Nat) : Nat :=
  let offs := (t.recv.filter fun q => q.1 == e && q.2.1 == rank).map (·.2.2)
  prefixFrom offs offs.length 0

/-- A replay's hob may proceed from its checkpoint (R406). -/
def gateOpen (t : Twin) (x : Firing) (n passed : Nat) : Bool :=
  min (tapSlice x.f 1) ((passed + 1) * t.gate) ≤ watermark t x.f.epoch (rankOf x.f n)
  || t.counted.any fun q => q.1 == x.f.epoch && q.2 ≤ (t.recv.filter fun r => r.1 == q.1).length

/-- REPLAY_GATE_PASS (R406). -/
def gatePassEff (s : State) (n : Nat) : State :=
  match curFiring s with
  | none => s
  | some (_, x) => match x.replay with
    | none => s
    | some k =>
      let h := hobOf s n
      if x.st = .running ∧ inRect x.f n ∧ h.st = .gated ∧ gateOpen (twinOf s k) x n h.passed then
        setHob s n { h with st := .run }
      else s

def execReplayGatePass (hob : Nat) (s : State) : Host.Outcome State Fault Refusal := act s fun s => gatePassEff s hob

/-! ### Bank reads of streams (R391, R412, R416) -/

/-- Read a granule of a bank by an engine for partition `p`: an uncorrectable one is reported, and reads as the poison mark
(R308, R564). -/
def bankRead (s : State) (p die pos loc : Nat) : Datum × State :=
  let x := granAt s loc (locAddr s die pos loc)
  let s1 := if x.1 = .uncorrectable then
      report s chWarp { evt s 0x0102 .data 308 with
        part := some p, die := die, pos := pos, pair := physPair s die pos, addr := locAddr s die pos loc,
        detA := Config.openCode 2 4, detB := loc }
    else s
  readGran s1 die pos loc

/-- FAN_END of an epoch that a non-speculative stream has read: DONE, with the final bit (R391). -/
def fanReadEnd (s : State) (k : Nat) : State :=
  let f := fanOf s k
  let s1 := fanAll s f 0xC2 [(168, 4, 0), (172, 1, 1), (176, 32, f.sent)]
  releaseTry (setFan s1 k { f with ph := .idle, lastSent := f.epoch, lastFinal := f.epoch }) f.ctx

/-- Read and send the granules that the firing wrote, each once, as far as the dampers and egress let it. -/
def fanReadGo (s : State) (k : Nat) : Nat → State
  | 0 => s
  | fuel + 1 =>
    let f := fanOf s k
    match f.wrote with
    | [] => fanReadEnd s k
    | (n, off) :: rest => match damperTake s f.owner .hearth f.cls 32 with
      | none => s
      | some s1 =>
        let r := bankRead s1 f.owner (n / 32) (n % 32) (opBase s1 f.fire f.fire.opFan + off)
        match fanData r.2 k (rankOf f.fire n) off r.1 with
        | none => s
        | some u => fanReadGo (setFan u k { fanOf u k with wrote := rest.filter fun q => q != (n, off) }) k fuel

/-- NONSPEC_FANOUT_READ_DONE: the stream whose digest has matched reads its granules and sends its epoch; its last read lets
the next update go on (R391). -/
def fanReadEff (s : State) (k : Nat) : State :=
  let f := fanOf s k
  if f.ph = .reading then fanReadGo s k (f.wrote.length + 1) else s

def execNonspecFanoutReadDone (stream : Nat) (s : State) : Host.Outcome State Fault Refusal := act s fun s => fanReadEff s stream

/-- Granules of an operand's slice that a stream sends. -/
def sliceGrans (f : FireF) (k : Nat) : Nat := (tapSlice f k + 31) / 32

/-- The place of granule `i` of the firings' master operands: the firing, the hob, the offset in its slice. -/
def snapAt : List FireF → Nat → Option (FireF × Nat × Nat)
  | [], _ => none
  | f :: fs, i =>
    let g := sliceGrans f f.opSmoke
    let n := (rectHobs f).length * g
    if i < n then some (f, hobAtRank f (i / g), i % g * 32) else snapAt fs (i - n)

/-- A snapshot granule to every sink whose session is OPEN, or none where one of them cannot take it yet. -/
def snapSend (s : State) (x : Smoke) (cls addr : Nat) (g : Datum) : Option State :=
  x.sinks.foldl (fun (t : Option State) d => match t with
    | none => none
    | some u => if (openPeer u d.peer).isSome then smkSend u x d x.snapEpoch cls addr g else some u) (some s)

/-- The last read of a snapshot is made: SNAP_END, the pick completes, and the next update may be released (R416). -/
def snapEnd (s : State) (k : Nat) : State :=
  let x := smkOf s k
  let s1 := smkMark s k 4 false x.snapPos
  let s2 := setSmk s1 k { x with snap := 0, snapPick := none, snapFires := [], snapPos := 0 }
  let s3 := match x.snapPick with
    | some n => pickDone s2 n stDone 0 []
    | none => s2
  releaseTry s3 x.ctx

/-- Send the image from where it stands, at the pace that egress takes it. -/
def snapGo (s : State) (k : Nat) : Nat → State
  | 0 => s
  | fuel + 1 =>
    let x := smkOf s k
    match snapAt x.snapFires x.snapPos with
    | none => snapEnd s k
    | some (f, n, off) =>
      let cls := match x.snapPick.bind (pickOf s) with
        | some p => p.cls
        | none => 3
      let r := bankRead s x.owner (n / 32) (n % 32) (opBase s f f.opSmoke + off)
      match snapSend r.2 x cls (rankOf f n * tapSlice f f.opSmoke + off) r.1 with
      | none => s
      | some u => snapGo (setSmk u k { smkOf u k with snapPos := x.snapPos + 1 }) k fuel

/-- Granules of the whole image. -/
def snapSize (fs : List FireF) : Nat :=
  (fs.map fun f => (rectHobs f).length * sliceGrans f f.opSmoke).foldl (· + ·) 0

/-- SNAPSHOT_READ_DONE: the smoke engine reads the master operand of the snapshot's epoch and sends the image (R416). -/
def snapReadEff (s : State) (k : Nat) : State :=
  let x := smkOf s k
  if x.snap = 2 then snapGo s k (snapSize x.snapFires + 1) else s

def execSnapshotReadDone (stream : Nat) (s : State) : Host.Outcome State Fault Refusal := act s fun s => snapReadEff s stream

/-- The short-weight operand of a record's program: the one its fan-out tap may copy (R161, R412). -/
def shortOpd (s : State) (t : Twin) : Option Nat :=
  match findProg s t.prog with
  | some p => if bitAt p.taps 10 then some (bitsAt p.taps 3 3) else none
  | none => none

/-- The operands that a resync streams (R412). -/
def resyncOpds (s : State) (t : Twin) : List Nat :=
  (List.range 8).filter fun i => bitAt t.mask i && (t.ops.getD i {}).used && shortOpd s t != some i

/-- Granules of operand `i` in one hob's slice. -/
def opdGrans (t : Twin) (i : Nat) : Nat := (storageBytes (t.ops.getD i {}).type t.nPer + 31) / 32

/-- Granule `i` of a resync over operands `os`: operand and ADDR. -/
def resyncAt (t : Twin) : List Nat → Nat → Option (Nat × Nat)
  | [], _ => none
  | o :: os, i =>
    let g := opdGrans t o
    let n := (t.c1 + 1 - t.c0) * (t.r1 + 1 - t.r0) * g
    if i < n then some (o, i / g * storageBytes (t.ops.getD o {}).type t.nPer + i % g * 32) else resyncAt t os (i - n)

/-- The epoch after the source's last updated epoch (R412). -/
def resyncNext (s : State) (t : Twin) : Nat :=
  if t.replay then t.next
  else
    let c := ctxOf s t.ctx
    match c.eps.find? fun x => x.st == .updating with
    | some x => x.e
    | none => c.dec

/-- The source has sent its last granule: RESYNC_END, and it is in step again (R409, R412). -/
def resyncEnd (s : State) (k : Nat) : State :=
  let t := twinOf s k
  let e := resyncNext s t
  let s1 := twinPickDone (twinSend s k 0xD0 [(128, 32, e), (168, 3, 6), (176, 32, t.written)] [] 0) k stDone
  let s2 := setTwin s1 k { twinOf s1 k with st := .inStep, source := false, written := 0, next := e, since := false }
  if t.replay then s2 else releaseTry s2 t.ctx

/-- Send the source's granules from where it stands, at the pace that egress takes them. -/
def resyncGo (s : State) (k cls : Nat) : Nat → State
  | 0 => s
  | fuel + 1 =>
    let t := twinOf s k
    match resyncAt t (resyncOpds s t) t.written with
    | none => resyncEnd s k
    | some (o, a) =>
      match twinPlace s t o 0 a with
      | none => resyncGo (setTwin s k { t with written := t.written + 1 }) k cls fuel
      | some pl =>
        let r := bankRead s t.owner pl.die pl.pos pl.loc
        match sendData r.2 t.peer 0xD1 4 cls t.owner a [(128, 32, 0xFFFFFFFF), (160, 8, t.partnerRec), (168, 3, o)] r.1 with
        | none => s
        | some u => resyncGo (setTwin u k { twinOf u k with written := t.written + 1 }) k cls fuel

/-- Granules of a whole resync. -/
def resyncSize (s : State) (t : Twin) : Nat :=
  ((resyncOpds s t).map fun o => (t.c1 + 1 - t.c0) * (t.r1 + 1 - t.r0) * opdGrans t o).foldl (· + ·) 0

/-- RESYNC_READ_DONE: the source of a resync reads its digested operands, without the short weights, and sends them, in the
class of the replay spool, or of its pick where it is the owner (R412; the latter: DESIGN CHOICE, log entry 98). -/
def resyncReadEff (s : State) (k : Nat) : State :=
  let t := twinOf s k
  let cls := if t.replay then (splOf s t.spool).cls else match t.pick.bind (pickOf s) with
    | some p => p.cls
    | none => 3
  if t.st = .resync ∧ t.source then resyncGo s k cls (resyncSize s t + 1) else s

def execResyncReadDone (record : Nat) (s : State) : Host.Outcome State Fault Refusal := act s fun s => resyncReadEff s record

end Sys2Proof.Machine
end

