-- ==== Sys2Proof/Machine/HobMem.lean ====
section
/-! DEFINITION. Hob instructions of the column path, the hob store and the cross-reducer, and the landing of loads
(R68, R72, R103, R104, R119, R161, R407). -/

namespace Sys2Proof.Machine

/-- The mirror record whose digest the firing's stores enter (R397, R407): the replay's own record, or the owner record
of its step context. -/
def digestRec (s : State) (x : Firing) : Option (Nat × Twin) :=
  match x.replay with
  | some r => (smFind s.str.twins r).map fun t => (r, t)
  | none => if x.f.update then s.str.twins.find? fun kv => !kv.2.replay && kv.2.ctx == x.f.ctx && kv.2.st != .unpaired
      else none

/-- Fold a stored granule into the hob's digest (R407). -/
def foldDigest (s : State) (x : Firing) (h : Hob) (opd off : Nat) (d : Datum) : Hob :=
  match digestRec s x with
  | none => h
  | some (_, t) =>
    if bitAt t.mask opd then
      let g : Nat := if d.poison then 0 else d.bits.toNat
      let pos := off / 32 % 2 ^ 32 + h.lp.rank % 2 ^ 16 * 2 ^ 32 + opd % 8 * 2 ^ 48 + b2n d.poison * 2 ^ 51
        + x.f.epoch % 2 ^ 32 * 2 ^ 64
      { h with
        digest := h.digest + heddle (BitVec.ofNat 128 g) (BitVec.ofNat 128 (g / 2 ^ 128) ^^^ BitVec.ofNat 128 pos)
        stored := h.stored + 1 }
    else h

/-- The firing's twin or fan-out stream back-pressures it (R30): the twin log is at its limit (R403), or the fan-out
epoch before this one is not settled (R389). Smoke never does (R415). -/
def tapStall (s : State) (x : Firing) (kind : Nat) : Bool :=
  if kind = 1 then regF s 0x83020 0 8 * 0x100000 ≤ s.str.twinBytes
  else s.sched.tapped.any (fun g => g.1 == 0)
    || s.str.fans.any fun kv => kv.2.ctx == x.f.ctx && kv.2.ph != .idle && kv.2.epoch != x.f.epoch

/-- LD (R103): the granule is asked of the pair; it lands in program order. -/
def ldBody (c : HC) : State :=
  let a := bankAddr c
  let o := bOpd c.w
  let tap := if c.x.f.tapTwin && o == c.x.f.opTwin then some (a - c.h.lp.ob.getD o 0) else none
  if !bankOk c then hobFinish c.s c.n hobBounds
  else if 16 ≤ hobFlight c.s c.n || (tap.isSome && tapStall c.s c.x 1) then c.s
  else
    let s1 := c.put (incSX c.h (bInc c.w) (bSX c.w))
    enqueueCol s1 (c.n / 32) (c.n % 32)
      { cls := c.x.cls, src := .firing, off := a, n := 1, addr := a, part := some c.x.part,
        op := .hobLd c.n (iVD c.w) tap }

def execLd (hob : Nat) (s : State) : Host.Outcome State Fault Refusal := act s fun s => hobIssue s hob 0x10 ldBody

/-- ST (R103): the register, or the poison mark for a poisoned one, which sets PZ (R72, R108, R147), goes to the pair; the taps
copy it (R161) and the digest folds it (R407). -/
def stBody (c : HC) : State :=
  let a := bankAddr c
  let o := bOpd c.w
  let off := a - c.h.lp.ob.getD o 0
  let fan := c.x.f.tapFan && o == c.x.f.opFan
  let smoke := c.x.f.tapSmoke && o == c.x.f.opSmoke
  let d := vReg c.h (iVD c.w)
  if !bankOk c then hobFinish c.s c.n hobBounds
  else if 16 ≤ hobFlight c.s c.n || (fan && tapStall c.s c.x 0) then c.s
  else
    let h := if d.poison then raise c.h flPZ else c.h
    let s1 := c.put (incSX (foldDigest c.s c.x h o off d) (bInc c.w) (bSX c.w))
    enqueueCol s1 (c.n / 32) (c.n % 32)
      { cls := c.x.cls, src := .firing, off := a, n := 1, addr := a, part := some c.x.part,
        op := .hobSt c.n ((if fan then [(0, off)] else []) ++ (if smoke then [(2, off)] else [])) d }

def execSt (hob : Nat) (s : State) : Host.Outcome State Fault Refusal := act s fun s => hobIssue s hob 0x11 stBody

/-- LDHB: 32 bytes of the broadcast segment (R104). -/
def ldhbBody (c : HC) : State :=
  let o := storeAddr c
  if o % 32 = 0 ∧ o < c.h.lp.bseg then
    c.put (incSX (setVReg (storeCe c.h (o / 32)) (iVD c.w) (storeRd c.h (o / 32))) (cInc c.w) (cSX c.w))
  else hobFinish c.s c.n hobBounds

def execLdhb (hob : Nat) (s : State) : Host.Outcome State Fault Refusal := act s fun s => hobIssue s hob 0x12 ldhbBody

/-- The scratch address of format C is allowed (R104). -/
def scratchOk (c : HC) : Bool := storeAddr c % 32 == 0 && storeAddr c < 4096 && areaOk c.h (cArea c.w)

/-- LDHS: 32 bytes of a scratch area (R104). -/
def ldhsBody (c : HC) : State :=
  if scratchOk c then
    let i := scratchWord c.h (cArea c.w) (storeAddr c)
    c.put (incSX (setVReg (storeCe c.h i) (iVD c.w) (storeRd c.h i)) (cInc c.w) (cSX c.w))
  else hobFinish c.s c.n hobBounds

def execLdhs (hob : Nat) (s : State) : Host.Outcome State Fault Refusal := act s fun s => hobIssue s hob 0x13 ldhsBody

/-- STHS: the register, with its poison bit, into a scratch area (R104, R72). -/
def sthsBody (c : HC) : State :=
  if scratchOk c then
    c.put (incSX (storeWr c.h (scratchWord c.h (cArea c.w) (storeAddr c)) (vReg c.h (iVD c.w))) (cInc c.w) (cSX c.w))
  else hobFinish c.s c.n hobBounds

def execSths (hob : Nat) (s : State) : Host.Outcome State Fault Refusal := act s fun s => hobIssue s hob 0x14 sthsBody

/-- AINIT: all 4 KiB of a scratch area become zero (R100). It has no address to step, so its INC field does nothing (R104;
DESIGN CHOICE, log entry 20). -/
def ainitBody (c : HC) : State :=
  if areaOk c.h (cArea c.w) then
    c.put ((List.range 128).foldl (fun h i => storeWr h (scratchWord c.h (cArea c.w) 0 + i) ⟨0, false⟩) c.h)
  else hobFinish c.s c.n hobBounds

def execAinit (hob : Nat) (s : State) : Host.Outcome State Fault Refusal := act s fun s => hobIssue s hob 0x15 ainitBody

/-- A firing that takes a reducer context while it stops for another cause than ember preemption: the stop is held from now on,
and its hobs run on (R137, R138; DESIGN CHOICE, log entry 19). -/
def holdStop (s : State) (k : Nat) (x : Firing) : State :=
  if x.red ∨ x.st ≠ .stopping ∨ x.causes.contains .ember then s
  else
    setFirSt ((rectHobs x.f).foldl (fun t n =>
      let h := hobOf t n
      if h.st = .stopped then setHob t n { h with st := .run } else t) s) k .running

/-- RPUSH: eight partials for output elements S[SA] to S[SA] + 7 (R119). The firing takes a reducer context at its first
push and waits while none is free (R138). -/
def rpushBody (c : HC) : State :=
  let e := (sReg c.h (iSA c.w)).toNat
  if e % 8 = 0 ∧ e < c.x.f.outLen / 4 then
    if !c.x.red && redFree c.s == 0 then c.s
    else
      holdStop (setFiring (c.put c.h) c.k
        { c.x with red := true, partials := c.x.partials ++ [(c.h.lp.rank, e / 8, vReg c.h (iVA c.w))] }) c.k c.x
  else hobFinish c.s c.n hobBounds

def execRpush (hob : Nat) (s : State) : Host.Outcome State Fault Refusal := act s fun s => hobIssue s hob 0x16 rpushBody

/-- The first landing entry of a hob, and the others. -/
def takeLanding (n : Nat) : List (Nat × Nat × Datum) → Option ((Nat × Datum) × List (Nat × Nat × Datum))
  | [] => none
  | l :: ls =>
    if l.1 = n then some (l.2, ls)
    else match takeLanding n ls with
      | some r => some (r.1, l :: r.2)
      | none => none

/-- HOB_LOAD_LANDS: the oldest granted load of the hob, if it is for the register named, lands with its poison bit
(R68, R109). -/
def hobLoadLandsEff (s : State) (n v : Nat) : State :=
  match takeLanding n s.sched.landing with
  | none => s
  | some ((r, d), rest) =>
    if r = v then setHob (modSched s fun c => { c with landing := rest }) n (setVReg (hobOf s n) v d) else s

def execHobLoadLands (hob vreg : Nat) (s : State) : Host.Outcome State Fault Refusal :=
  act s fun s => hobLoadLandsEff s hob vreg

end Sys2Proof.Machine
end

