-- ==== Sys2Proof/Machine/LibRun.lean ====
section
/-! DEFINITION. The hobs of a library firing: what a program of the library does between two of its checkpoints
(R149 to R173, R214 to R225, R253 to R257, R633). -/

namespace Sys2Proof.Machine

/-! ### Accesses -/

/-- Bank address of byte `off` of operand `o`. -/
def libAddr (h : Hob) (o off : Nat) : Nat := h.lp.ob.getD o 0 + off

/-- The granule at `off` of operand `o` lies in the operand's slice (R103, R150). -/
def libIn (h : Hob) (o off : Nat) : Bool := libAddr h o off < h.lp.obEnd.getD o 0

/-- Read a granule of an operand, as an LD does: an uncorrectable one is reported, and the twin tap copies it (R161, R308). -/
def libRead (c : HC) (s : State) (o off : Nat) : Datum × State :=
  let a := libAddr c.h o off
  let tap := c.x.f.tapTwin && o == c.x.f.opTwin
  let r : ColReq := { cls := c.x.cls, src := .firing, off := a, n := 1, addr := a, part := some c.x.part, op := .hobLd c.n 0 none }
  let d := readGran (ueReports s (c.n / 32) (c.n % 32) r) (c.n / 32) (c.n % 32) a
  (d.1, if tap then modSched d.2 fun q => { q with tapped := q.tapped ++ [(1, c.n, off, d.1)] } else d.2)

/-- Read granules of operands, in order. -/
def libReads (c : HC) (s : State) (l : List (Nat × Nat)) : List ((Nat × Nat) × Datum) × State :=
  l.foldl (fun (a : List ((Nat × Nat) × Datum) × State) e =>
    let x := libRead c a.2 e.1 e.2
    (a.1 ++ [(e, x.1)], x.2)) ([], s)

/-- What a granule of an operand holds, without an access: what the program has read before. -/
def libPeek (c : HC) (s : State) (o : Nat) : Grans := fun off =>
  (readGran s (c.n / 32) (c.n % 32) (libAddr c.h o off)).1

/-- The granules read of operand `o`. -/
def libGot (l : List ((Nat × Nat) × Datum)) (o : Nat) : Grans := fun off =>
  match l.find? fun e => e.1 == (o, off) with
  | some e => e.2
  | none => ⟨0, true⟩

/-- Write a granule of an operand, as an ST does: the digest folds it and the taps copy it (R161, R407). -/
def libWrite (c : HC) (s : State) (o off : Nat) (d : Datum) : State :=
  let fan := c.x.f.tapFan && o == c.x.f.opFan
  let smoke := c.x.f.tapSmoke && o == c.x.f.opSmoke
  let taps := (if fan then [(0, off)] else []) ++ (if smoke then [(2, off)] else [])
  let s1 := setHob s c.n (foldDigest s c.x (if d.poison then raise (hobOf s c.n) flPZ else hobOf s c.n) o off d)
  let s2 := writeGran s1 (c.n / 32) (c.n % 32) (libAddr c.h o off) d
  if taps.isEmpty then s2 else modSched s2 fun q => { q with tapped := q.tapped ++ taps.map fun t => (t.1, c.n, t.2, d) }

/-- Write granules in order, up to the first that lies outside its slice, which ends the hob (R103, R150). Whether all were
written, and the state. -/
def libWrites (c : HC) : State → List (Nat × Nat × Datum) → Bool × State
  | s, [] => (true, s)
  | s, (o, off, d) :: l =>
    if libIn c.h o off then libWrites c (libWrite c s o off d) l else (false, hobFinish s c.n hobBounds)

/-- The granules of a span of `n` granules of operand `o`. -/
def libSpan (o base n : Nat) : List (Nat × Nat) := (List.range n).map fun i => (o, base + 32 * i)

/-- The column accesses of a span of work (R277). -/
def libUse (c : HC) (rd wr : List (Nat × Nat)) : EngUse :=
  { cls := c.x.cls
    places := (rd ++ wr).map fun e => ⟨c.n / 32, c.n % 32, libAddr c.h e.1 e.2⟩
    rd := rd.length
    wr := wr.length }

/-! ### The broadcast segment -/

/-- Granules of the segment. -/
def libSeg (h : Hob) : Grans := fun o => storeRd h (o / 32)

/-- Header, parameter block and derived constants. -/
def HC.p (c : HC) : LibP := libP (libSeg c.h)

/-- A word of bytes 0x000 to 0x2FF is poisoned (R159). -/
def libSegBad (h : Hob) : Bool := (List.range 24).any fun i => (storeRd h i).poison

/-- The column rule of the factored program holds (R170). -/
def libCols (c : HC) : Bool :=
  let cols := c.p.cols
  cols % 1024 == 0 && 1024 ≤ cols && cols ≤ 7168 && c.h.lp.nPer % cols == 0
  && (libRule c.x.f.prog != 7 || c.h.lp.bseg == (4096 + 4 * cols + 4095) / 4096 * 4096)

/-! ### Units of the update rules (R164 to R170) -/

/-- Units of a hob's slice: spans between checkpoints (R164). -/
def libUnits (c : HC) : Nat := c.h.lp.nPer / 1024

/-- Reads of the unit `u`, operand by operand. -/
def libUnitReads (c : HC) (u : Nat) : List (Nat × Nat) :=
  let id := c.x.f.prog
  let cols := c.p.cols
  let f32s (o : Nat) := libSpan o (4096 * u) 128
  let grads := libSpan 1 (2080 * u) 65
  let prev := if libTrans id && 1 ≤ libShort id && u % 2 == 1 then libSpan 0 (4096 * (u - 1)) 128 else []
  let row := (2, 4 * (1024 * u / cols) / 32 * 32)
  match libRule id with
  | 4 => f32s 0 ++ grads ++ (libMoments id).flatMap fun o =>
      libSpan o (2080 * (u / 2) + 1024 * (u % 2)) 32 ++ [(o, 2080 * (u / 2) + 2048)]
  | 6 => grads ++ if (u + 1) * 1024 % cols = 0 then [row] else []
  | 7 => f32s 0 ++ grads ++ [row] ++ (if u = 0 then libSpan 3 0 (cols / 8) else libSpan 3 (4 * (1024 * u % cols)) 128)
  | _ => f32s 0 ++ grads ++ (libMoments id).flatMap f32s ++ prev

/-- Granules of FP32 values. -/
def f32Grans (o base : Nat) (xs : List LV) : List (Nat × Nat × Datum) :=
  (List.range (xs.length / 8)).map fun i => (o, base + 32 * i, lvGran ((xs.drop (8 * i)).take 8))

/-- Element `j` of an FP32 operand. -/
def f32El (g : Grans) (j : Nat) : LV := (opElem 0 g j, 0)

/-- What the unit's program makes: its stores in order, its flags, and whether a poisoned value reaches a scalar, which ends the hob
(R109, R173). -/
structure LibOut where
  stores : List (Nat × Nat × Datum)
  flags : Nat
  scalar : Bool
deriving DecidableEq, Repr

/-- Short weights of a unit. -/
def libShorts (c : HC) (u : Nat) (ws prev : List LV) : List (Nat × Nat × Datum) × Nat :=
  match libShortOpd c.x.f.prog with
  | none => ([], 0)
  | some o =>
    let r := shortStores (libShort c.x.f.prog) (libTrans c.x.f.prog) u ws prev
    (r.1.map fun e => (o, e.1, e.2), r.2)

/-- The stores and flags of a unit's new masters, moments and short weights. -/
def libUpdated (c : HC) (u : Nat) (xs : List Updated) (prev : List LV) : LibOut :=
  let ws := xs.map (·.w)
  let sh := libShorts c u ws prev
  let ms := match libMoments c.x.f.prog with
    | [m] => f32Grans m (4096 * u) (xs.map (·.a))
    | [m, v] => f32Grans m (4096 * u) (xs.map (·.a)) ++ f32Grans v (4096 * u) (xs.map (·.b))
    | _ => []
  { stores := f32Grans 0 (4096 * u) ws ++ ms ++ sh.1
    flags := xs.foldl (fun a x => a ||| x.w.2 ||| x.a.2 ||| x.b.2) sh.2
    scalar := false }

/-- A unit of SGD, AdamW or Lion (R166, R167, R169). -/
def libPlain (c : HC) (got : Nat → Grans) (u : Nat) : LibOut :=
  let p := c.p
  let id := c.x.f.prog
  let ms := libMoments id
  let one (j : Nat) : Updated :=
    let g := gradOf p (got 1) j
    let w := f32El (got 0) j
    let a := f32El (got (ms.getD 0 0)) j
    match libRule id with
    | 2 => sgdElem p (bitAt (libOpt id) 0) g w a
    | 3 => adamwElem p g w a (f32El (got (ms.getD 1 0)) j)
    | _ => lionElem p g w a
  libUpdated c u ((List.range 1024).map fun k => one (1024 * u + k)) ((List.range 1024).map fun k => f32El (got 0) (1024 * (u - 1) + k))

/-- A granule of sixteen scale fields with those from field `k` on replaced. -/
def a8Scales (d : Datum) (k : Nat) (fs : List Nat) : Datum :=
  ⟨packEls 1 ((List.range 16).map fun i => if k ≤ i ∧ i < k + fs.length then fs.getD (i - k) 0 else bitsAt d.bits.toNat (16 * i) 16),
    false⟩

/-- A unit of Adam-8: eight groups, each with its scales first (R168, R173). -/
def libAdam8 (c : HC) (got : Nat → Grans) (u : Nat) : LibOut :=
  let p := c.p
  let half := 8 * (u % 2)
  let base := 2080 * (u / 2)
  let σ (o k : Nat) : Option Nat := opBits (got o) (8 * scaleByte 2 (1024 * u + 128 * k)) 16
  let gs (k : Nat) : List LV := (List.range 128).map fun i => gradOf p (got 1) (1024 * u + 128 * k + i)
  let bad := (List.range 8).any fun k => (gs k).any (fun g => g.1.isNone) || (σ 2 k).isNone || (σ 3 k).isNone
  if bad then { stores := [], flags := 0, scalar := true }
  else
    let groups := (List.range 8).map fun k =>
      (k, gs k, a8Group p ((gs k).map fun g => g.1.getD 0) ((σ 2 k).getD 0) ((σ 3 k).getD 0))
    let code (o j : Nat) : LV := ((opElem 2 (got o) j).map fun q => (elEnc 0 .rne true (elVal 5 q)).1, 0)
    let xs := groups.flatMap fun e => ((List.range 128).zip e.2.1).map fun ig =>
      let j := 1024 * u + 128 * e.1 + ig.1
      adam8Elem p e.2.2 ig.2 (f32El (got 0) j) (code 2 j) (code 3 j)
    let ws := xs.map (·.w)
    let codes (ys : List LV) : List LV := ys.map (lvNarrow 5)
    let grans (o : Nat) (ys : List LV) : List (Nat × Nat × Datum) :=
      (List.range 32).map fun i => (o, base + 1024 * (u % 2) + 32 * i,
        (packGrans 1 ((List.range 32).map fun k => (8 * k, 8, ys.getD (32 * i + k) (lv 0)))).getD 0 ⟨0, true⟩)
    let scale (o : Nat) (fs : List Nat) : Nat × Nat × Datum := (o, base + 2048, a8Scales (got o (base + 2048)) half fs)
    let ma := codes (xs.map (·.a))
    let vb := codes (xs.map (·.b))
    let sh := libShorts c u ws []
    { stores := f32Grans 0 (4096 * u) ws ++ grans 2 ma ++ [scale 2 (groups.map fun e => e.2.2.nm)]
        ++ grans 3 vb ++ [scale 3 (groups.map fun e => e.2.2.nv)] ++ sh.1
      flags := xs.foldl (fun a x => a ||| x.w.2) (sh.2 ||| lvFlags ma ||| lvFlags vb
        ||| groups.foldl (fun a e => a ||| e.2.2.fl ||| lvFlags e.2.1) 0)
      scalar := false }

/-- Squares of gradients added to eight lanes, and their tree sum (R170). -/
def rowSum (gs : List LV) : LV :=
  lvSum (((List.range gs.length).zip gs).foldl (fun (l : List LV) e =>
    listSet l (e.1 % 8) (lvFma e.2 e.2 (l.getD (e.1 % 8) (lv 0)))) (List.replicate 8 (lv 0)))

/-- A unit of the factored statistics phase: at the end of a row, its statistic (R170, R173). -/
def libStats (c : HC) (s : State) (got : Nat → Grans) (u : Nat) : LibOut :=
  let p := c.p
  let gs := (List.range 1024).map fun k => gradOf p (got 1) (1024 * u + k)
  if (u + 1) * 1024 % p.cols ≠ 0 then { stores := [], flags := lvFlags gs, scalar := false }
  else
    let i := 1024 * u / p.cols
    let row := rowSum ((List.range p.cols).map fun j => gradOf p (libPeek c s 1) (i * p.cols + j))
    let b := 4 * i / 32 * 32
    let old := (List.range 8).map fun k => f32El (got 2) (b / 4 + k)
    let r := axpby p.beta2 (f32El (got 2) i) (p.kk 8) row
    { stores := [(2, b, lvGran (listSet old (i % 8) r))], flags := lvFlags gs ||| r.2, scalar := row.1.isNone }

/-- The column sums of a hob in the statistics phase (R170). -/
def colSums (c : HC) (s : State) : List LV :=
  let p := c.p
  let g := libPeek c s 1
  (List.range p.cols).map fun j => (List.range (c.h.lp.nPer / p.cols)).foldl (fun a i =>
    let x := gradOf p g (i * p.cols + j)
    lvFma x x a) (lv 0)

/-- A unit of the factored apply phase; the first renews the column statistics from the reduction at offset 0x400 (R170). -/
def libApply (c : HC) (s : State) (got : Nat → Grans) (u : Nat) : LibOut :=
  let p := c.p
  let i := 1024 * u / p.cols
  let cst := (List.range p.cols).map fun j =>
    if u = 0 then axpby p.beta2 (f32El (got 3) j) (p.kk 9) (f32El (libSeg c.h) (256 + j)) else f32El (libPeek c s 3) j
  let sum := lvSum cst
  let r := f32El (got 2) i
  let a := lvDiv r (sum.1, 0)
  let xs := (List.range 1024).map fun k =>
    let j := 1024 * u + k
    Updated.mk (factoredElem p (gradOf p (got 1) j) (f32El (got 0) j) (cst.getD (j % p.cols) (lv 0)) a) (lv 0) (lv 0)
  let o := libUpdated c u xs []
  let st := if u = 0 then f32Grans 3 0 cst else []
  { stores := st ++ o.stores, flags := o.flags ||| a.2 ||| (if u = 0 then lvFlags cst else 0), scalar := sum.1.isNone || r.1.isNone }

/-- What the program makes of unit `u` from the granules it has read. -/
def libMake (c : HC) (s : State) (got : Nat → Grans) (u : Nat) : LibOut :=
  match libRule c.x.f.prog with
  | 4 => libAdam8 c got u
  | 6 => libStats c s got u
  | 7 => libApply c s got u
  | _ => libPlain c got u

/-- The hob waits: a stream back-pressures it (R30), or the columns are not its to take (R278, R286). -/
def libWaits (c : HC) (s : State) (rd wr : List (Nat × Nat)) : Bool :=
  (rd.any (fun e => c.x.f.tapTwin && e.1 == c.x.f.opTwin) && tapStall s c.x 1)
  || (wr.any (fun e => c.x.f.tapFan && e.1 == c.x.f.opFan) && tapStall s c.x 0)
  || !(engReady s (libUse c rd wr))

/-- Run unit `u`: its reads, then its stores in order; none where the hob waits. Whether the hob goes on (R150, R164; the order of
the accesses within a unit, DESIGN CHOICE, log entry 43). -/
def libUnitRun (c : HC) (u : Nat) : Option (Bool × State) :=
  let rd := libUnitReads c u
  let ok (e : Nat × Nat) : Bool := libIn c.h e.1 e.2
  if !(rd.all ok) then some (false, hobFinish (libReads c (engNow c.s (libUse c (rd.takeWhile ok) [])) (rd.takeWhile ok)).2 c.n hobBounds)
  else
    let seen := libReads c c.s rd
    let m := libMake c c.s (libGot seen.1) u
    let wr := m.stores.map fun e => (e.1, e.2.1)
    if libWaits c c.s rd (if m.scalar then [] else wr) then none
    else
      let s1 := engNow c.s (libUse c rd (if m.scalar then [] else wr))
      let r := libReads c s1 rd
      let o := libMake c r.2 (libGot r.1) u
      let s2 := chargeLane (setHob r.2 c.n (raise (hobOf r.2 c.n) o.flags)) (32 * libLanes c.x.f.prog)
      if o.scalar then some (false, hobFinish s2 c.n hobPoisonScalar) else some (libWrites c s2 o.stores)

/-! ### Fill and copy (R172) -/

/-- Granules of OB0's slice. -/
def libExtent (c : HC) : Nat := (storageBytes (opWord c.x.f 0).type c.h.lp.nPer + 31) / 32

/-- Fill OB0's slice with the pattern at offset 0 of the segment, or copy it to OB1's slice with its poison marks. -/
def libFill (c : HC) : Option (Bool × State) :=
  let copy := libRule c.x.f.prog == 1
  let rd := if copy then libSpan 0 0 (libExtent c) else []
  let wr := libSpan (b2n copy) 0 (libExtent c)
  if !(rd.all fun e => libIn c.h e.1 e.2) then some (false, hobFinish c.s c.n hobBounds)
  else if !(engReady c.s (libUse c rd wr)) then none
  else
    let r := libReads c (engNow c.s (libUse c rd wr)) rd
    some (libWrites c r.2 (wr.map fun e => (e.1, e.2, if copy then libGot r.1 0 e.2 else libSeg c.h 0)))

/-! ### Partials (R119, R138) -/

/-- Push granules of partials from element 0 on: an element beyond the output length ends the hob, after the pushes before it
(R119). The firing takes a reducer context at its first push (R138). -/
def libPush (c : HC) (s : State) (ds : List Datum) : Bool × State :=
  let n := min ds.length ((c.x.f.outLen / 4 + 7) / 8)
  let x := firingOf s c.k
  let s1 := if n = 0 then s
    else holdStop (setFiring s c.k
      { x with red := true, partials := x.partials ++ ((List.range n).zip ds).map fun e => (c.h.lp.rank, e.1, e.2) }) c.k x
  if ds.length ≤ n then (true, s1) else (false, hobFinish s1 c.n hobBounds)

/-- Granules of eight partials each. -/
def partGrans (xs : List LV) : List Datum := (List.range (xs.length / 8)).map fun i => lvGran ((xs.drop (8 * i)).take 8)

/-- A hob that would push waits for a reducer context (R138). -/
def libRedWaits (c : HC) : Bool := !c.x.red && redFree c.s == 0

/-- Read the operands of a matrix product or a selection and go on with `f`; none where the hob waits. -/
def libWith (c : HC) (rd : List (Nat × Nat)) (f : State → (Nat → Grans) → Bool × State) : Option (Bool × State) :=
  if !(rd.all fun e => libIn c.h e.1 e.2) then some (false, hobFinish c.s c.n hobBounds)
  else if libRedWaits c || !(engReady c.s (libUse c rd [])) then none
  else
    let r := libReads c (engNow c.s (libUse c rd [])) rd
    some (f r.2 (libGot r.1))

/-- A hob of a matrix product (R215 to R225); its lane energy is that of its fused multiplications (DESIGN CHOICE, log entry 44). -/
def libGemv (c : HC) : Option (Bool × State) :=
  let id := c.x.f.prog
  let d0 := libPeek c c.s 1 0
  let d := matDesc d0
  let sp := vecSpan d (libRule id == 8) c.h.lp.col c.h.lp.row c.h.lp.rank
  let bad := d0.poison || !(matOk d id c.h.lp.nPer c.h.lp.bseg sp)
  let t := shortType (libShort id)
  libWith c ((1, 0) :: if bad then [] else libSpan 0 0 ((storageBytes t c.h.lp.nPer + 31) / 32)) fun s got =>
    if d0.poison then (false, hobFinish s c.n hobPoisonScalar)
    else if bad then (false, hobFinish s c.n hobBounds)
    else
      let ps := matPartials id d (got 0) (libSeg c.h) sp.1
      let s1 := chargeLane (setHob s c.n (raise (hobOf s c.n) (lvFlags ps))) (d.m * d.k / 8)
      libPush c s1 (partGrans ps)

/-- A hob of a Gumbel-argmax firing (R254 to R257), with the lane energy of log entry 44. -/
def libArgmax (c : HC) : Option (Bool × State) :=
  let d0 := libPeek c c.s 1 0
  let d := argDesc d0
  let bad := d0.poison || !(argOk d c.x.f.origin c.h.lp.nPer)
  let t := if c.x.f.prog = 0xA00 then 3 else 0
  libWith c ((1, 0) :: if bad then [] else libSpan 0 0 ((storageBytes t c.h.lp.nPer + 31) / 32)) fun s got =>
    if d0.poison then (false, hobFinish s c.n hobPoisonScalar)
    else if bad then (false, hobFinish s c.n hobBounds)
    else
      let xs := (List.range c.h.lp.nPer).map fun j => opElem t (got 0) j
      if xs.any (·.isNone) then (false, hobFinish s c.n hobPoisonScalar)
      else
        let ls := xs.map fun x => f32Enc .rne (elVal (if t = 3 then 1 else 0) (x.getD 0))
        libPush c (chargeLane s (c.h.lp.nPer / 8 * 6)) [argRecord (argBest c.x.key d c.x.f.epoch c.h.lp.ix ls)]

/-! ### Checkpoints and ends -/

/-- A hob of a library firing goes on with `f`: an uncorrectable word of its instructions or scalars ends it (R72), and before an
update program's first unit a poisoned word of the segment or a broken column rule does (R159, R170). -/
def libGo (s : State) (n : Nat) (f : HC → State) : State :=
  match curFiring s with
  | none => s
  | some (k, x) =>
    let h := hobOf s n
    let c : HC := ⟨s, n, h, 0, k, x⟩
    if !(executing x) || !(inRect x.f n) || h.st != .run then s
    else if h.imemUe ≠ [] then hobFinish s n hobImemError
    else if h.srUe ≠ [] then hobFinish s n hobStateError
    else if libUpdate x.f.prog && h.passed == 0 && libSegBad h then hobFinish s n hobPoisonScalar
    else if (libRule x.f.prog == 6 || libRule x.f.prog == 7) && h.passed == 0 && !(libCols c) then hobFinish s n hobBounds
    else f c

/-- The hob goes on if the work before this point is done. -/
def libThen (c : HC) (r : Option (Bool × State)) (f : State → State) : State :=
  match r with
  | none => c.s
  | some (true, t) => f t
  | some (false, t) => t

/-- The firing that holds the hobs is of a library program. -/
def libHob (s : State) : Bool := match curFiring s with
  | some (_, x) => isLibrary x.f
  | none => false

/-- CKPT of a library program: an update program runs a unit between two checkpoints, and then passes the next (R123, R164). The
number of the checkpoint and the program counter are free values (log entry 84). -/
def libCkpt (s : State) (n : Nat) : State :=
  libGo s n fun c =>
    let u := c.h.passed
    if !(libUpdate c.x.f.prog) || libUnits c ≤ u + 1 then c.s
    else
      libThen c (libUnitRun c u) fun t =>
        let num := Config.openCode 12 (u + 1) % 65536
        let st : HobSt := if c.x.st = .stopping then .stopped else if c.x.replay.isSome then .gated else .run
        brkHit (setHob t n { hobOf t n with pc := Config.openCode 13 (u + 1) % 1024, ckpt := num, passed := u + 1, st := st }) c.k
          (some num)

/-- HALT of a library program: what is left of its work, and its end (R94, R110, R164). -/
def libHalt (s : State) (n : Nat) : State :=
  libGo s n fun c =>
    let fin (t : State) : State := hobFinish t n hobDone
    let last : Option (Bool × State) := if libUnits c = 0 then some (true, c.s) else libUnitRun c (libUnits c - 1)
    match libRule c.x.f.prog with
    | 0 => libThen c (libFill c) fin
    | 1 => libThen c (libFill c) fin
    | 8 => libThen c (libGemv c) fin
    | 9 => libThen c (libGemv c) fin
    | 10 => libThen c (libArgmax c) fin
    | r =>
      if c.h.passed + 1 < libUnits c then c.s
      else if r = 6 then
        if libRedWaits c then c.s
        else libThen c last fun t =>
          let sums := colSums c t
          let p := libPush c (setHob t n (raise (hobOf t n) (lvFlags sums))) (partGrans sums)
          if p.1 then fin p.2 else p.2
      else libThen c last fin

end Sys2Proof.Machine
end

