-- ==== Sys2Proof/Machine/HobScalar.lean ====
section
/-! DEFINITION. Hob instructions of the scalar unit and control (R99, R100, R102, R108, R121 to R123). -/

namespace Sys2Proof.Machine

/-- The scalar operands SA and SB. -/
def HC.a (c : HC) : W32 := sReg c.h (dSA c.w)
def HC.b (c : HC) : W32 := sReg c.h (dSB c.w)
def HC.imm (c : HC) : W32 := BitVec.ofNat 32 (dImm c.w)

/-- NOP (R100). -/
def execNop (hob : Nat) (s : State) : Host.Outcome State Fault Refusal :=
  act s fun s => hobIssue s hob 0x00 fun c => c.put c.h

/-- SMOVI: SD ← IMM32 (R100). -/
def execSmovi (hob : Nat) (s : State) : Host.Outcome State Fault Refusal :=
  act s fun s => hobIssue s hob 0x20 fun c => scalarOp c c.imm

/-- SADD: SD ← SA + SB (R100). -/
def execSadd (hob : Nat) (s : State) : Host.Outcome State Fault Refusal :=
  act s fun s => hobIssue s hob 0x21 fun c => scalarOp c (c.a + c.b)

/-- SADDI: SD ← SA + IMM32 (R100). -/
def execSaddi (hob : Nat) (s : State) : Host.Outcome State Fault Refusal :=
  act s fun s => hobIssue s hob 0x22 fun c => scalarOp c (c.a + c.imm)

/-- SSUB: SD ← SA − SB (R100). -/
def execSsub (hob : Nat) (s : State) : Host.Outcome State Fault Refusal :=
  act s fun s => hobIssue s hob 0x23 fun c => scalarOp c (c.a - c.b)

/-- SMUL: SD ← low 32 bits of SA × SB (R100). -/
def execSmul (hob : Nat) (s : State) : Host.Outcome State Fault Refusal :=
  act s fun s => hobIssue s hob 0x24 fun c => scalarOp c (c.a * c.b)

/-- SAND (R100). -/
def execSand (hob : Nat) (s : State) : Host.Outcome State Fault Refusal :=
  act s fun s => hobIssue s hob 0x25 fun c => scalarOp c (c.a &&& c.b)

/-- SOR (R100). -/
def execSor (hob : Nat) (s : State) : Host.Outcome State Fault Refusal :=
  act s fun s => hobIssue s hob 0x26 fun c => scalarOp c (c.a ||| c.b)

/-- SXOR (R100). -/
def execSxor (hob : Nat) (s : State) : Host.Outcome State Fault Refusal :=
  act s fun s => hobIssue s hob 0x27 fun c => scalarOp c (c.a ^^^ c.b)

/-- SSHL: SA shifted left by SB[4:0] (R100). -/
def execSshl (hob : Nat) (s : State) : Host.Outcome State Fault Refusal :=
  act s fun s => hobIssue s hob 0x28 fun c => scalarOp c (c.a <<< (c.b.toNat % 32))

/-- SSHR: SA shifted logically right by SB[4:0] (R100). -/
def execSshr (hob : Nat) (s : State) : Host.Outcome State Fault Refusal :=
  act s fun s => hobIssue s hob 0x29 fun c => scalarOp c (c.a >>> (c.b.toNat % 32))

/-- SCMP: flags from SA − SB (R121). -/
def execScmp (hob : Nat) (s : State) : Host.Outcome State Fault Refusal :=
  act s fun s => hobIssue s hob 0x2A fun c => c.put (cmpFlags c.h c.a c.b)

/-- SCMPI: flags from SA − IMM32 (R121). -/
def execScmpi (hob : Nat) (s : State) : Host.Outcome State Fault Refusal :=
  act s fun s => hobIssue s hob 0x2B fun c => c.put (cmpFlags c.h c.a c.imm)

/-- The launch parameter of a selector (R102). -/
def launchParam (l : LaunchP) (i : Nat) : W32 :=
  match i with
  | 0 => BitVec.ofNat 32 l.rank
  | 9 => BitVec.ofNat 32 l.ix
  | 10 => BitVec.ofNat 32 (l.ix / 2 ^ 32)
  | 11 => BitVec.ofNat 32 l.epoch
  | 12 => BitVec.ofNat 32 l.col
  | 13 => BitVec.ofNat 32 l.row
  | 14 => BitVec.ofNat 32 l.nPer
  | 15 => BitVec.ofNat 32 l.bseg
  | k => BitVec.ofNat 32 (l.ob.getD (k - 1) 0)

/-- SRDP: SD ← launch parameter IMM32[3:0] (R102). -/
def execSrdp (hob : Nat) (s : State) : Host.Outcome State Fault Refusal :=
  act s fun s => hobIssue s hob 0x2C fun c => scalarOp c (launchParam c.h.lp (dImm c.w % 16))

/-- SADDW: the pair SD ← the pair SA + zero-extended SB (R100, R101). -/
def execSaddw (hob : Nat) (s : State) : Host.Outcome State Fault Refusal :=
  act s fun s => hobIssue s hob 0x2D fun c => c.put (setSPair c.h (dSD c.w) (sPair c.h (dSA c.w) + c.b.toNat))

/-- BR: if COND holds, the next instruction is IMM32[9:0] (R100, R121). -/
def execBr (hob : Nat) (s : State) : Host.Outcome State Fault Refusal :=
  act s fun s => hobIssue s hob 0x30 fun c =>
    if condHolds c.h (dCond c.w) then setHob c.s c.n { c.h with pc := dImm c.w % 1024 } else c.put c.h

/-- LOOP: load the counter; a count of zero goes on after the matching ENDL (R122). -/
def execLoop (hob : Nat) (s : State) : Host.Outcome State Fault Refusal :=
  act s fun s => hobIssue s hob 0x31 fun c =>
    let n := if dImm c.w = 0 then c.a else c.imm
    let h := { c.h with loops := smSet c.h.loops (dLN c.w) n }
    if n = 0 then
      match findEndl (c.h.imem.drop (c.h.pc + 1)) (c.h.pc + 1) 0 with
      | some e => setHob c.s c.n { h with pc := e + 1 }
      | none => c.s
    else c.put h

/-- ENDL: decrease the counter; while it is not zero, go on after the matching LOOP (R122). -/
def execEndl (hob : Nat) (s : State) : Host.Outcome State Fault Refusal :=
  act s fun s => hobIssue s hob 0x32 fun c =>
    let n := smGet 0 c.h.loops (dLN c.w) - 1
    let h := { c.h with loops := smSet c.h.loops (dLN c.w) n }
    if n = 0 then c.put h
    else match findLoop (c.h.imem.take c.h.pc).reverse c.h.pc 0 with
      | some l => setHob c.s c.n { h with pc := l + 1 }
      | none => c.s

/-- CKPT: drained (R75), the hob records its checkpoint number and reports it; it stops there if a stop has been signalled,
and a hob of a replay waits for its gate (R123, R406). A library program does a unit of its work before (R164). -/
def execCkpt (hob : Nat) (s : State) : Host.Outcome State Fault Refusal :=
  act s fun s => if libHob s then libCkpt s hob else hobIssue s hob 0x33 fun c =>
    if hobFlight c.s c.n ≠ 0 then c.s
    else
      let num := dImm c.w % 65536
      let st : HobSt := if c.x.st = .stopping then .stopped else if c.x.replay.isSome then .gated else .run
      brkHit (c.put { c.h with ckpt := num, passed := c.h.passed + 1, st := st }) c.k (some num)

/-- HALT: drained, the hob's part of the firing ends with HOB_DONE (R94, R100, R110); a library program does the rest of its work
before (R164). -/
def execHalt (hob : Nat) (s : State) : Host.Outcome State Fault Refusal :=
  act s fun s => if libHob s then libHalt s hob else hobIssue s hob 0x34 fun c => if hobFlight c.s c.n ≠ 0 then c.s else hobFinish c.s c.n hobDone

/-- SETRM: the rounding and format control ← IMM32, its reserved bits zero (R99). -/
def execSetrm (hob : Nat) (s : State) : Host.Outcome State Fault Refusal :=
  act s fun s => hobIssue s hob 0x35 fun c => c.put { c.h with ctl := c.imm &&& 0xFFFF0007 }

/-- SETP: predicate mask ← SA and SB (R100). -/
def execSetp (hob : Nat) (s : State) : Host.Outcome State Fault Refusal :=
  act s fun s => hobIssue s hob 0x36 fun c => c.put { c.h with pred := c.b ++ c.a }

/-- RDX: SD ← the visible sticky flags (R108). -/
def execRdx (hob : Nat) (s : State) : Host.Outcome State Fault Refusal :=
  act s fun s => hobIssue s hob 0x37 fun c => scalarOp c (c.h.sticky &&& 0x7F)

/-- CLRX: the visible sticky flags ← 0 (R108). -/
def execClrx (hob : Nat) (s : State) : Host.Outcome State Fault Refusal :=
  act s fun s => hobIssue s hob 0x38 fun c => c.put { c.h with sticky := c.h.sticky &&& 0xFFFFFF80 }

end Sys2Proof.Machine
end

