-- ==== Sys2Proof/Machine/MgmtCmds.lean ====
section
/-! DEFINITION. The management port and the TAP (R626 to R629). -/

namespace Sys2Proof.Machine

/-- Act while the port has its supply and the block is out of cold reset (R506, R508). -/
def outOfReset (s : State) (f : State → State) : State := if s.clk.coldLow || !s.clk.pgFb then s else f s

/-- Number of data bytes of a management-port operation (R627). -/
def mgmtLen (op : Byte) : Nat := if op = 0x10 ∨ op = 0x20 then 4 else 8

/-- Status of a management-port access that fails before it reaches a register (R8, R357, R627): 6 an operation that is
none, 1 an offset beyond the window, 8 a misaligned one; 0 where it is performed. -/
def mgmtStatus (op : Byte) (off : Nat) : Nat :=
  if !([0x10, 0x11, 0x20, 0x21] : List Byte).contains op then 6
  else if 0x2000000 ≤ off then 1
  else if off % mgmtLen op ≠ 0 then 8
  else 0

/-- A register access on the management port (R627): the bytes that the read after it returns are kept in `out`; the status
of a write is what the read of length zero after it returns. -/
def mgmtAccessEff (s : State) (op : Byte) (off : Nat) (val : W64) : State :=
  outOfReset s fun s =>
    let st := mgmtStatus op off
    if st ≠ 0 then modMgmt s fun m => { m with out := [BitVec.ofNat 8 st], status := st }
    else if op = 0x10 ∨ op = 0x11 then
      let r := regRead s .mgmt off (mgmtLen op)
      modMgmt r.2 fun m => { m with out := leBytes (mgmtLen op) r.1 ++ [0], status := 0 }
    else modMgmt (regWrite s .mgmt off (mgmtLen op) val) fun m => { m with out := [0], status := 0 }

def execMgmtAccess (op : Byte) (off : Nat) (val : W64) (s : State) : Host.Outcome State Fault Refusal :=
  act s fun s => mgmtAccessEff s op off val

/-- An I3C controller assigns a dynamic address; from then on the port no longer answers as an SMBus target (R626). -/
def assignDyn (s : State) (addr : Nat) : State :=
  outOfReset s fun s => if s.mgmt.dyn.isNone ∧ addr < 128 then modMgmt s fun m => { m with dyn := some addr } else s

/-- SETDASA: the static address takes a dynamic one (R626). -/
def execSetdasa (addr : Nat) (s : State) : Host.Outcome State Fault Refusal := act s fun s => assignDyn s addr

/-- ENTDAA: a target without a dynamic address takes one in the address assignment (R626). -/
def execEntdaa (addr : Nat) (s : State) : Host.Outcome State Fault Refusal := act s fun s => assignDyn s addr

/-- RSTDAA: the dynamic address is given up (R626). -/
def execRstdaa (s : State) : Host.Outcome State Fault Refusal :=
  act s fun s => outOfReset s fun s => modMgmt s fun m => { m with dyn := none }

/-- ENEC: in-band interrupts are enabled (R626). -/
def execEnec (s : State) : Host.Outcome State Fault Refusal :=
  act s fun s => outOfReset s fun s => modMgmt s fun m => { m with ibi := true }

/-- DISEC: in-band interrupts are disabled (R626). -/
def execDisec (s : State) : Host.Outcome State Fault Refusal :=
  act s fun s => outOfReset s fun s => modMgmt s fun m => { m with ibi := false }

/-- GETSTATUS: two status bytes, the pending-interrupt number in the low four bits of the second (PRESUMED: the I3C format,
which R626 cites and does not give, log entry 66). The command stands for the controller's taking the pending interrupt too. -/
def getstatusEff (s : State) : State :=
  outOfReset s fun s => modMgmt s fun m =>
    { m with
      out := [0, BitVec.ofNat 8 (b2n m.ibiPend.isSome)]
      status := 0
      ibiPend := none }

def execGetstatus (s : State) : Host.Outcome State Fault Refusal := act s fun s => getstatusEff s

/-- ALERT_RESPONSE: in SMBus mode, while ALERT_N is low, the port answers the Alert Response Address with its own static
address, in the high seven bits of the byte (R626). -/
def alertResponseEff (s : State) : State :=
  outOfReset s fun s =>
    if s.mgmt.dyn.isNone ∧ s.mgmt.alertLow then
      modMgmt s fun m => { m with out := [BitVec.ofNat 8 (2 * (0x58 + s.clk.mgAddr))], status := 0 }
    else s

def execAlertResponse (s : State) : Host.Outcome State Fault Refusal := act s fun s => alertResponseEff s

/-- BYPASS: the one-bit bypass register captures 0 (R629). -/
def execBypass (s : State) : Host.Outcome State Fault Refusal :=
  act s fun s => modMgmt s fun m => { m with tapIr := 0, tapDr := 0 }

/-- IDCODE (R628). -/
def execIdcode (s : State) : Host.Outcome State Fault Refusal :=
  act s fun s => modMgmt s fun m => { m with tapIr := 1, tapDr := 0x2D5A0B43 }

/-- SAMPLE/PRELOAD: the boundary register is preloaded with `val` and captures the pins; which cell takes which pin the
manual does not say, so that what it captures is a free value (R629; DESIGN CHOICE, log entry 85). -/
def samplePreloadEff (s : State) (val : Nat) : State :=
  let f := takeFree s
  modMgmt f.2 fun m =>
    { m with
      tapIr := 2
      boundary := val
      tapDr := f.1.toNat }

def execSamplePreload (val : Nat) (s : State) : Host.Outcome State Fault Refusal := act s fun s => samplePreloadEff s val

end Sys2Proof.Machine
end

