-- ==== Sys2Proof/Machine/MigrCmds.lean ====
section
/-! DEFINITION. Sparing migration: chunks and the switchover (R317 to R321, R570, R573, R606), and weft errors of the TSV
channels and weft buses (R306). -/

namespace Sys2Proof.Machine

/-! ### Chunks (R318, R319) -/

/-- The last chunk asks the firing over the position to stop (R137, R318). -/
def chunkDone (s : State) : State :=
  match s.warp.migr with
  | some g => if g.switching then testStop s else s
  | none => s

/-- The migration whose next chunk may be copied now: the pair's column path is free, and the pair is not out of service for
its test (R319, R577). -/
def chunkDue (s : State) : Option Migr :=
  match s.warp.migr with
  | none => none
  | some g =>
    let p := pairAt s g.die g.pos
    if g.switching ∨ p.test ∨ p.opLeft ≠ 0 ∨ (p.q.any fun r => r.busy) ∨ tilesSleep s then none else some g

/-- CHUNK_COPIED: a chunk is copied in idle slots, after the sweep, within the budget (R278, R286, R319). -/
def chunkEff (s : State) : State :=
  match chunkDue s with
  | none => s
  | some g =>
    if !(colSlotFree s g.die g.pos 4) ∨ s.sched.blocked ≠ 4 then s
    else match spend s 3 (chunkEnergy s g) with
      | none => s
      | some t => chunkDone (copyChunk t g)

def execChunkCopied (s : State) : Host.Outcome State Fault Refusal := act s fun s => chunkEff s

/-- FORCED_CHUNK: a chunk that has waited tMFI is copied ahead of every class, as a forced refresh is granted: charged and never
held (R287, R319). -/
def forcedChunkEff (s : State) : State :=
  match chunkDue s with
  | none => s
  | some g => chunkDone (copyChunk (spendAlways s (chunkEnergy s g)) g)

def execForcedChunk (s : State) : Host.Outcome State Fault Refusal := act s fun s => forcedChunkEff s

/-! ### Switchover (R320) -/

/-- Start the waiting requests in order until one of them runs (R317). -/
def migrNext (s : State) : Nat → State
  | 0 => s
  | fuel + 1 =>
    match s.warp.migr, s.warp.queue with
    | none, r :: q => migrNext (migrStart (modWarp s fun w => { w with queue := q }) r.die r.pos r.mbox r.raw) fuel
    | _, _ => s

/-- A hob tile as it comes into service or out of its test: the counters move to it or are kept, and nothing else of it is
defined (R73, R606). -/
def freshHob (s : State) (n : Nat) : State :=
  let h := hobOf s n
  setHob { s with freeCtr := s.freeCtr + 2048 } n
    { scr := s.freeCtr
      ce := h.ce
      halts := h.halts
      endSt := h.endSt
      ckpt := h.ckpt
      firings := h.firings }

/-- The position is mapped to the spare, and the old pair's queue of errors ends with it (R320 steps 1 to 4). -/
def switchMap (s : State) (g : Migr) : State :=
  let p := pairAt s g.die g.pos
  let s1 := setPair s g.die g.pos
    { p with
      scrub := []
      verify := []
      overwritten := []
      sqAge := 0
      ahead := []
      row0 := none
      row1 := none
      row2 := none
      row3 := none
      closed := [] }
  modWarp (freshHob s1 (g.die * 32 + g.pos)) fun w =>
    { w with
      map := smSet w.map (pairKey g.die g.pos) g.spare
      migr := none
      tilePower := smSet w.tilePower (g.die * 34 + physPair s g.die g.pos) false }

/-- The histories of the two pairs; a test of the old tile that has not begun is of a tile without a position (R573). -/
def switchHist (s : State) (g : Migr) (old : Nat) : State :=
  let s1 := setHist s (g.die * 34 + old) { histOf s (g.die * 34 + old) with st := .retired }
  let s2 := setHist s1 (g.die * 34 + g.spare) { histOf s1 (g.die * 34 + g.spare) with st := .spare }
  modFlt s2 fun f =>
    { f with scan := f.scan.map fun t => if t.die = g.die ∧ t.pair = old then { t with pos := none }
        else if t.die = g.die ∧ t.pair = g.spare then { t with pos := some g.pos } else t }

/-- SWITCHOVER: no firing holds the position (R318, R320). The map and the history go to flash, or live on in SRAM in fallback
(R570, R574). -/
def switchoverEff (s : State) : State :=
  match s.warp.migr with
  | none => s
  | some g =>
    let held : Bool := match curFiring s with
      | some (_, x) => inRect x.f (g.die * 32 + g.pos)
      | none => false
    let testing : Bool := match s.flt.scan with
      | some t => t.phase == 2 && t.die == g.die && (t.pair == g.spare || t.pos == some g.pos)
      | none => false
    if !g.switching ∨ held ∨ testing then s
    else
      let old := physPair s g.die g.pos
      let s1 := switchHist (switchMap s g) g old
      let s2 := if s1.flt.fallback then s1 else historyCommit s1
      let s3 := report s2 chWarp { pairEvt s2 0x0105 .info 320 g.die g.pos old with
        detA := g.spare, detB := Config.openCode 6 1, keep := true }
      let s4 := match g.mbox with
        | some n => mboxDone s3 n 0
        | none => s3
      migrNext s4 (s4.warp.queue.length + 1)

def execSwitchover (s : State) : Host.Outcome State Fault Refusal := act s fun s => switchoverEff s

/-! ### Weft errors (R306) -/

def poisoned (d : Datum) : Datum := { d with poison := true }

/-- A column request whose data travels with transaction `n` carries poison. -/
def poisonCol (n : Nat) (r : ColReq) : ColReq :=
  match r.op with
  | .write k ds => if k = n then { r with op := .write k (ds.map poisoned) } else r
  | .merge k ds => if k = n then { r with op := .merge k (ds.map fun d => (poisoned d.1, d.2)) } else r
  | _ => r

/-- The data of a transaction is delivered with the poison flag: what it has read, and what it still writes. -/
def poisonTxn (s : State) (n : Nat) : State :=
  let s1 := modPorts s fun p =>
    { p with txns := smMap p.txns fun k t => if k = n then { t with data := t.data.map fun d => (d.1, poisoned d.2) } else t }
  modSched s1 fun c =>
    { c with
      pairs := smMap c.pairs fun _ p => { p with q := p.q.map (poisonCol n) }
      portWait := c.portWait.map fun w => (w.1, poisonCol n w.2) }

/-- The granule that waits for a stream is delivered with the poison flag. -/
def poisonStream (s : State) (kind hob off : Nat) : State :=
  modSched s fun c =>
    { c with tapped := c.tapped.map fun e =>
        if e.1 = kind ∧ e.2.1 = hob ∧ e.2.2.1 = off then (e.1, e.2.1, e.2.2.1, poisoned e.2.2.2) else e }

/-- A part of the context record in transfer is uncorrectable at its destination (R74, R136, R306). -/
def badContext (s : State) (hob u : Nat) : State :=
  match curFiring s with
  | none => s
  | some (k, x) =>
    if x.st = .saving ∨ x.st = .restoring then setFiring s k { x with badCtx := x.badCtx ++ [(hob, u)] } else s

/-- A part of a program or segment under way to a hob is uncorrectable (R72, R147). -/
def badLaunch (s : State) (hob : Nat) (seg : Bool) (u : Nat) : State :=
  match curFiring s with
  | none => s
  | some (k, x) =>
    if x.st = .launching ∨ x.st = .restoring then setFiring s k { x with badUnits := x.badUnits ++ [(hob, seg, u)] } else s

/-- The weft bus carries the unit; the TSV channel carries the others (R78). -/
def unitBus : TsvUnit → Bool
  | .register _ _ => true
  | .context _ _ => true
  | .launch _ _ _ => true
  | .sums _ => true
  | .pattern => true
  | _ => false

/-- The unit is still on its way: it has been neither accepted nor given up (R306). -/
def unitLive (s : State) : TsvUnit → Bool
  | .txn n => (smFind s.ports.txns n).isSome
  | .accw n => (smFind s.stp.acc n).isSome
  | .stream kind hob off => s.sched.tapped.any fun e => e.1 == kind && e.2.1 == hob && e.2.2.1 == off
  | .reduce _ => match curFiring s with
      | some (_, x) => x.red
      | none => false
  | .context _ _ => match curFiring s with
      | some (_, x) => x.st == .saving || x.st == .restoring
      | none => false
  | .launch _ _ _ => match curFiring s with
      | some (_, x) => x.st == .launching || x.st == .restoring
      | none => false
  | .sums _ => s.stp.ctxs.any fun kv => kv.2.eps.any fun e => e.st == .closed
  | .pattern => match s.flt.scan with
      | some y => y.phase == 2
      | none => false
  | .register _ _ => true
  | .other => true

/-- The address that the first part of a unit folds into its weft bits (R305); `fold` is that of a unit of other content. -/
def unitFold (s : State) (fold : Nat) : TsvUnit → Nat
  | .txn n => match smFind s.ports.txns n with
      | some x => hAddr x.hdr / 32 * 32
      | none => 0
  | .accw n => match smFind s.stp.acc n with
      | some a => match (pairAt s a.die a.pos).q.find? fun r => match r.op with
          | .acc m _ => m == n
          | _ => false with
        | some r => r.addr
        | none => 0
      | none => 0
  | .stream _ _ off => off
  | .reduce elem => 32 * elem
  | .context _ part => 64 * part
  | .launch _ _ part => 64 * part
  | .register _ off => off
  | .other => fold
  | .sums _ => fold
  | .pattern => fold

/-- Retries are exhausted: memory data and stream granules are delivered with the poison flag on every part; a part on the weft bus
is treated at its destination as uncorrectable, and a register access completes with an error. Of a sum of squares and a test pattern
the manual says no more: they are recorded alone (DESIGN CHOICE, log entry 70). Whether the unit is none of these, so
that the block resets, and the state (R306). -/
def unitGiveUp (s : State) : TsvUnit → Bool × State
  | .txn n => (false, poisonTxn s n)
  | .accw n => (false, modStp s fun t =>
      { t with acc := smMap t.acc fun k a => if k = n then { a with data := a.data.map poisoned } else a })
  | .stream kind hob off => (false, poisonStream s kind hob off)
  | .context hob part => (false, badContext s hob part)
  | .launch hob segment part => (false, badLaunch s hob segment part)
  | .register rq _ => (false, modFir s fun f => { f with weftLost := insN f.weftLost (rqKey rq) })
  | .sums _ => (false, s)
  | .pattern => (false, s)
  | .reduce _ => (true, s)
  | .other => (true, s)

/-- A unit whose retries are exhausted: its record names its path, its lane group and the address that its parts fold (R306, R564
code 0x0106). -/
def unitExhausted (s : State) (die grp : Nat) (unit : TsvUnit) (fold : Nat) : State :=
  let r := unitGiveUp s unit
  report r.2 chWarp { evt s 0x0106 (if r.1 then .block else .data) 306 with
    die := die, addr := unitFold s fold unit, detA := Config.openCode 8 (b2n (unitBus unit)), detB := grp, causes := if r.1 then 4 else 0 }

/-- Retries that the path of a unit makes: four on a weft bus; on a TSV channel four, one retraining of the lane group, and four more
(R306). -/
def unitRetries (unit : TsvUnit) : Nat := if unitBus unit then 4 else 8

/-- Retries so far of a unit on a die. -/
def unitTries (d : TsvDie) (unit : TsvUnit) : Nat := ((d.naks.find? fun e => e.1 == unit).map (·.2)).getD 0

/-- TSV_NAK: the receiver at the end of a weft bus or of a TSV channel refuses a unit of those that its path carries, and it is
replayed, or its retries are exhausted (R78, R306). Units accepted meanwhile are forgotten. -/
def tsvNakEff (s : State) (die grp : Nat) (weftBus : Bool) (unit : TsvUnit) (fold : Nat) : State :=
  if die < s.boot.dies ∧ grp < 34 ∧ weftBus = unitBus unit ∧ unitLive s unit then
    let d := tsvDie s die
    let n := unitTries d unit
    let others := d.naks.filter fun e => e.1 != unit && unitLive s e.1
    if n < unitRetries unit then
      let d1 := { d with
                  tsvRetry := d.tsvRetry + b2n (!(unitBus unit))
                  weftRetry := d.weftRetry + b2n (unitBus unit)
                  naks := others ++ [(unit, n + 1)] }
      let s1 := pmcEvent (setTsv s die d1) 0x0B none none .none 1
      if n = 4 ∧ !(unitBus unit) then tsvRequest s1 die grp else s1
    else unitExhausted (setTsv s die { d with naks := others }) die grp unit fold
  else s

def execTsvNak (die grp : Nat) (weftBus : Bool) (unit : TsvUnit) (fold : Nat) (s : State) : Host.Outcome State Fault Refusal :=
  act s fun s => tsvNakEff s die grp weftBus unit fold

end Sys2Proof.Machine
end

