-- ==== Sys2Proof/Machine/PickCmds.lean ====
section
/-! DEFINITION. Meanings of the picks that register programs and configure streams and mirror records (R175 to R177, R388 to
R392, R397 to R417, R436, R440). -/

namespace Sys2Proof.Machine

/-! ### Registration (R175 to R177, R440) -/

/-- The registration record of a block's bytes, for run-time owner `p` (R440). -/
def parseProg (p : Nat) (b : List Byte) : Prog :=
  let f := leAt b 0x05 1
  { id := leAt b 0 2
    owner := some p
    code := (List.range (leAt b 2 2)).map fun i => w64 (leAt b (0x40 + 8 * i) 8)
    bseg := leAt b 0x04 1
    ops := (List.range 8).map fun i => leAt b (8 + i) 1
    update := bitAt f 0
    phases := bitsAt f 1 2
    phase := bitsAt f 3 2
    taps := leAt b 0x10 2 }

/-- The reserved fields of a registration block are zero, and its fields lie within their ranges (R176, R436, R440). -/
def progFieldsOk (p : Prog) (b : List Byte) : Bool :=
  leAt b 0x05 1 < 32 && leAt b 0x06 2 == 0 && leAt b 0x12 0x2E == 0 && progRecordOk p

/-- Run-time registrations of a partition (R177). -/
def runCount (s : State) (p : Nat) : Nat := (s.fir.progs.filter fun g => g.owner == some p).length

/-- REGISTER_PROGRAM (R125, R175 to R177, R436, R440). -/
def registerEff (s : State) (n : Nat) : State :=
  pickStart s n 0x04 fun x s =>
    let a := pkF x 0x10 8
    if !(pkZero x 0x18 0x80) then pickDone s n stBadField 0 []
    else if !(rightRegister s x.part) || !(ownedRange s x.part a 0x40) then pickDone s n stDenied 0 []
    else
      let h := engFetch s (some x.part) x.cls a 0x40
      let len := 0x40 + 8 * leAt (gransBytes h.1 (a % 32) 0x40) 2 2
      if !(ownedRange s x.part a len) then pickDone s n stDenied 0 []
      else
        let rd := engRead (engNow h.2 (engReads s x.cls (a + 0x40) (len - 0x40))) (some x.part) a len
        let b := gransBytes rd.1 (a % 32) len
        let p := parseProg x.part b
        let t := rd.2
        if anyBad rd.1 then pickDone t n stPickPoison 0 []
        else if !(progFieldsOk p b) || p.id < 0x8000 || (findProg t p.id).isSome then pickDone t n stBadField 0 []
        else if 1024 ≤ t.fir.progs.length ∨ 64 ≤ runCount t x.part then pickDone t n stRegistryFull 0 []
        else if loaderCode p ≠ 0 then pickDone t n stLoadRejected (loaderCode p) []
        else pickDone (progAdd t p) n stDone 0 (leBytes 2 p.id)

def execRegisterProgram (pick : Nat) (s : State) : Host.Outcome State Fault Refusal := act s fun s => registerEff s pick

/-- UNREGISTER_PROGRAM: it takes effect when it is fetched, whatever its ORDER (R177, R436). -/
def unregisterEff (s : State) (n : Nat) : State :=
  match pickOf s n with
  | none => s
  | some x =>
    if x.opc ≠ 5 ∨ x.st ≠ .fetched then s
    else
      let id := pkF x 0x10 2
      let s1 := setPick s n { x with st := .started }
      if !(pkZero x 0x12 0x80) then pickDone s1 n stBadField 0 []
      else if !(s.fir.progs.any fun p => p.id == id && p.owner == some x.part) then pickDone s1 n stNotFound 0 []
      else pickDone (modFir s1 fun f => { f with progs := f.progs.filter fun p => p.id != id }) n stDone 0 []

def execUnregisterProgram (pick : Nat) (s : State) : Host.Outcome State Fault Refusal := act s fun s => unregisterEff s pick

/-! ### Fan-out and receive streams (R388 to R392, R436) -/

/-- The peer is in the peer table with a role (R374). -/
def hasRole (s : State) (id bit : Nat) : Bool :=
  match peerOf s id with
  | some kp => bitAt kp.2.roles bit
  | none => false

/-- Destinations of a configuration pick: 4 bytes each from 0x18 (R436). -/
def pickDests (x : PickR) (n : Nat) : List Dest :=
  (List.range n).map fun i => { peer := pkF x (0x18 + 4 * i) 2, rx := pkF x (0x1A + 4 * i) 1 }

/-- Their reserved bytes, and every byte after them, are zero; each peer has the role. -/
def destsOk (s : State) (x : PickR) (n role : Nat) : Bool :=
  (List.range n).all (fun i => pkF x (0x1B + 4 * i) 1 == 0) && pkZero x (0x18 + 4 * n) 0x80
  && (pickDests x n).all fun d => hasRole s d.peer role

/-- The context is held by the partition. -/
def holdsCtx (s : State) (p k : Nat) : Bool :=
  match smFind s.stp.ctxs k with
  | some c => c.owner == p
  | none => false

/-- The stream that a configuration pick names, owned by the partition. -/
def ownFan (s : State) (p k : Nat) : Option Fan := (smFind s.str.fans k).bind fun f => if f.owner = p then some f else none

/-- FAN_CONFIG (R388 to R391, R436). -/
def fanConfigEff (s : State) (n : Nat) : State :=
  pickStart s n 0x0A fun x s =>
    let cnt := pkF x 0x11 1
    let k := pkF x 0x12 1
    let ctx := pkF x 0x10 1
    let set (j : Nat) : State :=
      let old := (smFind s.str.fans j).getD {}
      pickDone (setFan s j { old with
        ctx := ctx
        owner := x.part
        dests := pickDests x cnt
        spec := pkF x 0x13 1 == 1 }) n stDone 0 (leBytes 1 j)
    if 8 < cnt ∨ 1 < pkF x 0x13 1 ∨ !(pkZero x 0x14 0x18) ∨ !(destsOk s x cnt 4) then pickDone s n stBadField 0 []
    else if !(rightStep s x.part) then pickDone s n stDenied 0 []
    else if cnt = 0 then
      match ownFan s x.part k with
      | none => pickDone s n stNotFound 0 []
      | some f =>
        if f.ph ≠ .idle then pickDone s n stBadState 0 []
        else pickDone (modStr s fun u => { u with fans := smDel u.fans k }) n stDone 0 (leBytes 1 k)
    else if !(holdsCtx s x.part ctx) then pickDone s n stNotFound 0 []
    else if k = 0xFF then
      match smFreeKey s.str.fans 16 0 with
      | some j => if j < 16 then set j else pickDone s n stRecordFull 0 []
      | none => pickDone s n stRecordFull 0 []
    else if (ownFan s x.part k).isSome then set k
    else pickDone s n stNotFound 0 []

def execFanConfig (pick : Nat) (s : State) : Host.Outcome State Fault Refusal := act s fun s => fanConfigEff s pick

/-- An open region that the partition owns. -/
def openRgn (s : State) (p i : Nat) : Option Region :=
  match rgnAt s i with
  | some r => if r.owner = p ∧ !r.block ∧ r.kind ≠ .reserved ∧ !r.banked ∧ !r.reassign then some r else none
  | none => none

/-- RX_CONFIG (R392, R417, R436). -/
def rxConfigEff (s : State) (n : Nat) : State :=
  pickStart s n 0x0B fun x s =>
    let smoke := pkF x 0x10 1 == 1
    let k := pkF x 0x11 1
    let half := pkF x 0x18 4
    let i := pkF x 0x14 2
    let tab := if smoke then s.str.rxSmoke else s.str.rxFan
    let put (m : SMap Rx) : State := modStr s fun u => if smoke then { u with rxSmoke := m } else { u with rxFan := m }
    if 1 < pkF x 0x10 1 ∨ !(pkZero x 0x16 0x18) ∨ 1 < pkF x 0x1C 1 ∨ !(pkZero x 0x1D 0x80) then pickDone s n stBadField 0 []
    else if pkF x 0x1C 1 = 1 then
      match smFind tab k with
      | some r =>
        if r.owner = x.part then pickDone (put (smDel tab k)) n stDone 0 [] else pickDone s n stNotFound 0 []
      | none => pickDone s n stNotFound 0 []
    else if (if smoke then (peerOf s (pkF x 0x12 2)).isNone else !(hasRole s (pkF x 0x12 2) 3)) then
      pickDone s n stBadField 0 []
    else match openRgn s x.part i with
      | none => pickDone s n stDenied 0 []
      | some g =>
        if half = 0 ∨ half % 32 ≠ 0 ∨ rgnSize s g < 2 * half then pickDone s n stBadField 0 []
        else
          let new : Rx := { src := pkF x 0x12 2, rgn := i, half := half, owner := x.part }
          match smFind tab k with
          | some r =>
            if r.owner = x.part then pickDone (put (smSet tab k new)) n stDone 0 []
            else pickDone s n (if 256 ≤ tab.length then stRecordFull else stDenied) 0 []
          | none => pickDone (put (smSet tab k new)) n stDone 0 []

def execRxConfig (pick : Nat) (s : State) : Host.Outcome State Fault Refusal := act s fun s => rxConfigEff s pick

/-! ### Mirror records (R397 to R412, R436, R440) -/

/-- The mirror record of a pair block's bytes (R440). -/
def parsePair (p n : Nat) (b : List Byte) : Twin :=
  { replay := leAt b 0 1 == 1
    partnerRec := leAt b 1 1
    peer := leAt b 2 2
    owner := p
    ctx := leAt b 4 1
    mask := leAt b 5 1
    hold := leAt b 6 1 == 1
    prog := leAt b 8 2
    c0 := leAt b 0x0A 1
    c1 := leAt b 0x0B 1
    r0 := leAt b 0x0C 1
    r1 := leAt b 0x0D 1
    origin := leAt b 0x10 8
    nPer := leAt b 0x18 4
    first := leAt b 0x1C 4
    ruleSrc := leAt b 0x20 8
    spool := leAt b 0x28 4
    gate := leAt b 0x2C 4
    ops := (List.range 8).map fun i => parseOp (leAt b (0x30 + 8 * i) 8)
    st := .pairing
    pick := some n
    next := leAt b 0x1C 4 }

/-- The fields of a pair block lie within their ranges, its reserved fields are zero, and its partner has the TWIN role; a
replay record names a spool of the partition and a gate step (R397, R436, R440). -/
def pairOk (s : State) (p : Nat) (t : Twin) (b : List Byte) : Bool :=
  leAt b 0 1 ≤ 1 && leAt b 6 1 ≤ 1 && leAt b 7 1 == 0 && leAt b 0x0E 2 == 0 && t.partnerRec < 64
  && t.c0 ≤ t.c1 && t.c1 < 32 && t.r0 ≤ t.r1 && t.r1 < 16 && hasRole s t.peer 5
  && (List.range 8).all (fun i => opWordOk (leAt b (0x30 + 8 * i) 8))
  && (!t.replay || (inSplRange s p t.spool && t.gate % 32 == 0 && 0 < t.gate))

/-- Bytes of a replay's rule data. -/
def ruleBytes (s : State) (t : Twin) : Nat :=
  match findProg s t.prog with
  | some p => max 1 (4096 * p.bseg - 0x400)
  | none => 1

/-- TWIN_PAIR (R397, R409, R436). -/
def twinPairEff (s : State) (n : Nat) : State :=
  pickStart s n 0x0C fun x s =>
    let a := pkF x 0x10 8
    if !(pkZero x 0x18 0x80) then pickDone s n stBadField 0 []
    else if !(rightStep s x.part) || !(ownedRange s x.part a 0x70) then pickDone s n stDenied 0 []
    else
      let rd := engFetch s (some x.part) x.cls a 0x70
      let b := gransBytes rd.1 (a % 32) 0x70
      let t := parsePair x.part n b
      let s1 := rd.2
      if anyBad rd.1 then pickDone s1 n stPickPoison 0 []
      else if t.replay && !(ownedRange s1 x.part t.ruleSrc (ruleBytes s1 t)) then pickDone s1 n stDenied 0 []
      else if !(pairOk s1 x.part t b) then pickDone s1 n stBadField 0 []
      else if !t.replay && !(holdsCtx s1 x.part t.ctx) then pickDone s1 n stNotFound 0 []
      else if (openPeer s1 t.peer).isNone then pickDone s1 n stBadState 0 []
      else match smFreeKey s1.str.twins 64 0 with
        | none => pickDone s1 n stRecordFull 0 []
        | some k => if k < 64 then twinSendPair (setTwin s1 k t) k else pickDone s1 n stRecordFull 0 []

def execTwinPair (pick : Nat) (s : State) : Host.Outcome State Fault Refusal := act s fun s => twinPairEff s pick

/-- The record is freed: its replay ends, its pick completes, and what waited for it goes on (R409). -/
def twinFree (s : State) (k : Nat) : State :=
  let t := twinOf s k
  let s1 := replayAbort (setTwin s k { t with st := .diverged }) k stAborted
  let s2 := twinPickDone s1 k stAborted
  let s3 := modStr s2 fun u =>
    { u with
      twins := smDel u.twins k
      twinBytes := u.twinBytes - 64 * (u.twinLog.filter fun e => e.who == k).length
      twinLog := u.twinLog.filter fun e => e.who != k
      audit := u.audit.filter fun e => e.1 != k }
  if t.replay then s3 else releaseTry (fanSettle s3 t.ctx) t.ctx

/-- TWIN_UNPAIR (R409, R436). -/
def twinUnpairEff (s : State) (n : Nat) : State :=
  pickStart s n 0x0D fun x s =>
    let k := pkF x 0x10 1
    if !(pkZero x 0x11 0x80) then pickDone s n stBadField 0 []
    else if !(rightStep s x.part) then pickDone s n stDenied 0 []
    else match smFind s.str.twins k with
      | none => pickDone s n stNotFound 0 []
      | some t => if t.owner = x.part then pickDone (twinFree s k) n stDone 0 [] else pickDone s n stNotFound 0 []

def execTwinUnpair (pick : Nat) (s : State) : Host.Outcome State Fault Refusal := act s fun s => twinUnpairEff s pick

/-- The epoch that a replay record replays next: the oldest it has not replayed or skipped. -/
def replayNext (s : State) (k : Nat) (t : Twin) : Nat :=
  ((t.hdrs.map (·.1)) ++ (s.fir.all.filter fun kv => kv.2.replay == some k).map fun kv => kv.2.f.epoch).foldl min t.next

/-- TWIN_RESYNC: the record's state goes to its partner (R409, R412, R436). -/
def twinResyncEff (s : State) (n : Nat) : State :=
  pickStart s n 0x0E fun x s =>
    let k := pkF x 0x10 1
    if !(pkZero x 0x11 0x80) then pickDone s n stBadField 0 []
    else if !(rightStep s x.part) then pickDone s n stDenied 0 []
    else match smFind s.str.twins k with
      | none => pickDone s n stNotFound 0 []
      | some t =>
        if t.owner ≠ x.part then pickDone s n stNotFound 0 []
        else if t.st ≠ .diverged ∨ (openPeer s t.peer).isNone then pickDone s n stBadState 0 []
        else
          let t1 := resyncStart { t with pick := some n, next := if t.replay then replayNext s k t else t.next } true
          twinSend (setTwin s k t1) k 0xD0 [(168, 3, 5)] [] 0

def execTwinResync (pick : Nat) (s : State) : Host.Outcome State Fault Refusal := act s fun s => twinResyncEff s pick

/-! ### Smoke (R413 to R416, R436) -/

def ownSmk (s : State) (p k : Nat) : Option Smoke := (smFind s.str.smokes k).bind fun f => if f.owner = p then some f else none

/-- The smoke stream is removed: an epoch open ends as a gap, and a snapshot not yet sent ends its pick. -/
def smokeFree (s : State) (k : Nat) : State :=
  let s1 := smkEnd s k true
  let x := smkOf s1 k
  let s2 := match x.snapPick with
    | some n => pickDone s1 n stAborted 0 []
    | none => s1
  releaseTry (modStr s2 fun u => { u with smokes := smDel u.smokes k }) x.ctx

/-- SMOKE_CONFIG (R413 to R415, R436). -/
def smokeConfigEff (s : State) (n : Nat) : State :=
  pickStart s n 0x0F fun x s =>
    let cnt := pkF x 0x11 1
    let k := pkF x 0x16 1
    let ctx := pkF x 0x10 1
    let share := pkF x 0x14 2
    let others := ((s.str.smokes.filter fun kv => kv.1 != k).map fun kv => kv.2.share).foldl (· + ·) 0
    let set (j : Nat) : State :=
      let s1 := smkEnd s j true
      let old := (smFind s1.str.smokes j).getD {}
      pickDone (setSmk s1 j { old with
        ctx := ctx
        owner := x.part
        sinks := pickDests x cnt
        d := pkF x 0x12 2
        share := share
        log := []
        used := 0 }) n stDone 0 (leBytes 1 j)
    if 4 < cnt ∨ pkF x 0x17 1 ≠ 0 ∨ !(destsOk s x cnt 6) then pickDone s n stBadField 0 []
    else if !(rightStep s x.part) then pickDone s n stDenied 0 []
    else if cnt = 0 then
      match ownSmk s x.part k with
      | none => pickDone s n stNotFound 0 []
      | some _ => pickDone (smokeFree s k) n stDone 0 (leBytes 1 k)
    else if pkF x 0x12 2 = 0 ∨ share = 0 ∨ 512 < share ∨ s.boot.img.cfg.smokeLog < (others + share) * 0x100000 then
      pickDone s n stBadField 0 []
    else if !(holdsCtx s x.part ctx) then pickDone s n stNotFound 0 []
    else if k = 0xFF then
      match smFreeKey s.str.smokes 16 0 with
      | some j => if j < 16 then set j else pickDone s n stRecordFull 0 []
      | none => pickDone s n stRecordFull 0 []
    else if (ownSmk s x.part k).isSome then set k
    else pickDone s n stNotFound 0 []

def execSmokeConfig (pick : Nat) (s : State) : Host.Outcome State Fault Refusal := act s fun s => smokeConfigEff s pick

/-- The update of an epoch of a context is still to be released (R416). -/
def updateAhead (c : StepCtx) (e : Nat) : Bool :=
  match epOf c e with
  | some x => x.released.isEmpty && x.st != .done
  | none => c.openEpoch ≤ e

/-- SMOKE_SNAPSHOT: the snapshot waits for its epoch's update (R416, R436). -/
def smokeSnapshotEff (s : State) (n : Nat) : State :=
  pickStart s n 0x10 fun x s =>
    let k := pkF x 0x10 1
    let e := pkF x 0x14 4
    if !(pkZero x 0x11 0x14) ∨ !(pkZero x 0x18 0x80) then pickDone s n stBadField 0 []
    else if !(rightStep s x.part) then pickDone s n stDenied 0 []
    else match ownSmk s x.part k with
      | none => pickDone s n stNotFound 0 []
      | some y =>
        if y.snap ≠ 0 ∨ !(updateAhead (ctxOf s y.ctx) e) then pickDone s n stBadState 0 []
        else setSmk s k { y with snap := 1, snapEpoch := e, snapPick := some n, snapFires := [], snapPos := 0 }

def execSmokeSnapshot (pick : Nat) (s : State) : Host.Outcome State Fault Refusal := act s fun s => smokeSnapshotEff s pick

end Sys2Proof.Machine
end

