-- ==== Sys2Proof/Machine/RetainCmds.lean ====
section
/-! DEFINITION. Entry to RETAIN and the end of its exit (R509 to R511, R598). -/

namespace Sys2Proof.Machine

/-- A firing is held, queued or suspended only (R510). -/
def firIdle (x : Firing) : Bool := x.st == .held || x.st == .queued || x.st == .suspended

/-- A TREAD waits in a channel buffer. -/
def treadWaits (s : State) : Bool := s.ports.waitQ.any fun kv => kv.2.any fun w => hOpc w.pkt.hdr == 6

/-- A SAMPLE pick is in flight (R436, R510). -/
def sampleInFlight (s : State) : Bool := s.smp.run.isSome || !s.smp.wait.isEmpty
  || s.spl.picks.any fun kv => kv.2.opc == 9 && (match kv.2.st with
    | .done _ _ _ => false
    | _ => true)

/-- The conditions of R510. -/
def retainOk (s : State) : Bool :=
  s.fir.all.all (fun kv => firIdle kv.2)
  && !(sampleInFlight s) && s.treads.isEmpty && !(treadWaits s)
  && s.stp.ctxs.all (fun kv => kv.2.drains.isEmpty
      && kv.2.eps.all fun e => e.st != .closed && e.st != .deciding && e.st != .updating)
  && s.warp.migr.isNone

/-- A hob whose tile is gated keeps its counters; its registers and store are undefined afterwards (R510). -/
def gatedHob (h : Hob) (scr : Nat) : Hob :=
  { scr := scr
    ce := h.ce
    halts := h.halts
    endSt := h.endSt
    ckpt := h.ckpt
    firings := h.firings }

/-- RETAIN_ENTER: the conditions have held for 10 µs (R509, R510). -/
def retainEnterEff (s : State) : State :=
  if s.clk.pst = .retainEntry ∧ retainOk s then
    let b := s.freeCtr
    modClk (modFir { s with freeCtr := b + 1048576 } fun f =>
      { f with scrBase := b, hobs := smMap f.hobs fun n h => gatedHob h (b + n * 2048) }) fun c => { c with pst := .retain }
  else s

def execRetainEnter (s : State) : Host.Outcome State Fault Refusal := act s fun s => retainEnterEff s

/-- RETAIN_ENTRY_TIMEOUT: tPSE expires (R509). -/
def retainTimeoutEff (s : State) : State :=
  if s.clk.pst = .retainEntry then
    modClk (regSetF s 0x50028 0 1 0) fun c => { c with pst := .service, psRefused := true }
  else s

def execRetainEntryTimeout (s : State) : Host.Outcome State Fault Refusal := act s fun s => retainTimeoutEff s

/-- TILES_READY: the exit ends, the ramp starts afresh and the held requests go on (R509, R511); a RETAIN request written during
the exit takes effect (R598). -/
def tilesReadyEff (s : State) : State :=
  if s.clk.pst = .retainExit then
    portsGo (rampStart (modClk s fun c =>
      { c with pst := if c.reqLater then .retainEntry else .service, reqLater := false }))
  else s

def execTilesReady (s : State) : Host.Outcome State Fault Refusal := act s fun s => tilesReadyEff s

end Sys2Proof.Machine
end

