-- ==== Sys2Proof/Machine/SampleCmds.lean ====
section
/-! DEFINITION. The privileged sampler (R242, R259 to R266, R438). -/

namespace Sys2Proof.Machine

/-! ### The token (R261 to R263) -/

/-- −∞ and +∞ in FP32. -/
def f32NegInf : W32 := 0xFF800000
def f32PosInf : W32 := 0x7F800000

/-- Logit `i` of a source of format 0 BF16 or 1 FP32; a NaN as −∞ (R261). -/
def logitAt (fmt : Nat) (b : List Byte) (i : Nat) : FV :=
  match (if fmt = 0 then decodeF bf16 (leAt b (2 * i) 2) else decodeF fp32 (leAt b (4 * i) 4)) with
  | .nan => .inf true
  | v => v

/-- Order of two logits: both zeros are equal (R261). -/
def fvBelow (a b : FV) : Bool := fvLt a b && !(fvEq a b)

/-- The lowest index with the largest value. -/
def argMaxF (xs : List FV) : Nat :=
  ((List.range xs.length).zip xs).foldl (fun (m : Nat × FV) e => if fvBelow m.2 e.2 then e else m) (0, xs.headD (.inf true)) |>.1

/-- Insert a candidate into at most `k` of them, z descending, an earlier one before an equal one (R261). -/
def topIns (k : Nat) (l : List (Nat × W32)) (e : Nat × W32) : List (Nat × W32) :=
  (l.takeWhile (fun q => !(fvBelow (f32 q.2) (f32 e.2))) ++ e :: l.dropWhile fun q => !(fvBelow (f32 q.2) (f32 e.2))).take k

/-- e and c of each candidate, in order: token, z, e, c (R261). -/
def smpSums (zmax : W32) : List (Nat × W32) → W64 → List (Nat × W32 × W32 × W64)
  | [], _ => []
  | (v, z) :: rest, acc =>
    let d := f32Enc .rne (fvAdd .rne (f32 z) (fvNeg (f32 zmax))).1
    let e := f32Enc .rne (fvExp2 (f32 (f32Mul d 0x3FB8AA3B))).1
    let c := f64Add acc (f64OfF32 e)
    (v, z, e, c) :: smpSums zmax rest c

/-- What a SAMPLE pick reports (R263). -/
structure SmpOut where
  status : Nat
  token : Nat
  z : W32
  prob : W32
  kept : Nat
  inf : Bool
deriving DecidableEq, Repr

/-- The drawn candidate (R261); a result that R261 does not state is taken from `free`. -/
def smpDraw (w : SampleW) (cs : List (Nat × W32)) (free : BitVec 256) : SmpOut :=
  let open_ : SmpOut := ⟨stDone, bitsAt free.toNat 0 32, BitVec.ofNat 32 (bitsAt free.toNat 32 32),
    BitVec.ofNat 32 (bitsAt free.toNat 64 32), bitsAt free.toNat 96 16, false⟩
  let es := smpSums (cs.headD (0, f32NegInf)).2 cs 0
  let ck := (es.getLastD (0, 0, 0, 0)).2.2.2
  let lim := f64Mul (f64OfF32 w.p) ck
  if es.any (fun e => f64 e.2.2.2 == .nan) then open_
  else match es.findIdx? fun e => !(fvLt (f64 e.2.2.2) (f64 lim)) with
    | none => open_
    | some j =>
      let kept := es.take (j + 1)
      let cn := (kept.getLastD (0, 0, 0, 0)).2.2.2
      let h := heddle w.key (hedCtr w.position w.stream 4 w.epoch)
      let u := f64Enc (mkFin false (bitsAt h.toNat 11 53) (-53))
      let tgt := f64Mul u cn
      let hit := match kept.find? fun e => fvLt (f64 tgt) (f64 e.2.2.2) with
        | some e => some e
        | none => kept.reverse.find? fun e => fvLt (fvZero false) (f32 e.2.2.1)
      match hit with
      | some e => ⟨stDone, e.1, e.2.1, f32OfF64 (f64Div (f64OfF32 e.2.2.1) cn), j + 1, false⟩
      | none => open_

/-- The outcome of an accepted pick from its logits (R261, R262); what the manual does not state of the special cases is taken
from `free` (DESIGN CHOICE, log entry 86). -/
def smpToken (w : SampleW) (logits : List FV) (free : BitVec 256) : SmpOut :=
  let fz : W32 := BitVec.ofNat 32 (bitsAt free.toNat 32 32)
  let fkept := bitsAt free.toNat 96 16
  if logits.all (fun v => v == .inf true) then
    ⟨stNoCandidate, 0xFFFFFFFF, fz, BitVec.ofNat 32 (bitsAt free.toNat 64 32), fkept, bitAt free.toNat 112⟩
  else if w.t = 0 then
    let i := argMaxF logits
    ⟨stDone, i, fz, 0x3F800000, 1, (logits.getD i .nan == .inf false) && bitAt free.toNat 112⟩
  else
    let invt := f32Enc .rne (fvDiv (.fin false 1 1) (f32 w.t)).1
    let zs := logits.map fun v =>
      let z := f32Enc .rne (fvMul v (f32 invt)).1
      if f32IsNaN z then f32NegInf else z
    match zs.findIdx? fun z => z == f32PosInf with
    | some i => ⟨stDone, i, f32PosInf, 0x3F800000, fkept, true⟩
    | none => smpDraw w (((List.range zs.length).zip zs).foldl (topIns (min w.k zs.length)) []) free

/-- The result bytes of a SAMPLE pick (R438). -/
def smpResult (o : SmpOut) : List Byte :=
  leBytes 4 o.token ++ leBytes 4 o.z.toNat ++ leBytes 4 o.prob.toNat ++ leBytes 2 o.kept ++ leBytes 1 (b2n o.inf)

/-- SAMPLE: the pick completes with the status that its fetch found, or waits for its context, whatever its ORDER (R260, R264). -/
def sampleEff (s : State) (n : Nat) : State :=
  match pickOf s n, smFind s.smp.fetched n with
  | some x, some (st, w) =>
    if x.opc ≠ 9 ∨ x.st ≠ .fetched then s
    else
      let s1 := modSmp (setPick s n { x with st := .started }) fun m => { m with fetched := smDel m.fetched n }
      if st ≠ stDone then pickDone s1 n st 0 []
      else qBump (smpServe (modSmp s1 fun m => { m with wait := smpEnter w m.wait }) w.ctx) (qKey 14 0 0 0 0)
  | _, _ => s

def execSample (pick : Nat) (s : State) : Host.Outcome State Fault Refusal := act s fun s => sampleEff s pick

/-- The waiting pick that the sampler runs next: of those that hold a context the highest class, and in it the first fetched
(R264). -/
def smpChoice (s : State) : Option SampleW :=
  let hs := (List.range 16).filterMap fun k => ctxHolder s k
  (List.range 4).findSome? fun c => s.smp.wait.find? fun w => w.cls == c && hs.contains w

/-- SAMPLER_START: the idle sampler takes its next pick, once the hearth damper admits the bytes it reads (R264, R452). -/
def samplerStartEff (s : State) (k : Nat) : State :=
  match s.smp.run, smpChoice s with
  | none, some w =>
    if w.ctx ≠ k ∨ tilesSleep s then s
    else match damperTake s w.part .hearth w.cls (w.v * logitBytes w.fmt) with
      | none => s
      | some s1 => withCtl s1 [.sampler k] fun s1 =>
        qBump (smpServe (modSmp s1 fun m => { m with wait := m.wait.filter (fun q => q.pick != w.pick), run := some w }) k)
          (qKey 14 0 0 0 0)
  | _, _ => s

def execSamplerStart (ctx : Nat) (s : State) : Host.Outcome State Fault Refusal := act s fun s => samplerStartEff s ctx

/-- SAMPLER_DONE: once the memory grants its reads in the pick's class, the source has been read, the token is drawn, and the pick completes; a poisoned or uncorrectable granule ends
it with POISON and no token (R261 to R265). How long it took is a free value (R266; log entry 86). -/
def samplerDoneEff (s : State) : State :=
  match s.smp.run with
  | none => s
  | some w =>
    let n := w.v * logitBytes w.fmt
    let f := takeFree s
    let use := engReads s w.cls w.src n
    if !(engReady s use) then s else withCtl s [.sampler w.ctx] fun _ =>
    let rd := engRead (engNow f.2 use) (some w.part) w.src n
    let b := gransBytes rd.1 (w.src % 32) n
    let o := smpToken w ((List.range w.v).map (logitAt w.fmt b)) f.1
    let s1 := modSmp rd.2 fun m =>
      { m with
        run := none
        lastNs := bitsAt f.1.toNat 128 32
        picks := m.picks + 1
        lastCtx := w.ctx }
    smpServe (if anyBad rd.1 then pickDone s1 w.pick stPoison 0 [] else pickDone s1 w.pick o.status 0 (smpResult o)) w.ctx

def execSamplerDone (s : State) : Host.Outcome State Fault Refusal := act s fun s => samplerDoneEff s

end Sys2Proof.Machine
end

