-- ==== Sys2Proof/Machine/TickCmds.lean ====
section
/-! DEFINITION. The 1 µs boundary of the global time counter: dampers, hob time, ember caps, aligned time, and what waits for
tokens (R137, R139, R280, R454 to R459, R502, R541, R546). -/

namespace Sys2Proof.Machine

/-- Hob time of the interval that ends is posted for the firing that holds the hobs from its strobe on (R454, R459). -/
def tickHobTime (s : State) : State :=
  match curFiring s with
  | none => s
  | some (k, x) =>
    if hobsRun x then postHobTime s k 1000 else s

/-- The cap of a pool: DMP_POOL (R609). -/
def poolCap (s : State) : Res → Nat
  | .hearth => 64 * regF s 0x86018 0 20
  | .hob => regF s 0x86020 0 32
  | .flue => 64 * regF s 0x86028 0 20

/-- The rate of a partition for a resource: DMP_RATE (R454). -/
def rateOf (s : State) (p : Nat) : Res → Nat
  | .hearth => 64 * pageF s p 0x100 0 16
  | .flue => 64 * pageF s p 0x100 16 16
  | .hob => pageF s p 0x100 32 19

def capOf (s : State) (p : Nat) : Res → Int
  | .hearth => capHearth s p
  | .hob => capHob s p
  | .flue => capFlue s p

/-- The partition has a runnable firing that does not hold the hobs (R454). -/
def hobWaiting (s : State) (p : Nat) : Bool := s.fir.all.any fun kv => kv.2.part == p && s.fir.cur != some kv.1 && runnable s kv.2

/-- Refill one damper of a partition; what rises above the cap spills into the pool (R454, R457). -/
def refill (s : State) (p : Nat) (r : Res) : State :=
  let l := sat48 (level (part s p) r + rateOf s p r)
  let s1 := modPart s p fun x => setLevel x r l
  let c := capOf s1 p r
  if l ≤ c ∨ (r = .hob ∧ hobWaiting s1 p) then s1
  else setPool (modPart s1 p fun x => setLevel x r c) r (min (pool s1 r + (l - c).toNat) (poolCap s1 r))

/-- A pool above a lowered cap loses the excess (R609). -/
def poolClip (s : State) (r : Res) : State := setPool s r (min (pool s r) (poolCap s r))

/-- The three dampers of every partition, and the pools. -/
def tickDampers (s : State) : State :=
  let rs : List Res := [.hearth, .hob, .flue]
  let s1 := rs.foldl poolClip s
  s1.parts.foldl (fun t kv => rs.foldl (fun u r => refill u kv.1 r) t) s1

/-- The ember bytes of R280 are measured over each 1 µs. -/
def tickEmber (s : State) : State := modSched s fun c => { c with embIn := 0, embFl := 0, embEg := 0, embTsv := [] }

/-- A partition without hob-time tokens stops its running firing; with them again, a stop still held no longer stands (R137,
R139); a fill of a re-initialisation is never stopped for them (R465). -/
def tickStop (s : State) : State :=
  match curFiring s with
  | none => s
  | some (k, x) =>
    if x.st ≠ .running then s
    else if x.fill ∨ holdsTokens s x.part .hob x.cls then setFiring s k { x with causes := x.causes.filter (· != .hobTime) }
    else requestStop s .hobTime

/-- The front entry of each scrub queue has waited 1 µs more (R315, tSQA). -/
def tickScrub (s : State) : State :=
  modSched s fun c => { c with pairs := smMap c.pairs fun _ p => { p with sqAge := if p.scrub.isEmpty then 0 else p.sqAge + 1 } }

/-- Time goes on: the counter, the slew of aligned time, and SUM of the observed queues (R502, R541, R546). -/
def tickTime (s : State) : State :=
  modObs (modClk s fun c => { c with gtc := c.gtc + 1000 }) fun o =>
    { o with
      ofs := o.ofs + BitVec.ofInt 64 (2 * o.slew)
      queues := smMap o.queues fun k q => { q with sum := (q.sum + 1000 * queueCur s k) % 2 ^ 64 } }

/-- The counter runs: the root PLL is locked or coasts (R502). -/
def gtcRuns (s : State) : Bool := s.clk.rootReady || s.clk.coast

/-- DAMPER_TICK. -/
def damperTickEff (s : State) : State :=
  if gtcRuns s then
    let t := tickTime s
    if s.boot.st = .service then portsGo (preemptCheck (tickStop (tickScrub (tickEmber (tickDampers (tickHobTime t)))))) else t
  else s

def execDamperTick (s : State) : Host.Outcome State Fault Refusal := act s fun s => damperTickEff s

end Sys2Proof.Machine
end

