-- ==== Sys2Proof/Machine/TreadCmds.lean ====
section
/-! DEFINITION. Transposed tile reads (R230 to R237, R358). -/

namespace Sys2Proof.Machine

/-! ### The source (R230) -/

/-- Bits of an element by type: 0 to 2 plain 8, 16 and 32 bits; 3 MX8, 4 MX6, 5 MX4. -/
def tElBits (t : Nat) : Nat :=
  match t with
  | 0 => 8 | 1 => 16 | 2 => 32 | 3 => 8 | 4 => 6 | _ => 4

/-- Bytes of a unit of an MX type (R149). -/
def mxUnit (t : Nat) : Nat := 128 * tElBits t + 32

/-- Bit offset from the source base of source element (r, c). -/
def srcBit (h : BitVec 256) (r c : Nat) : Nat :=
  let t := tType h
  match tPitch h with
  | some p => 8 * r * p + c * tElBits t
  | none =>
    if t < 3 then (64 * r + c) * tElBits t
    else 8 * (r / 16 * mxUnit t) + (r % 16 * 64 + c) * tElBits t

/-- Bit offset from the source base of the scale of source row r, block b. -/
def srcScale (h : BitVec 256) (r b : Nat) : Nat :=
  let t := tType h
  8 * (r / 16 * mxUnit t + 128 * tElBits t + r % 16 * 2 + b)

/-- The bursts of 64 aligned bytes that hold the granules at the addresses: first address, granules (R236). -/
def srcBursts : List Nat → List (Nat × Nat)
  | a :: b :: rest => if a % 64 = 0 ∧ b = a + 32 then (a, 2) :: srcBursts rest else (a, 1) :: srcBursts (b :: rest)
  | [a] => [(a, 1)]
  | [] => []

/-! ### The result (R231, R233) -/

/-- The source granule at an offset from the base; a granule not read counts as poisoned. -/
def tGran (h : BitVec 256) (data : List (Nat × Datum)) (i : Nat) : Datum :=
  match data.find? fun d => d.1 == hAddr h + 32 * i with
  | some d => d.2
  | none => ⟨0, true⟩

/-- `n` bits at a bit offset of the source, and whether a granule they come from carries the poison mark. -/
def tBits (h : BitVec 256) (data : List (Nat × Datum)) (at_ n : Nat) : Nat × Bool :=
  let a := tGran h data (at_ / 256)
  if at_ % 256 + n ≤ 256 then (bitsAt a.bits.toNat (at_ % 256) n, a.poison)
  else
    let b := tGran h data (at_ / 256 + 1)
    (bitsAt (a.bits.toNat + b.bits.toNat * 2 ^ 256) (at_ % 256) n, a.poison || b.poison)

/-- Result granule `i`: element (q, r) of the result is source element (r, q); the scales of an MX type follow, that of source
row r, block b, at 2r + b. -/
def tileGran (h : BitVec 256) (data : List (Nat × Datum)) (i : Nat) : Datum :=
  let w := tElBits (tType h)
  let e0 := 256 * i / w
  let xs : List (Nat × (Nat × Bool)) :=
    if i < 16 * w then
      (rangeFrom e0 ((256 * i + 255) / w + 1 - e0)).map fun e => ((e - e0) * w, tBits h data (srcBit h (e % 64) (e / 64)) w)
    else
      (List.range 32).map fun j =>
        let k := 32 * (i - 16 * w) + j
        (8 * j, tBits h data (srcScale h (k / 2) (k % 2)) 8)
  let v := xs.foldl (fun v x => v + x.2.1 * 2 ^ x.1) 0
  if xs.any fun x => x.2.2 then ⟨0, true⟩
  else ⟨BitVec.ofNat 256 (if i < 16 * w then v / 2 ^ (256 * i - e0 * w) else v), false⟩

/-- The whole result. -/
def tileResult (h : BitVec 256) (data : List (Nat × Datum)) : List Datum :=
  (List.range (treadBytes (tType h) / 32)).map (tileGran h data)

/-! ### Events -/

/-- TREAD_BUFFER_ALLOCATED: a waiting TREAD takes its room in the carve-out and its source bursts are asked of their pairs, in
its class; without room it waits, and the wait is counted once (R234, R236). -/
def treadAllocEff (s : State) (k : Nat) : State :=
  match smFind s.treads k with
  | none => s
  | some t =>
    let need := treadBytes (tType t.hdr)
    if t.alloc then s
    else if s.staging.tpose * 0x100000 < s.tposeUsed + need then
      (if t.stalled then s
       else modPorts { s with treads := smSet s.treads k { t with stalled := true } } fun p =>
         { p with tposeStalls := p.tposeStalls + 1 })
    else
      let bs := (srcBursts ((srcGrans t.hdr).map (hAddr t.hdr + ·))).filter fun b => (addrPlace s b.1).isSome
      let o := openReq s t.mute false t.module t.hdr false
      let s1 := modPorts o.2 fun p =>
        { p with txns := smMap p.txns fun n x => if n = o.1 then { x with left := bs.length } else x }
      let s2 := { s1 with
                  treads := smSet s1.treads k { t with alloc := true, txn := o.1 }
                  tposeUsed := s1.tposeUsed + need }
      bs.foldl (fun u b => portCol u false t.hdr t.cls b.2 b.1 (.read o.1)) (qBump s2 (qKey 11 0 0 0 0))

def execTreadBufferAllocated (tread : Nat) (s : State) : Host.Outcome State Fault Refusal := act s fun s => treadAllocEff s tread

/-- The RSP_TILE of a TREAD (R358). -/
def tilePkt (s : State) (h : BitVec 256) (data : List (Nat × Datum)) : Pkt :=
  ⟨rspHdr s false h 0x83 0 0 ||| mkHdr [(8, 1, 1), (128, 16, treadBytes (tType h))], tileResult h data⟩

/-- TREAD_RESPONSE: the last source burst has arrived, and the result goes to the egress of the module that asked; its room is
given back when its last slot leaves, or at once where nothing is sent (R234, R358, R365). -/
def treadRespEff (s : State) (k : Nat) : State :=
  match smFind s.treads k with
  | none => s
  | some t => match (if t.alloc then smFind s.ports.txns t.txn else none) with
    | none => s
    | some x =>
      if x.left ≠ 0 then s
      else
        let s1 := modPorts { s with treads := smDel s.treads k } fun p => { p with txns := smDel p.txns t.txn }
        portsGo (if t.mute || x.mute then { s1 with tposeUsed := s1.tposeUsed - treadBytes (tType t.hdr) }
          else egressAdd s1 false t.module
            { pkt := tilePkt s1 t.hdr x.data, cls := t.cls, part := t.part, grp := 2, peer := none })

def execTreadResponse (tread : Nat) (s : State) : Host.Outcome State Fault Refusal := act s fun s => treadRespEff s tread

end Sys2Proof.Machine
end

