-- ==== Sys2Proof/Machine/Dispatch.lean ====
section
/-! DEFINITION. The dispatch: one arm per command. -/

namespace Sys2Proof.Machine

def exec (i : Instr) (s : State) : Host.Outcome State Fault Refusal :=
  match i with
  | .registerWrite rq off len val => Sys2Proof.Machine.execRegisterWrite rq off len val s
  | .lowHalfRead rq off => Sys2Proof.Machine.execLowHalfRead rq off s
  | .streamedRead rq off => Sys2Proof.Machine.execStreamedRead rq off s
  | .captureRead rq off => Sys2Proof.Machine.execCaptureRead rq off s
  | .hobRegisterRead rq off len => Sys2Proof.Machine.execHobRegisterRead rq off len s
  | .hedSeedWrite rq off len val => Sys2Proof.Machine.execHedSeedWrite rq off len val s
  | .rd flue module hdr data => Sys2Proof.Machine.execRd flue module hdr data s
  | .wr flue module hdr data => Sys2Proof.Machine.execWr flue module hdr data s
  | .wrbe flue module hdr data => Sys2Proof.Machine.execWrbe flue module hdr data s
  | .accw flue module hdr data => Sys2Proof.Machine.execAccw flue module hdr data s
  | .cfence flue module hdr data => Sys2Proof.Machine.execCfence flue module hdr data s
  | .tread flue module hdr data => Sys2Proof.Machine.execTread flue module hdr data s
  | .fence flue module hdr data => Sys2Proof.Machine.execFence flue module hdr data s
  | .fenceComplete fence => Sys2Proof.Machine.execFenceComplete fence s
  | .db flue module hdr data => Sys2Proof.Machine.execDb flue module hdr data s
  | .damperAdmit chan => Sys2Proof.Machine.execDamperAdmit chan s
  | .flitReceived flue module flit => Sys2Proof.Machine.execFlitReceived flue module flit s
  | .ack flue module hdr => Sys2Proof.Machine.execAck flue module hdr s
  | .nak flue module hdr => Sys2Proof.Machine.execNak flue module hdr s
  | .credit flue module hdr => Sys2Proof.Machine.execCredit flue module hdr s
  | .linkRetryTimer flue module => Sys2Proof.Machine.execLinkRetryTimer flue module s
  | .trainTimeout flue module => Sys2Proof.Machine.execTrainTimeout flue module s
  | .ucieLinkActive flue module half repaired => Sys2Proof.Machine.execUcieLinkActive flue module half repaired s
  | .parameterMessage flue module msg => Sys2Proof.Machine.execParameterMessage flue module msg s
  | .paramTimeout flue module => Sys2Proof.Machine.execParamTimeout flue module s
  | .initialCreditTimeout flue module => Sys2Proof.Machine.execInitialCreditTimeout flue module s
  | .laneFailure flue module => Sys2Proof.Machine.execLaneFailure flue module s
  | .retrainTimeout flue module => Sys2Proof.Machine.execRetrainTimeout flue module s
  | .moduleRetry rq flue => Sys2Proof.Machine.execModuleRetry rq flue s
  | .responseCreditStall flue module => Sys2Proof.Machine.execResponseCreditStall flue module s
  | .lightInputChange module lol att => Sys2Proof.Machine.execLightInputChange module lol att s
  | .attachSettled module => Sys2Proof.Machine.execAttachSettled module s
  | .flMarkPulse good => Sys2Proof.Machine.execFlMarkPulse good s
  | .anchorGained peer => Sys2Proof.Machine.execAnchorGained peer s
  | .hello module hdr data => Sys2Proof.Machine.execHello module hdr data s
  | .helloAck module hdr data => Sys2Proof.Machine.execHelloAck module hdr data s
  | .bye module hdr data => Sys2Proof.Machine.execBye module hdr data s
  | .ping module hdr data => Sys2Proof.Machine.execPing module hdr data s
  | .pong module hdr data => Sys2Proof.Machine.execPong module hdr data s
  | .helloTimeout peer => Sys2Proof.Machine.execHelloTimeout peer s
  | .unreachableRetry peer => Sys2Proof.Machine.execUnreachableRetry peer s
  | .keepaliveIdle peer => Sys2Proof.Machine.execKeepaliveIdle peer s
  | .sessionExpiry peer => Sys2Proof.Machine.execSessionExpiry peer s
  | .norm module hdr data => Sys2Proof.Machine.execNorm module hdr data s
  | .fanOpen module hdr data => Sys2Proof.Machine.execFanOpen module hdr data s
  | .fanData module hdr data => Sys2Proof.Machine.execFanData module hdr data s
  | .fanEnd module hdr data => Sys2Proof.Machine.execFanEnd module hdr data s
  | .fanFinal module hdr data => Sys2Proof.Machine.execFanFinal module hdr data s
  | .recant module hdr data => Sys2Proof.Machine.execRecant module hdr data s
  | .fanState module hdr data => Sys2Proof.Machine.execFanState module hdr data s
  | .streamEndWait stream => Sys2Proof.Machine.execStreamEndWait stream s
  | .twinHdr module hdr data => Sys2Proof.Machine.execTwinHdr module hdr data s
  | .twinData module hdr data => Sys2Proof.Machine.execTwinData module hdr data s
  | .twinDigest module hdr data => Sys2Proof.Machine.execTwinDigest module hdr data s
  | .smokeData module hdr data => Sys2Proof.Machine.execSmokeData module hdr data s
  | .smokeMark module hdr data => Sys2Proof.Machine.execSmokeMark module hdr data s
  | .twinPairTimeout record => Sys2Proof.Machine.execTwinPairTimeout record s
  | .digestWaitTimeout record => Sys2Proof.Machine.execDigestWaitTimeout record s
  | .twinDataEndWait record => Sys2Proof.Machine.execTwinDataEndWait record s
  | .replayLaunch record => Sys2Proof.Machine.execReplayLaunch record s
  | .replayGatePass hob => Sys2Proof.Machine.execReplayGatePass hob s
  | .nonspecFanoutReadDone stream => Sys2Proof.Machine.execNonspecFanoutReadDone stream s
  | .snapshotReadDone stream => Sys2Proof.Machine.execSnapshotReadDone stream s
  | .push rq spool tail => Sys2Proof.Machine.execPush rq spool tail s
  | .consume rq spool count => Sys2Proof.Machine.execConsume rq spool count s
  | .abort rq spool seq => Sys2Proof.Machine.execAbort rq spool seq s
  | .creelDescriptorRead spool => Sys2Proof.Machine.execCreelDescriptorRead spool s
  | .pickFetch spool => Sys2Proof.Machine.execPickFetch spool s
  | .completionRecord pick => Sys2Proof.Machine.execCompletionRecord pick s
  | .nopPick pick => Sys2Proof.Machine.execNopPick pick s
  | .fire pick => Sys2Proof.Machine.execFire pick s
  | .regionMode pick => Sys2Proof.Machine.execRegionMode pick s
  | .regionInit pick => Sys2Proof.Machine.execRegionInit pick s
  | .registerProgram pick => Sys2Proof.Machine.execRegisterProgram pick s
  | .unregisterProgram pick => Sys2Proof.Machine.execUnregisterProgram pick s
  | .stepConfig pick => Sys2Proof.Machine.execStepConfig pick s
  | .stepRetire pick => Sys2Proof.Machine.execStepRetire pick s
  | .stepClose pick => Sys2Proof.Machine.execStepClose pick s
  | .sample pick => Sys2Proof.Machine.execSample pick s
  | .fanConfig pick => Sys2Proof.Machine.execFanConfig pick s
  | .rxConfig pick => Sys2Proof.Machine.execRxConfig pick s
  | .twinPair pick => Sys2Proof.Machine.execTwinPair pick s
  | .twinUnpair pick => Sys2Proof.Machine.execTwinUnpair pick s
  | .twinResync pick => Sys2Proof.Machine.execTwinResync pick s
  | .smokeConfig pick => Sys2Proof.Machine.execSmokeConfig pick s
  | .smokeSnapshot pick => Sys2Proof.Machine.execSmokeSnapshot pick s
  | .enable rq part => Sys2Proof.Machine.execEnable rq part s
  | .disable rq part => Sys2Proof.Machine.execDisable rq part s
  | .resume rq part => Sys2Proof.Machine.execResume rq part s
  | .regionModeDoorbell rq region len => Sys2Proof.Machine.execRegionModeDoorbell rq region len s
  | .modeTimerExpires region => Sys2Proof.Machine.execModeTimerExpires region s
  | .modeDrainDone region => Sys2Proof.Machine.execModeDrainDone region s
  | .saveComplete ns => Sys2Proof.Machine.execSaveComplete ns s
  | .firingCommit ns => Sys2Proof.Machine.execFiringCommit ns s
  | .hobLoadLands hob vreg => Sys2Proof.Machine.execHobLoadLands hob vreg s
  | .nop hob => Sys2Proof.Machine.execNop hob s
  | .ld hob => Sys2Proof.Machine.execLd hob s
  | .st hob => Sys2Proof.Machine.execSt hob s
  | .ldhb hob => Sys2Proof.Machine.execLdhb hob s
  | .ldhs hob => Sys2Proof.Machine.execLdhs hob s
  | .sths hob => Sys2Proof.Machine.execSths hob s
  | .ainit hob => Sys2Proof.Machine.execAinit hob s
  | .rpush hob => Sys2Proof.Machine.execRpush hob s
  | .smovi hob => Sys2Proof.Machine.execSmovi hob s
  | .sadd hob => Sys2Proof.Machine.execSadd hob s
  | .saddi hob => Sys2Proof.Machine.execSaddi hob s
  | .ssub hob => Sys2Proof.Machine.execSsub hob s
  | .smul hob => Sys2Proof.Machine.execSmul hob s
  | .sand hob => Sys2Proof.Machine.execSand hob s
  | .sor hob => Sys2Proof.Machine.execSor hob s
  | .sxor hob => Sys2Proof.Machine.execSxor hob s
  | .sshl hob => Sys2Proof.Machine.execSshl hob s
  | .sshr hob => Sys2Proof.Machine.execSshr hob s
  | .scmp hob => Sys2Proof.Machine.execScmp hob s
  | .scmpi hob => Sys2Proof.Machine.execScmpi hob s
  | .srdp hob => Sys2Proof.Machine.execSrdp hob s
  | .saddw hob => Sys2Proof.Machine.execSaddw hob s
  | .br hob => Sys2Proof.Machine.execBr hob s
  | .loop hob => Sys2Proof.Machine.execLoop hob s
  | .endl hob => Sys2Proof.Machine.execEndl hob s
  | .ckpt hob => Sys2Proof.Machine.execCkpt hob s
  | .halt hob => Sys2Proof.Machine.execHalt hob s
  | .setrm hob => Sys2Proof.Machine.execSetrm hob s
  | .setp hob => Sys2Proof.Machine.execSetp hob s
  | .rdx hob => Sys2Proof.Machine.execRdx hob s
  | .clrx hob => Sys2Proof.Machine.execClrx hob s
  | .vadd hob => Sys2Proof.Machine.execVadd hob s
  | .vsub hob => Sys2Proof.Machine.execVsub hob s
  | .vmul hob => Sys2Proof.Machine.execVmul hob s
  | .vfma hob => Sys2Proof.Machine.execVfma hob s
  | .vfnma hob => Sys2Proof.Machine.execVfnma hob s
  | .vmax hob => Sys2Proof.Machine.execVmax hob s
  | .vmin hob => Sys2Proof.Machine.execVmin hob s
  | .vabs hob => Sys2Proof.Machine.execVabs hob s
  | .vneg hob => Sys2Proof.Machine.execVneg hob s
  | .vsign hob => Sys2Proof.Machine.execVsign hob s
  | .vcmp hob => Sys2Proof.Machine.execVcmp hob s
  | .vsel hob => Sys2Proof.Machine.execVsel hob s
  | .vand hob => Sys2Proof.Machine.execVand hob s
  | .vor hob => Sys2Proof.Machine.execVor hob s
  | .vxor hob => Sys2Proof.Machine.execVxor hob s
  | .vsplat hob => Sys2Proof.Machine.execVsplat hob s
  | .vperm hob => Sys2Proof.Machine.execVperm hob s
  | .vext hob => Sys2Proof.Machine.execVext hob s
  | .vredsum hob => Sys2Proof.Machine.execVredsum hob s
  | .vargmax hob => Sys2Proof.Machine.execVargmax hob s
  | .vlerp hob => Sys2Proof.Machine.execVlerp hob s
  | .vema2 hob => Sys2Proof.Machine.execVema2 hob s
  | .vdivsq hob => Sys2Proof.Machine.execVdivsq hob s
  | .vaxpby hob => Sys2Proof.Machine.execVaxpby hob s
  | .vdiv hob => Sys2Proof.Machine.execVdiv hob s
  | .vsqrt hob => Sys2Proof.Machine.execVsqrt hob s
  | .vrsqrt hob => Sys2Proof.Machine.execVrsqrt hob s
  | .vlog2 hob => Sys2Proof.Machine.execVlog2 hob s
  | .vexp2 hob => Sys2Proof.Machine.execVexp2 hob s
  | .vcvt hob => Sys2Proof.Machine.execVcvt hob s
  | .vcvts16 hob => Sys2Proof.Machine.execVcvts16 hob s
  | .vmxsc hob => Sys2Proof.Machine.execVmxsc hob s
  | .hrnd hob => Sys2Proof.Machine.execHrnd hob s
  | .hgumb hob => Sys2Proof.Machine.execHgumb hob s
  | .accwApply entry => Sys2Proof.Machine.execAccwApply entry s
  | .fenceCounted entry => Sys2Proof.Machine.execFenceCounted entry s
  | .closeDeadlineExpires ctx => Sys2Proof.Machine.execCloseDeadlineExpires ctx s
  | .closePoint ctx => Sys2Proof.Machine.execClosePoint ctx s
  | .retagSweepDone ctx => Sys2Proof.Machine.execRetagSweepDone ctx s
  | .sumsCollected ctx => Sys2Proof.Machine.execSumsCollected ctx s
  | .normTimeout ctx => Sys2Proof.Machine.execNormTimeout ctx s
  | .ashDrainRecord ctx => Sys2Proof.Machine.execAshDrainRecord ctx s
  | .treadBufferAllocated tread => Sys2Proof.Machine.execTreadBufferAllocated tread s
  | .treadResponse tread => Sys2Proof.Machine.execTreadResponse tread s
  | .samplerStart ctx => Sys2Proof.Machine.execSamplerStart ctx s
  | .refreshInterval die pos grp => Sys2Proof.Machine.execRefreshInterval die pos grp s
  | .thermalSensorStrobe die val => Sys2Proof.Machine.execThermalSensorStrobe die val s
  | .rampBoundary ns => Sys2Proof.Machine.execRampBoundary ns s
  | .requestAged die pos idx => Sys2Proof.Machine.execRequestAged die pos idx s
  | .calibrationDue die pos => Sys2Proof.Machine.execCalibrationDue die pos s
  | .calibrationDeferralBound die pos => Sys2Proof.Machine.execCalibrationDeferralBound die pos s
  | .tsvRetrainDue die grp => Sys2Proof.Machine.execTsvRetrainDue die grp s
  | .tsvRetrainDone die => Sys2Proof.Machine.execTsvRetrainDone die s
  | .tsvNak die grp weftBus unit fold => Sys2Proof.Machine.execTsvNak die grp weftBus unit fold s
  | .scrubQueueService die pos => Sys2Proof.Machine.execScrubQueueService die pos s
  | .scrubVerifyRead die pos => Sys2Proof.Machine.execScrubVerifyRead die pos s
  | .reinitRequestsSettled part => Sys2Proof.Machine.execReinitRequestsSettled part s
  | .reinitFillDone part => Sys2Proof.Machine.execReinitFillDone part s
  | .fbMboxGo rq mbox => Sys2Proof.Machine.execFbMboxGo rq mbox s
  | .rwfWrite mbox => Sys2Proof.Machine.execRwfWrite mbox s
  | .partReinit mbox => Sys2Proof.Machine.execPartReinit mbox s
  | .regionAssign mbox => Sys2Proof.Machine.execRegionAssign mbox s
  | .sparePair mbox => Sys2Proof.Machine.execSparePair mbox s
  | .tsvRetrain mbox => Sys2Proof.Machine.execTsvRetrain mbox s
  | .govLimit mbox => Sys2Proof.Machine.execGovLimit mbox s
  | .calSet mbox => Sys2Proof.Machine.execCalSet mbox s
  | .faultClear mbox => Sys2Proof.Machine.execFaultClear mbox s
  | .recover mbox => Sys2Proof.Machine.execRecover mbox s
  | .testNow mbox => Sys2Proof.Machine.execTestNow mbox s
  | .pkeySet mbox => Sys2Proof.Machine.execPkeySet mbox s
  | .keySet mbox => Sys2Proof.Machine.execKeySet mbox s
  | .versionOverride mbox => Sys2Proof.Machine.execVersionOverride mbox s
  | .lockoutEnd mbox => Sys2Proof.Machine.execLockoutEnd mbox s
  | .counterReservationWrite ok => Sys2Proof.Machine.execCounterReservationWrite ok s
  | .refclkWindow count gap => Sys2Proof.Machine.execRefclkWindow count gap s
  | .portPllUnlock flue => Sys2Proof.Machine.execPortPllUnlock flue s
  | .foscTrimWindow count => Sys2Proof.Machine.execFoscTrimWindow count s
  | .powerGoodFall input => Sys2Proof.Machine.execPowerGoodFall input s
  | .powerGoodRise input => Sys2Proof.Machine.execPowerGoodRise input s
  | .coldReset low mgAddr testMode => Sys2Proof.Machine.execColdReset low mgAddr testMode s
  | .stackTrained answer releases baseOk => Sys2Proof.Machine.execStackTrained answer releases baseOk s
  | .flashProbe ok => Sys2Proof.Machine.execFlashProbe ok s
  | .imageChecks img => Sys2Proof.Machine.execImageChecks img s
  | .erase rq => Sys2Proof.Machine.execErase rq s
  | .program rq off => Sys2Proof.Machine.execProgram rq off s
  | .markTrial rq => Sys2Proof.Machine.execMarkTrial rq s
  | .flashOperationDone ok => Sys2Proof.Machine.execFlashOperationDone ok s
  | .nextSlot slotB => Sys2Proof.Machine.execNextSlot slotB s
  | .libLoadEdge img => Sys2Proof.Machine.execLibLoadEdge img s
  | .obsTimeProbe rq => Sys2Proof.Machine.execObsTimeProbe rq s
  | .arm rq => Sys2Proof.Machine.execArm rq s
  | .clrMax rq => Sys2Proof.Machine.execClrMax rq s
  | .freeze rq => Sys2Proof.Machine.execFreeze rq s
  | .run rq => Sys2Proof.Machine.execRun rq s
  | .obsPmcCfgWrite rq len hi val => Sys2Proof.Machine.execObsPmcCfgWrite rq len hi val s
  | .obsSootCfgWrite rq len hi val => Sys2Proof.Machine.execObsSootCfgWrite rq len hi val s
  | .obsSootRdWrite rq len hi val => Sys2Proof.Machine.execObsSootRdWrite rq len hi val s
  | .prtMark rq part len val => Sys2Proof.Machine.execPrtMark rq part len val s
  | .now rq => Sys2Proof.Machine.execNow rq s
  | .sootDrain ring timer => Sys2Proof.Machine.execSootDrain ring timer s
  | .build rq => Sys2Proof.Machine.execBuild rq s
  | .wfgBuildDone us => Sys2Proof.Machine.execWfgBuildDone us s
  | .release rq => Sys2Proof.Machine.execRelease rq s
  | .take rq => Sys2Proof.Machine.execTake rq s
  | .faultEventReport chan => Sys2Proof.Machine.execFaultEventReport chan s
  | .faultRecordCommit ok => Sys2Proof.Machine.execFaultRecordCommit ok s
  | .fallbackRetry ok => Sys2Proof.Machine.execFallbackRetry ok s
  | .scanPatternRead ok => Sys2Proof.Machine.execScanPatternRead ok s
  | .scanTestDone mask checker us => Sys2Proof.Machine.execScanTestDone mask checker us s
  | .mgmtAccess op off val => Sys2Proof.Machine.execMgmtAccess op off val s
  | .setdasa addr => Sys2Proof.Machine.execSetdasa addr s
  | .entdaa addr => Sys2Proof.Machine.execEntdaa addr s
  | .samplePreload val => Sys2Proof.Machine.execSamplePreload val s
  | .columnSlotGrant die pos pullIn => Sys2Proof.Machine.execColumnSlotGrant die pos pullIn s
  | .flitSent flue module => Sys2Proof.Machine.execFlitSent flue module s
  | .resyncReadDone record => Sys2Proof.Machine.execResyncReadDone record s
  | .tsvRetrainWaitEnd die => Sys2Proof.Machine.execTsvRetrainWaitEnd die s
  | .violPeriodBoundary => Sys2Proof.Machine.execViolPeriodBoundary s
  | .markLost => Sys2Proof.Machine.execMarkLost s
  | .firingSelect => Sys2Proof.Machine.execFiringSelect s
  | .launchComplete => Sys2Proof.Machine.execLaunchComplete s
  | .heldStopSignal => Sys2Proof.Machine.execHeldStopSignal s
  | .stopComplete => Sys2Proof.Machine.execStopComplete s
  | .stopWatchdogExpires => Sys2Proof.Machine.execStopWatchdogExpires s
  | .restoreComplete => Sys2Proof.Machine.execRestoreComplete s
  | .quantumExpires => Sys2Proof.Machine.execQuantumExpires s
  | .testDeferralBound => Sys2Proof.Machine.execTestDeferralBound s
  | .samplerDone => Sys2Proof.Machine.execSamplerDone s
  | .refreshHotExit => Sys2Proof.Machine.execRefreshHotExit s
  | .draughtRelease => Sys2Proof.Machine.execDraughtRelease s
  | .sweepVisit => Sys2Proof.Machine.execSweepVisit s
  | .chunkCopied => Sys2Proof.Machine.execChunkCopied s
  | .forcedChunk => Sys2Proof.Machine.execForcedChunk s
  | .switchover => Sys2Proof.Machine.execSwitchover s
  | .sootRecordWrite => Sys2Proof.Machine.execSootRecordWrite s
  | .damperTick => Sys2Proof.Machine.execDamperTick s
  | .mailboxEvaluation => Sys2Proof.Machine.execMailboxEvaluation s
  | .calendarTick => Sys2Proof.Machine.execCalendarTick s
  | .governorStep => Sys2Proof.Machine.execGovernorStep s
  | .thermalHoldEnd => Sys2Proof.Machine.execThermalHoldEnd s
  | .firebackSramUe => Sys2Proof.Machine.execFirebackSramUe s
  | .lockstepMismatch => Sys2Proof.Machine.execLockstepMismatch s
  | .refclkMissing => Sys2Proof.Machine.execRefclkMissing s
  | .rootPllUnlock => Sys2Proof.Machine.execRootPllUnlock s
  | .rootRelockAttempt => Sys2Proof.Machine.execRootRelockAttempt s
  | .rootPllLock => Sys2Proof.Machine.execRootPllLock s
  | .retainRequest => Sys2Proof.Machine.execRetainRequest s
  | .serviceRequest => Sys2Proof.Machine.execServiceRequest s
  | .retainEnter => Sys2Proof.Machine.execRetainEnter s
  | .retainEntryTimeout => Sys2Proof.Machine.execRetainEntryTimeout s
  | .tilesReady => Sys2Proof.Machine.execTilesReady s
  | .signedPartRead => Sys2Proof.Machine.execSignedPartRead s
  | .stokersReady => Sys2Proof.Machine.execStokersReady s
  | .stokerLoadTimeout => Sys2Proof.Machine.execStokerLoadTimeout s
  | .arrayInitDone => Sys2Proof.Machine.execArrayInitDone s
  | .tablesLoaded => Sys2Proof.Machine.execTablesLoaded s
  | .flashArmExpires => Sys2Proof.Machine.execFlashArmExpires s
  | .confirm => Sys2Proof.Machine.execConfirm s
  | .libLoad => Sys2Proof.Machine.execLibLoad s
  | .historyHourlyWrite => Sys2Proof.Machine.execHistoryHourlyWrite s
  | .scanTestDue => Sys2Proof.Machine.execScanTestDue s
  | .scanTestStart => Sys2Proof.Machine.execScanTestStart s
  | .scanSegmentDone => Sys2Proof.Machine.execScanSegmentDone s
  | .rstdaa => Sys2Proof.Machine.execRstdaa s
  | .enec => Sys2Proof.Machine.execEnec s
  | .disec => Sys2Proof.Machine.execDisec s
  | .getstatus => Sys2Proof.Machine.execGetstatus s
  | .alertResponse => Sys2Proof.Machine.execAlertResponse s
  | .bypass => Sys2Proof.Machine.execBypass s
  | .idcode => Sys2Proof.Machine.execIdcode s
  | .selfCheckPassed => Sys2Proof.Machine.execSelfCheckPassed s

end Sys2Proof.Machine
end

