-- ==== Sys2Proof/WellFormed.lean ====
section
/-! DEFINITION. What makes a command well formed: each operand lies in the range that the manual gives it, and a packet or
frame carries its row's opcode. -/

namespace Sys2Proof

/-- A requester names a module and agent of the hearth, or a peer-table entry, and a partition (R348, R374, R445). -/
def Requester.wf : Requester → Bool
  | .hearth module src part => decide (module < 16) && decide (src < 256) && decide (part < 1024)
  | .flue peer part => decide (peer < 4096) && decide (part < 1024)
  | .mgmt => true

/-- A parameter message carries a 16-bit release and agents of the hearth (R1, R348, R361). -/
def ParamMsg.wf (m : ParamMsg) : Bool := decide (m.release < 65536) && m.srcs.all fun x => decide (x < 256)

/-- A flit has seven slots (R349). -/
def Flit.wf (f : Flit) : Bool := f.slots.length == 7

/-- A power-good input exists (R508). -/
def PgInput.wf : PgInput → Bool
  | .tile die => decide (die < 16)
  | _ => true

/-- A unit on a TSV channel or weft bus names a hob, a stream kind or a requester that exists (R306). -/
def TsvUnit.wf : TsvUnit → Bool
  | .stream kind hob _ => decide (kind < 3) && decide (hob < 512)
  | .register rq off => rq.wf && decide (off < 0x2000000)
  | .context hob _ => decide (hob < 512)
  | .launch hob _ _ => decide (hob < 512)
  | .sums hob => decide (hob < 512)
  | _ => true

/-- The opcode byte of a header (R353, R376). -/
def opcIs (hdr : BitVec 256) (opc : Nat) : Bool := hdr.toNat % 256 == opc

/-- A command is well formed. -/
def Instr.wf : Instr → Bool
  | .registerWrite rq off len _ => rq.wf && decide (off < 0x2000000) && (len == 4 || len == 8)
  | .lowHalfRead rq off => rq.wf && decide (off < 0x2000000)
  | .streamedRead rq off => rq.wf && decide (off < 0x2000000)
  | .captureRead rq off => rq.wf && decide (off < 0x2000000)
  | .hobRegisterRead rq off len => rq.wf && decide (off < 0x2000000) && (len == 4 || len == 8)
  | .hedSeedWrite rq off len _ => rq.wf && decide (off < 0x2000000) && (len == 4 || len == 8)
  | .rd _ module hdr data => decide (module < 16) && opcIs hdr 0x01 && decide (data.length ≤ 2)
  | .wr _ module hdr data => decide (module < 16) && opcIs hdr 0x02 && decide (data.length ≤ 2)
  | .wrbe _ module hdr data => decide (module < 16) && opcIs hdr 0x03 && decide (data.length ≤ 2)
  | .accw _ module hdr data => decide (module < 16) && opcIs hdr 0x04 && decide (data.length ≤ 2)
  | .cfence _ module hdr data => decide (module < 16) && opcIs hdr 0x05 && decide (data.length ≤ 2)
  | .tread _ module hdr data => decide (module < 16) && opcIs hdr 0x06 && decide (data.length ≤ 2)
  | .fence _ module hdr data => decide (module < 16) && opcIs hdr 0x07 && decide (data.length ≤ 2)
  | .fenceComplete _ => true
  | .db _ module hdr data => decide (module < 16) && opcIs hdr 0x08 && decide (data.length ≤ 2)
  | .damperAdmit chan => decide (chan < 0x10040)
  | .flitReceived _ module flit => decide (module < 16) && flit.wf
  | .ack _ module hdr => decide (module < 16) && opcIs hdr 0xF1
  | .nak _ module hdr => decide (module < 16) && opcIs hdr 0xF2
  | .credit _ module hdr => decide (module < 16) && opcIs hdr 0xF0
  | .linkRetryTimer _ module => decide (module < 16)
  | .trainTimeout _ module => decide (module < 16)
  | .ucieLinkActive _ module _ repaired => decide (module < 16) && decide (repaired < 256)
  | .parameterMessage _ module msg => decide (module < 16) && msg.wf
  | .paramTimeout _ module => decide (module < 16)
  | .initialCreditTimeout _ module => decide (module < 16)
  | .laneFailure _ module => decide (module < 16)
  | .retrainTimeout _ module => decide (module < 16)
  | .moduleRetry rq _ => rq.wf
  | .responseCreditStall _ module => decide (module < 16)
  | .lightInputChange module _ _ => decide (module < 16)
  | .attachSettled module => decide (module < 16)
  | .flMarkPulse _ => true
  | .anchorGained peer => decide (peer < 4096)
  | .hello module hdr data => decide (module < 16) && opcIs hdr 0xA0 && decide (data.length ≤ 32)
  | .helloAck module hdr data => decide (module < 16) && opcIs hdr 0xA1 && decide (data.length ≤ 32)
  | .bye module hdr data => decide (module < 16) && opcIs hdr 0xA2 && decide (data.length ≤ 32)
  | .ping module hdr data => decide (module < 16) && opcIs hdr 0xA3 && decide (data.length ≤ 32)
  | .pong module hdr data => decide (module < 16) && opcIs hdr 0xA4 && decide (data.length ≤ 32)
  | .helloTimeout peer => decide (peer < 4096)
  | .unreachableRetry peer => decide (peer < 4096)
  | .keepaliveIdle peer => decide (peer < 4096)
  | .sessionExpiry peer => decide (peer < 4096)
  | .norm module hdr data => decide (module < 16) && opcIs hdr 0xB0 && decide (data.length ≤ 32)
  | .fanOpen module hdr data => decide (module < 16) && opcIs hdr 0xC0 && decide (data.length ≤ 32)
  | .fanData module hdr data => decide (module < 16) && opcIs hdr 0xC1 && decide (data.length ≤ 32)
  | .fanEnd module hdr data => decide (module < 16) && opcIs hdr 0xC2 && decide (data.length ≤ 32)
  | .fanFinal module hdr data => decide (module < 16) && opcIs hdr 0xC3 && decide (data.length ≤ 32)
  | .recant module hdr data => decide (module < 16) && opcIs hdr 0xC4 && decide (data.length ≤ 32)
  | .fanState module hdr data => decide (module < 16) && opcIs hdr 0xC5 && decide (data.length ≤ 32)
  | .streamEndWait stream => decide (stream < 512)
  | .twinHdr module hdr data => decide (module < 16) && opcIs hdr 0xD0 && decide (data.length ≤ 32)
  | .twinData module hdr data => decide (module < 16) && opcIs hdr 0xD1 && decide (data.length ≤ 32)
  | .twinDigest module hdr data => decide (module < 16) && opcIs hdr 0xD2 && decide (data.length ≤ 32)
  | .smokeData module hdr data => decide (module < 16) && opcIs hdr 0xD8 && decide (data.length ≤ 32)
  | .smokeMark module hdr data => decide (module < 16) && opcIs hdr 0xD9 && decide (data.length ≤ 32)
  | .twinPairTimeout record => decide (record < 64)
  | .digestWaitTimeout record => decide (record < 64)
  | .twinDataEndWait record => decide (record < 64)
  | .replayLaunch record => decide (record < 64)
  | .replayGatePass hob => decide (hob < 512)
  | .nonspecFanoutReadDone stream => decide (stream < 16)
  | .snapshotReadDone stream => decide (stream < 16)
  | .push rq spool tail => rq.wf && decide (spool < 1048576) && decide (tail < 4294967296)
  | .consume rq spool count => rq.wf && decide (spool < 1048576) && decide (count < 4294967296)
  | .abort rq spool seq => rq.wf && decide (spool < 1048576) && decide (seq < 4294967296)
  | .creelDescriptorRead spool => decide (spool < 1048576)
  | .pickFetch spool => decide (spool < 1048576)
  | .completionRecord _ => true
  | .nopPick _ => true
  | .fire _ => true
  | .regionMode _ => true
  | .regionInit _ => true
  | .registerProgram _ => true
  | .unregisterProgram _ => true
  | .stepConfig _ => true
  | .stepRetire _ => true
  | .stepClose _ => true
  | .sample _ => true
  | .fanConfig _ => true
  | .rxConfig _ => true
  | .twinPair _ => true
  | .twinUnpair _ => true
  | .twinResync _ => true
  | .smokeConfig _ => true
  | .smokeSnapshot _ => true
  | .enable rq part => rq.wf && decide (part < 1024)
  | .disable rq part => rq.wf && decide (part < 1024)
  | .resume rq part => rq.wf && decide (part < 1024)
  | .regionModeDoorbell rq region len => rq.wf && decide (region < 8192) && (len == 4 || len == 8)
  | .modeTimerExpires region => decide (region < 8192)
  | .modeDrainDone region => decide (region < 8192)
  | .saveComplete ns => decide (ns < 4294967296)
  | .firingCommit ns => decide (ns < 4294967296)
  | .hobLoadLands hob vreg => decide (hob < 512) && decide (vreg < 32)
  | .nop hob => decide (hob < 512)
  | .ld hob => decide (hob < 512)
  | .st hob => decide (hob < 512)
  | .ldhb hob => decide (hob < 512)
  | .ldhs hob => decide (hob < 512)
  | .sths hob => decide (hob < 512)
  | .ainit hob => decide (hob < 512)
  | .rpush hob => decide (hob < 512)
  | .smovi hob => decide (hob < 512)
  | .sadd hob => decide (hob < 512)
  | .saddi hob => decide (hob < 512)
  | .ssub hob => decide (hob < 512)
  | .smul hob => decide (hob < 512)
  | .sand hob => decide (hob < 512)
  | .sor hob => decide (hob < 512)
  | .sxor hob => decide (hob < 512)
  | .sshl hob => decide (hob < 512)
  | .sshr hob => decide (hob < 512)
  | .scmp hob => decide (hob < 512)
  | .scmpi hob => decide (hob < 512)
  | .srdp hob => decide (hob < 512)
  | .saddw hob => decide (hob < 512)
  | .br hob => decide (hob < 512)
  | .loop hob => decide (hob < 512)
  | .endl hob => decide (hob < 512)
  | .ckpt hob => decide (hob < 512)
  | .halt hob => decide (hob < 512)
  | .setrm hob => decide (hob < 512)
  | .setp hob => decide (hob < 512)
  | .rdx hob => decide (hob < 512)
  | .clrx hob => decide (hob < 512)
  | .vadd hob => decide (hob < 512)
  | .vsub hob => decide (hob < 512)
  | .vmul hob => decide (hob < 512)
  | .vfma hob => decide (hob < 512)
  | .vfnma hob => decide (hob < 512)
  | .vmax hob => decide (hob < 512)
  | .vmin hob => decide (hob < 512)
  | .vabs hob => decide (hob < 512)
  | .vneg hob => decide (hob < 512)
  | .vsign hob => decide (hob < 512)
  | .vcmp hob => decide (hob < 512)
  | .vsel hob => decide (hob < 512)
  | .vand hob => decide (hob < 512)
  | .vor hob => decide (hob < 512)
  | .vxor hob => decide (hob < 512)
  | .vsplat hob => decide (hob < 512)
  | .vperm hob => decide (hob < 512)
  | .vext hob => decide (hob < 512)
  | .vredsum hob => decide (hob < 512)
  | .vargmax hob => decide (hob < 512)
  | .vlerp hob => decide (hob < 512)
  | .vema2 hob => decide (hob < 512)
  | .vdivsq hob => decide (hob < 512)
  | .vaxpby hob => decide (hob < 512)
  | .vdiv hob => decide (hob < 512)
  | .vsqrt hob => decide (hob < 512)
  | .vrsqrt hob => decide (hob < 512)
  | .vlog2 hob => decide (hob < 512)
  | .vexp2 hob => decide (hob < 512)
  | .vcvt hob => decide (hob < 512)
  | .vcvts16 hob => decide (hob < 512)
  | .vmxsc hob => decide (hob < 512)
  | .hrnd hob => decide (hob < 512)
  | .hgumb hob => decide (hob < 512)
  | .accwApply _ => true
  | .fenceCounted _ => true
  | .closeDeadlineExpires ctx => decide (ctx < 64)
  | .closePoint ctx => decide (ctx < 64)
  | .retagSweepDone ctx => decide (ctx < 64)
  | .sumsCollected ctx => decide (ctx < 64)
  | .normTimeout ctx => decide (ctx < 64)
  | .ashDrainRecord ctx => decide (ctx < 64)
  | .treadBufferAllocated _ => true
  | .treadResponse _ => true
  | .samplerStart ctx => decide (ctx < 16)
  | .refreshInterval die pos grp => decide (die < 16) && decide (pos < 32) && decide (grp < 4)
  | .thermalSensorStrobe die _ => decide (die < 16)
  | .rampBoundary ns => decide (ns < 4294967296)
  | .requestAged die pos _ => decide (die < 16) && decide (pos < 32)
  | .calibrationDue die pos => decide (die < 16) && decide (pos < 32)
  | .calibrationDeferralBound die pos => decide (die < 16) && decide (pos < 32)
  | .tsvRetrainDue die grp => decide (die < 16) && decide (grp < 34)
  | .tsvRetrainDone die => decide (die < 16)
  | .tsvNak die grp _ unit fold => decide (die < 16) && decide (grp < 34) && unit.wf && decide (fold < 0x1000000000000)
  | .scrubQueueService die pos => decide (die < 16) && decide (pos < 32)
  | .scrubVerifyRead die pos => decide (die < 16) && decide (pos < 32)
  | .reinitRequestsSettled part => decide (part < 1024)
  | .reinitFillDone part => decide (part < 1024)
  | .fbMboxGo rq mbox => rq.wf && decide (mbox ≤ 1024)
  | .rwfWrite mbox => decide (mbox ≤ 1024)
  | .partReinit mbox => decide (mbox ≤ 1024)
  | .regionAssign mbox => decide (mbox ≤ 1024)
  | .sparePair mbox => decide (mbox ≤ 1024)
  | .tsvRetrain mbox => decide (mbox ≤ 1024)
  | .govLimit mbox => decide (mbox ≤ 1024)
  | .calSet mbox => decide (mbox ≤ 1024)
  | .faultClear mbox => decide (mbox ≤ 1024)
  | .recover mbox => decide (mbox ≤ 1024)
  | .testNow mbox => decide (mbox ≤ 1024)
  | .pkeySet mbox => decide (mbox ≤ 1024)
  | .keySet mbox => decide (mbox ≤ 1024)
  | .versionOverride mbox => decide (mbox ≤ 1024)
  | .lockoutEnd mbox => decide (mbox ≤ 1024)
  | .counterReservationWrite _ => true
  | .refclkWindow count _ => decide (count < 4294967296)
  | .portPllUnlock _ => true
  | .foscTrimWindow count => decide (count < 4294967296)
  | .powerGoodFall input => input.wf
  | .powerGoodRise input => input.wf
  | .coldReset _ mgAddr _ => decide (mgAddr < 128)
  | .stackTrained answer _ _ => decide (answer < 65536)
  | .flashProbe _ => true
  | .imageChecks _ => true
  | .erase rq => rq.wf
  | .program rq off => rq.wf && decide (off < 0x2000000)
  | .markTrial rq => rq.wf
  | .flashOperationDone _ => true
  | .nextSlot _ => true
  | .libLoadEdge _ => true
  | .obsTimeProbe rq => rq.wf
  | .arm rq => rq.wf
  | .clrMax rq => rq.wf
  | .freeze rq => rq.wf
  | .run rq => rq.wf
  | .obsPmcCfgWrite rq len _ _ => rq.wf && (len == 4 || len == 8)
  | .obsSootCfgWrite rq len _ _ => rq.wf && (len == 4 || len == 8)
  | .obsSootRdWrite rq len _ _ => rq.wf && (len == 4 || len == 8)
  | .prtMark rq part len _ => rq.wf && decide (part < 1024) && (len == 4 || len == 8)
  | .now rq => rq.wf
  | .sootDrain ring _ => decide (ring < 16)
  | .build rq => rq.wf
  | .wfgBuildDone us => decide (us < 4294967296)
  | .release rq => rq.wf
  | .take rq => rq.wf
  | .faultEventReport chan => decide (chan < 16)
  | .faultRecordCommit _ => true
  | .fallbackRetry _ => true
  | .scanPatternRead _ => true
  | .scanTestDone mask _ us => decide (mask < 4294967296) && decide (us < 4294967296)
  | .mgmtAccess _ off _ => decide (off < 0x2000000)
  | .setdasa addr => decide (addr < 128)
  | .entdaa addr => decide (addr < 128)
  | .samplePreload _ => true
  | .columnSlotGrant die pos _ => decide (die < 16) && decide (pos < 32)
  | .flitSent _ module => decide (module < 16)
  | .resyncReadDone record => decide (record < 64)
  | .tsvRetrainWaitEnd die => decide (die < 16)
  | .violPeriodBoundary => true
  | .markLost => true
  | .firingSelect => true
  | .launchComplete => true
  | .heldStopSignal => true
  | .stopComplete => true
  | .stopWatchdogExpires => true
  | .restoreComplete => true
  | .quantumExpires => true
  | .testDeferralBound => true
  | .samplerDone => true
  | .refreshHotExit => true
  | .draughtRelease => true
  | .sweepVisit => true
  | .chunkCopied => true
  | .forcedChunk => true
  | .switchover => true
  | .sootRecordWrite => true
  | .damperTick => true
  | .mailboxEvaluation => true
  | .calendarTick => true
  | .governorStep => true
  | .thermalHoldEnd => true
  | .firebackSramUe => true
  | .lockstepMismatch => true
  | .refclkMissing => true
  | .rootPllUnlock => true
  | .rootRelockAttempt => true
  | .rootPllLock => true
  | .retainRequest => true
  | .serviceRequest => true
  | .retainEnter => true
  | .retainEntryTimeout => true
  | .tilesReady => true
  | .signedPartRead => true
  | .stokersReady => true
  | .stokerLoadTimeout => true
  | .arrayInitDone => true
  | .tablesLoaded => true
  | .flashArmExpires => true
  | .confirm => true
  | .libLoad => true
  | .historyHourlyWrite => true
  | .scanTestDue => true
  | .scanTestStart => true
  | .scanSegmentDone => true
  | .rstdaa => true
  | .enec => true
  | .disec => true
  | .getstatus => true
  | .alertResponse => true
  | .bypass => true
  | .idcode => true
  | .selfCheckPassed => true

end Sys2Proof
end

