-- ==== Sys2Proof/Safety.lean ====
section
/-! DEFINITION. The terms that the statements use: what it is for a hob to issue an instruction, what a lane instruction
leaves, and the invariants of the block. -/

namespace Sys2Proof.Safety

open Sys2Proof.Machine

/-! ### Hobs -/

/-- Hob `n` issues instruction word `w` for firing `x`, numbered `k`: the firing holds the hobs and they execute (R131), it is not
one of the library's, whose words are not the spec's (log entry 42), the hob lies in its rectangle and runs, the word at its program
counter is `w` and correctable (R72) and a registered program may hold it (R125), no scalar source is uncorrectable (R72), and no
vector register of the word awaits a load (R68, R94). -/
abbrev Issues (s : State) (n w k : Nat) (x : Firing) : Prop :=
  curFiring s = some (k, x) ∧ executing x = true ∧ isLibrary x.f = false ∧ inRect x.f n = true ∧ (hobOf s n).st = .run
  ∧ (hobOf s n).imemUe.contains (hobOf s n).pc = false
  ∧ (hobOf s n).imem[(hobOf s n).pc]?.map (·.toNat) = some w ∧ wordOk w = true
  ∧ (sReads w).any ((hobOf s n).srUe.contains ·) = false
  ∧ (vTouched w).any ((hobPending s n).contains ·) = false

/-- Hob `n` as its instruction `w` finds it: corrected errors counted, uncorrectable vector registers poisoned (R72). -/
abbrev found (s : State) (n w : Nat) : Hob := ready (hobOf s n) w

/-- The state with hob `n` replaced, and nothing else changed. -/
def afterHob (s : State) (n : Nat) (h : Hob) : State :=
  { s with fir := { s.fir with hobs := smSet s.fir.hobs n h } }

/-- The hob with scalar register `i` written, and with it its errors gone (R72). -/
def scalarSet (h : Hob) (i : Nat) (v : W32) : Hob :=
  { h with
    sr := smSet h.sr i v
    srUe := h.srUe.filter (· != i)
    soft := { h.soft with sr := h.soft.sr.filter (· != i) } }

/-- The hob with word `i` of its store written, and with it the word's errors gone (R72). -/
def storeSet (h : Hob) (i : Nat) (d : Datum) : Hob :=
  { h with
    store := smSet h.store i d
    stUe := h.stUe.filter (· != i)
    soft := { h.soft with st := h.soft.st.filter (· != i) } }

/-- How many words of opcode `o` lie at positions from `a` up to, but not including, `b`. -/
def countOpc (ws : List W64) (o a b : Nat) : Nat := ((ws.take b).drop a).countP fun v => iOpc v.toNat == o

/-- The ENDL at `e` closes the LOOP at `p`: the loops between them close where they open (R122). -/
def Matching (ws : List W64) (p e : Nat) : Prop :=
  p < e ∧ ws[p]?.map (fun v => iOpc v.toNat) = some 0x31 ∧ ws[e]?.map (fun v => iOpc v.toNat) = some 0x32
  ∧ countOpc ws 0x31 (p + 1) e = countOpc ws 0x32 (p + 1) e
  ∧ ∀ q, p < q → q ≤ e → countOpc ws 0x32 (p + 1) q ≤ countOpc ws 0x31 (p + 1) q

/-- Element `k`, in format `c`, of the group of vector registers from `r` (R70, R71). -/
def laneEl (h : Hob) (c r k : Nat) : Nat :=
  bitsAt (vReg h (r + k / elsPer c)).bits.toNat (k % elsPer c * elBits c) (elBits c)

/-- Lane `k` takes part: P is clear, or the lane's bit of the predicate mask, `bit k`, is set (R120). -/
def live (w : Nat) (bit : Nat → Bool) (k : Nat) : Bool := !(iP w) || bit k

/-- A lane that takes part writes element `e` of the destination group: lane `k` writes element `pos + k`. -/
def writesEl (w : Nat) (bit : Nat → Bool) (lanes pos e : Nat) : Bool :=
  decide (pos ≤ e) && (decide (e < pos + lanes) && live w bit (e - pos))

/-- Some element of register `i` of the destination group is left alone. -/
def keeps (w : Nat) (bit : Nat → Bool) (lanes pos dst i : Nat) : Bool :=
  (List.range (elsPer dst)).any fun j => !(writesEl w bit lanes pos (i * elsPer dst + j))

/-- What a lane instruction `w` of hob `n` leaves (R108, R109, R120): from `s` it goes to `t`; it reads the vector registers
`srcs`, writes `cnt` registers of format `dst` from VD, and has `lanes` lanes, with the predicate bits `bit`, which write the
elements from `pos`; lane `k` gives the element and the flags `fn k`; `ev` Heddle evaluations are charged with its energy
(R286). -/
def LaneEffectAt (s t : State) (n w : Nat) (srcs : List Nat) (dst cnt lanes pos ev : Nat) (bit : Nat → Bool)
    (fn : Nat → Nat × Nat) : Prop :=
  let h := found s n w
  let h' := hobOf t n
  t = chargeLane (afterHob s n h') (1 + ev)
  ∧ h' = { h with pc := h.pc + 1, vr := h'.vr, sticky := h'.sticky }
  ∧ (∀ r, r < iVD w ∨ iVD w + cnt ≤ r → vReg h' r = vReg h r)
  ∧ (srcs.any (fun r => (vReg h r).poison) = true →
      (∀ i, i < cnt → vReg h' (iVD w + i) = ⟨0, true⟩) ∧ h'.sticky = h.sticky ||| 0x00200020)
  ∧ (srcs.any (fun r => (vReg h r).poison) = false →
      (∀ i, i < cnt → (vReg h' (iVD w + i)).poison = (keeps w bit lanes pos dst i && (vReg h (iVD w + i)).poison))
      ∧ (∀ e, e < cnt * elsPer dst → laneEl h' dst (iVD w) e =
          if (keeps w bit lanes pos dst (e / elsPer dst) && (vReg h (iVD w + e / elsPer dst)).poison) = true then 0
          else if writesEl w bit lanes pos e = true then (fn (e - pos)).1 % 2 ^ elBits dst else laneEl h dst (iVD w) e)
      ∧ ∀ i, i < 32 → h'.sticky.getLsbD i =
          (h.sticky.getLsbD i
            || (decide (i % 16 < 7) && (List.range lanes).any fun k => live w bit k && (fn k).2.testBit (i % 16))))

/-- `LaneEffectAt` with one group of predicate bits for each lane. -/
abbrev LaneEffect (s t : State) (n w : Nat) (srcs : List Nat) (dst cnt lanes pos ev : Nat) (fn : Nat → Nat × Nat) : Prop :=
  LaneEffectAt s t n w srcs dst cnt lanes pos ev (fun k => predBit (found s n w) k lanes) fn

/-- A hob that was as `h` ends its part of the firing with a status of R110: it makes no further step, the status and the firing
are counted, and the firing lists it. -/
def Ended (s t : State) (n k status : Nat) (x : Firing) (h : Hob) : Prop :=
  (hobOf t n) = { h with
    st := .ended
    endSt := status
    halts := (hobOf t n).halts
    firings := (h.firings + 1) % 2 ^ 32 }
  ∧ (firingOf t k).ended = x.ended ++ [(n, status, h.sticky, h.digest, h.stored)]
  ∧ (∀ m, m ≠ n → hobOf t m = hobOf s m) ∧ t.mem = s.mem

/-! ### Registers and ports -/

/-- The ports accept a register access of a requester: the block is in service, and the partition is ACTIVE and one that the
requester may present; the management port is always accepted (R357, R447). -/
abbrev Accepted (s : State) (rq : Requester) : Prop := rqStatus s rq = 0

/-- An access of `len` bytes at `off` that the register window takes: 4 or 8 bytes, aligned (R8). -/
abbrev Shaped (off len : Nat) : Prop := regShape off len = true

/-- What a register access that is not a read of a captured or streamed register returns: the word as it stands, without the
bits that the requester may not read. -/
def wordSeen (s : State) (rq : Requester) (off : Nat) : W64 := (wordNow s rq off).getD 0 &&& readMask s rq off

/-- The hearth port takes packet `⟨h, ds⟩` from module `m` and carries it out at once: the module is UP, the agent bound to it,
the credits held, the form, the source and the address allowed, nothing ahead of it in its channel, no fence and no order
holds it, the control words that serve it are good, it is not marked ember, and its partition holds tokens for its class (R312,
R352 to R366, R447, R454). -/
abbrev TakesAtOnce (s : State) (m : Nat) (h : BitVec 256) (ds : List Datum) : Prop :=
  modCarries s false m = true ∧ (takeCred s false m ⟨h, ds⟩).isSome = true ∧ ds.length = reqSlots h
  ∧ s.boot.st = .service ∧ s.clk.pst = .service
  ∧ shapeStatus false h = 0 ∧ s.flt.ctlStop = false ∧ (ctlOf s h).any s.flt.ctl.contains = false
  ∧ (smGet ({} : Agent) s.ports.agents (hSrc h)).bound = true ∧ (smGet ({} : Agent) s.ports.agents (hSrc h)).module = m
  ∧ srcStatus s false h = 0 ∧ reqStatus s false h = 0
  ∧ smGet [] s.ports.waitQ (chanKey false m h) = [] ∧ reqWaits s false m h s.ports.nextTxn = false
  ∧ hCls h ≠ 0 ∧ holdsTokens s (hPart h) .hearth (hCls h) = true

/-- The address lies in none of the windows of R41: it is one of memory. -/
abbrev InMemory (a : Nat) : Prop := inRegWin a = false ∧ inMaskWin a = false ∧ inStgWin a = false

/-- The request's partition has been charged for it, and no other partition's tokens or totals have changed (R452, R454). -/
def ChargedFor (s t : State) (h : BitVec 256) : Prop :=
  level (part t (hPart h)) .hearth = sat48 (level (part s (hPart h)) .hearth - reqCharge h)
  ∧ (part t (hPart h)).chHearth = ((part s (hPart h)).chHearth + reqCharge h) % 2 ^ 64
  ∧ ∀ p, p ≠ hPart h → part t p = part s p

/-- The flue takes frame `⟨h, ds⟩` from module `m` in the OPEN session of the peer of entry `k`: the module carries frames, the
credits are held, the form and the number of slots are right, it is for this block, and in its session's sequence (R376 to R381,
R395). -/
abbrev FrameTaken (s : State) (m : Nat) (h : BitVec 256) (ds : List Datum) (k : Nat) (p : Peer) : Prop :=
  modCarries s true m = true ∧ (takeCred s true m ⟨h, ds⟩).isSome = true ∧ frameForm h = true ∧ ds.length = frameSlots h
  ∧ hDpeer h = s.ports.peerId ∧ openPeer s (hSpeer h) = some (k, p)
  ∧ ∀ c, seqChan h = some c → hSseq h = smGet 0 p.rxSseq c

/-- The state in which a frame taken in sequence has its effect: its credits are taken, and its channel expects the next
number (R378). -/
def frameSeen (s : State) (m : Nat) (h : BitVec 256) (ds : List Datum) (k : Nat) : State :=
  seqNext ((takeCred s true m ⟨h, ds⟩).getD s) k h

/-- Every module of both ports but `m` of port `flue` is as it was. -/
def OthersKept (s t : State) (flue : Bool) (m : Nat) : Prop := ∀ f n, (f, n) ≠ (flue, m) → modOf t f n = modOf s f n

/-! ### The block's own engines -/

/-- No request waits in the queue of a pair for a granule of one of the places: an engine's access to them makes nothing else
happen first (R326). -/
def Unqueued (s : State) (ps : List Place) : Prop :=
  ∀ pl ∈ ps, ∀ r ∈ (pairAt s pl.die pl.pos).q, ∀ x ∈ colGrans r, x / 32 ≠ pl.loc / 32

/-! ### Picks -/

/-- Pick `n`, whose record is `x`, may start as a pick of opcode `opc`: it is fetched, and every earlier pick that its ORDER
asks for is complete (R428, R431). -/
abbrev Starts (s : State) (n opc : Nat) (x : PickR) : Prop :=
  smFind s.spl.picks n = some x ∧ x.opc = opc ∧ x.st = .fetched ∧ orderMet s x = true

/-- Pick `n` does not start as a pick of opcode `opc`: it has another opcode, has started, or waits for an earlier pick. -/
abbrev Waits (s : State) (n opc : Nat) (x : PickR) : Prop :=
  smFind s.spl.picks n = some x ∧ (x.opc ≠ opc ∨ x.st ≠ .fetched ∨ orderMet s x = false)

/-- From `s` to `t`, pick `n`, whose record was `x`, has become complete with a status, a reason and a result, its completion
record due; no other pick has changed (R331, R433). -/
def Completes (s t : State) (n : Nat) (x : PickR) (status reason : Nat) (result : List Byte) : Prop :=
  (∃ y, smFind t.spl.picks n = some y ∧ y = { x with st := .done status reason result, ret := y.ret })
  ∧ t.spl.doneQ = s.spl.doneQ ++ [n] ∧ ∀ j, j ≠ n → smFind t.spl.picks j = smFind s.spl.picks j

/-- Command `c` completes pick `n` with a status, no reason and no result, and changes nothing but the spool's count of
complete picks. -/
def OnlyCompletes (c : Instr) (s : State) (n : Nat) (x : PickR) (status : Nat) : Prop :=
  ∃ t, exec c s = .next t ∧ Completes s t n x status 0 []
    ∧ t = { s with spl := { s.spl with creel := t.spl.creel, picks := t.spl.picks, doneQ := t.spl.doneQ } }

/-- Pick `n`, whose record was `x`, has started; no other pick has changed, and none is complete that was not. -/
def Started (s t : State) (n : Nat) (x : PickR) : Prop := t.spl = { s.spl with picks := smSet s.spl.picks n { x with st := .started } }

/-! ### Fireback commands -/

/-- Mailbox `n` holds a command of opcode `k` that has passed checks 1 to 6 and waits for its own check, and the fireback's
cores run (R470, R476). -/
abbrev Judged (s : State) (n k : Nat) : Prop :=
  (mboxOf s n).st = .evaluating ∧ (mboxOf s n).opcode = k ∧ fbRuns s = true

/-- No mailbox runs a command of opcode `k` (R476). -/
abbrev Lone (s : State) (k : Nat) : Prop := ∀ m ∈ s.fb.mbox, m.2.st = .running → m.2.opcode ≠ k

/-- The payload of the command in mailbox `n` (R474). -/
def payloadOf (s : State) (n : Nat) : List Byte := cmPayload (mboxOf s n).copy

/-- Command `c` of mailbox `n` is refused under the rule of label `lab`: its counter is taken, its status is REFUSED with the
label, and nothing else changes (R476). -/
def Refuses (c : Instr) (s : State) (n lab : Nat) : Prop :=
  exec c s = .next (setMbox (ctrTake s (cmCounter (mboxOf s n).copy)) n { mboxOf s n with st := .done, status := 7, detail := lab })

/-- From `s` to `t`, the command of mailbox `n` has been carried out: its counter is taken, its mailbox is DONE with status 0 (or
RUNNING while a sequence lasts), and no other mailbox has changed (R476). -/
def CarriedOut (s t : State) (n : Nat) (running : Bool) : Prop :=
  t.fb.ctr = cmCounter (mboxOf s n).copy
  ∧ mboxOf t n = { mboxOf s n with st := if running then .running else .done, status := 0 }
  ∧ ∀ j, j ≠ n → mboxOf t j = mboxOf s j

/-! ### Clocks and resets -/

/-- From `s` to `t` every UP module of a port has entered RETRAIN, and no other module of it has changed its state (R364, R497). -/
def Retrained (s t : State) (flue : Bool) : Prop :=
  ∀ m, m < 16 → (modOf t flue m).st = if (modOf s flue m).st = .up then .retrain else (modOf s flue m).st

/-- From `s` to `t` the root PLL has begun to coast: ROOT_READY and the locks of both port PLLs are clear, the fireback runs on FOSC,
every UP module retrains, CLOCK_POWER is a cause of FAULT_N, and the arrays, hobs, spools and partitions are untouched (R497,
R498, R500). -/
def Coasts (s t : State) : Prop :=
  t.clk = { s.clk with
    coast := true
    rootReady := false
    hpLock := false
    flLock := false
    fbMclk := false
    refReady := t.clk.refReady
    refActive := t.clk.refActive
    goodWin := t.clk.goodWin
    badWin := t.clk.badWin }
  ∧ (fbRuns s = true → bitAt t.fb.faultCause 5 = true) ∧ Retrained s t false ∧ Retrained s t true
  ∧ t = { s with
    clk := t.clk
    regs := t.regs
    ports := t.ports
    flt := t.flt
    fb := t.fb
    obs := t.obs
    mgmt := t.mgmt }

/-- What is left of `s` in `t` after a cold reset: the flash and what it persists, and nothing else of arrays, registers, spools,
firings, partitions, ports or boot (R470, R506, R508). -/
def ColdAfter (s t : State) : Prop :=
  t.mem = [] ∧ t.rmem = [] ∧ t.regs = [] ∧ t.regions = [] ∧ t.parts = [] ∧ t.spl = {} ∧ t.fir.all = [] ∧ t.fir.hobs = [] ∧ t.fir.progs = []
  ∧ t.ports.hp = [] ∧ t.ports.peers = [] ∧ t.sched = {} ∧ t.obs = {} ∧ t.mgmt = {} ∧ t.boot.st = .clocks ∧ t.boot.cold = true
  ∧ t.boot.dies = 0 ∧ t.fb.ready = false ∧ t.fb.faultCause = 0 ∧ t.fb.cal = 0 ∧ t.fb.calValid = false ∧ t.clk.gtc = 0
  ∧ t.clk.rootReady = false ∧ t.clk.pst = .service
  ∧ t.boot.dir0 = s.boot.dir0 ∧ t.boot.dir1 = s.boot.dir1 ∧ t.boot.slotAData = s.boot.slotAData
  ∧ t.boot.slotBData = s.boot.slotBData ∧ t.flt.log = s.flt.log ∧ t.flt.histPairs = s.flt.histPairs
  ∧ t.flt.histTiles = s.flt.histTiles ∧ t.warp.mapFlash = s.warp.mapFlash ∧ t.fb.flResv = s.fb.flResv
  ∧ t.fb.flKey0 = s.fb.flKey0 ∧ t.fb.flKey1 = s.fb.flKey1 ∧ t.fb.flKek = s.fb.flKek ∧ t.fb.flDigest = s.fb.flDigest
  ∧ t.fb.flOverrides = s.fb.flOverrides ∧ t.fb.flFloor = s.fb.flFloor ∧ t.fb.flBoots = s.fb.flBoots ∧ t.pending = s.pending

/-- The outward pins are at their levels of cold reset (R5, R615). -/
def PinsIdle (t : State) : Prop :=
  let p := pinsOf t
  (∀ m, p.hearthTx m = .highZ ∧ p.flueTx m = .highZ) ∧ p.bfCk = .low ∧ p.bfCsN = .high ∧ p.bfRstN = .low ∧ p.bfDq = .highZ
  ∧ p.mgSda = .highZ ∧ p.tdo = .highZ ∧ p.faultN = .highZ ∧ p.alertN = .highZ ∧ p.tsvTx = .idle

/-! ### Boot -/

/-- From `s` to `t` the boot channel has taken one event, of code `code` and with FAULT_N causes `causes`, where it had room (R559,
R564). -/
def BootTells (s t : State) (code causes : Nat) : Prop :=
  (smGet [] s.flt.chans chBoot).length < 64 →
    ∃ e, smGet [] t.flt.chans chBoot = smGet [] s.flt.chans chBoot ++ [e] ∧ e.code = code ∧ e.causes = causes

/-- From `s` to `t` boot has left the candidate slot `x`: it goes on with the other slot, or halts (R521, R523). -/
def LeftSlot (s t : State) (x : Bool) : Prop :=
  (t.boot.st = .read ∧ t.boot.trying = !x ∨ t.boot.st = .haltImage ∨ t.boot.st = .haltVersion)
  ∧ (if x then t.boot.failedB else t.boot.failedA) = true ∧ t.mem = s.mem ∧ t.regs = s.regs ∧ t.regions = s.regions

/-- The candidate slot of `s` has failed under the rule of label `rule`: its state is BAD, and the record is on its way (R521,
R523). -/
def SlotFails (s t : State) (rule : Nat) : Prop :=
  LeftSlot s t s.boot.trying ∧ t.boot.refusal = rule ∧ slotSt (dirLatest t) s.boot.trying = .bad ∧ BootTells s t 0x0401 1

end Sys2Proof.Safety
end

