-- ==== Sys2Proof/Certificates/Slice0/Obligations.lean ====
section
/-! DEFINITION. The statements of the model, for the provers. -/

open Sys2Proof Sys2Proof.Machine Sys2Proof.Safety

/-- A step carries out the command at the front of the queue; an empty queue idles. Rests on spec/00_scope.md, What the block
assumes around it. -/
def Obligations.StepTakesFrontCommand : Prop :=
  (∀ (s : State) (c : Instr) (q : List Instr), s.pending = c :: q → step s = exec c { s with pending := q })
  ∧ ∀ s : State, s.pending = [] → step s = .next s

/-- Waiting commands are carried out first in, first out, and none stops the block. Rests on spec/00_scope.md, What the block
assumes around it. -/
def Obligations.QueueRunsInOrder : Prop :=
  ∀ (l r : List Instr) (s : State) (k : Nat), s.pending = l ++ r → k ≤ l.length →
    ∃ t, Host.Core.run Sys2Proof.core k s = .next t ∧ t.pending = l.drop k ++ r

/-- Every step keeps the arrays, and the units the block reserves, in their canonical form. Rests on
spec/11_warp_and_weft.md, The warp code; spec/02_stack_organisation.md, Writing before reading. -/
def Obligations.EveryStepKeepsArraysCanonical : Prop :=
  ∀ s t : State, Memory.wf s.mem = true → Memory.wfRes s.rmem = true → step s = .next t →
    Memory.wf t.mem = true ∧ Memory.wfRes t.rmem = true

/-- At reset the arrays and the reserved units list nothing, which is their canonical form. Rests on
spec/02_stack_organisation.md, Writing before reading. -/
def Obligations.ResetArraysCanonical : Prop :=
  Memory.wf State.reset.mem = true ∧ State.reset.mem = [] ∧ Memory.wfRes State.reset.rmem = true ∧ State.reset.rmem = []

/-- Scalar arithmetic, logic and shifts of a hob write SD and step the program counter, and change nothing else. Rests on
spec/04_hob_instruction_set.md, Instructions; spec/04_hob_instruction_set.md, Operands. -/
def Obligations.HobScalarResults : Prop :=
  ∀ (s : State) (n w k : Nat) (x : Firing), Issues s n w k x →
    let h := found s n w
    let a := smGet 0 h.sr (dSA w)
    let b := smGet 0 h.sr (dSB w)
    let i : W32 := BitVec.ofNat 32 (dImm w)
    let next (v : W32) : Host.Outcome State Fault Refusal := .next (afterHob s n { scalarSet h (dSD w) v with pc := h.pc + 1 })
    (iOpc w = 0x20 → exec (.smovi n) s = next (i))
    ∧ (iOpc w = 0x21 → exec (.sadd n) s = next (a + b))
    ∧ (iOpc w = 0x22 → exec (.saddi n) s = next (a + i))
    ∧ (iOpc w = 0x23 → exec (.ssub n) s = next (a - b))
    ∧ (iOpc w = 0x24 → exec (.smul n) s = next (a * b))
    ∧ (iOpc w = 0x25 → exec (.sand n) s = next (a &&& b))
    ∧ (iOpc w = 0x26 → exec (.sor n) s = next (a ||| b))
    ∧ (iOpc w = 0x27 → exec (.sxor n) s = next (a ^^^ b))
    ∧ (iOpc w = 0x28 → exec (.sshl n) s = next (a <<< (b.toNat % 32)))
    ∧ (iOpc w = 0x29 → exec (.sshr n) s = next (a >>> (b.toNat % 32)))

/-- NOP, SRDP, SADDW, SETRM, SETP, RDX and CLRX change exactly what the instruction table gives. Rests on
spec/04_hob_instruction_set.md, Instructions; spec/04_hob_instruction_set.md, Operands; spec/04_hob_instruction_set.md,
Format, rounding and control codes. -/
def Obligations.HobMovesAndControl : Prop :=
  ∀ (s : State) (n w k : Nat) (x : Firing), Issues s n w k x →
    let h := found s n w
    let a := smGet 0 h.sr (dSA w)
    let b := smGet 0 h.sr (dSB w)
    let put (g : Hob) : Host.Outcome State Fault Refusal := .next (afterHob s n { g with pc := h.pc + 1 })
    let pair := a.toNat + (smGet 0 h.sr (dSA w + 1)).toNat * 2 ^ 32 + b.toNat
    let lp := h.lp
    let param : Nat := [lp.rank, lp.ob.getD 0 0, lp.ob.getD 1 0, lp.ob.getD 2 0, lp.ob.getD 3 0, lp.ob.getD 4 0, lp.ob.getD 5 0,
      lp.ob.getD 6 0, lp.ob.getD 7 0, lp.ix, lp.ix / 2 ^ 32, lp.epoch, lp.col, lp.row, lp.nPer, lp.bseg].getD (dImm w % 16) 0
    (iOpc w = 0x00 → exec (.nop n) s = put h)
    ∧ (iOpc w = 0x2C → exec (.srdp n) s = put (scalarSet h (dSD w) (BitVec.ofNat 32 param)))
    ∧ (iOpc w = 0x2D → exec (.saddw n) s =
        put (scalarSet (scalarSet h (dSD w) (BitVec.ofNat 32 pair)) (dSD w + 1) (BitVec.ofNat 32 (pair / 2 ^ 32))))
    ∧ (iOpc w = 0x35 → exec (.setrm n) s = .next (afterHob s n
        { h with pc := h.pc + 1, ctl := BitVec.ofNat 32 (dImm w) &&& 0xFFFF0007 }))
    ∧ (iOpc w = 0x36 → exec (.setp n) s = .next (afterHob s n { h with pc := h.pc + 1, pred := b ++ a }))
    ∧ (iOpc w = 0x37 → exec (.rdx n) s =
        put (scalarSet h (dSD w) (h.sticky &&& 0x7F)))
    ∧ (iOpc w = 0x38 → exec (.clrx n) s = .next (afterHob s n
        { h with pc := h.pc + 1, sticky := h.sticky &&& 0xFFFFFF80 }))

/-- SCMP and SCMPI set the flags so that each condition of BR says how SA compares, and BR follows the condition. Rests on
spec/04_hob_instruction_set.md, Predication and control; spec/04_hob_instruction_set.md, Instructions. -/
def Obligations.HobCompareDecidesBranch : Prop :=
  (∀ (s : State) (n w k : Nat) (x : Firing), Issues s n w k x →
    let h := found s n w
    let a : W32 := smGet 0 h.sr (dSA w)
    let compared (c : Instr) (b : W32) : Prop := ∃ fl, exec c s = .next (afterHob s n { h with pc := h.pc + 1, flags := fl })
      ∧ fl / 16 = h.flags / 16
      ∧ let g : Hob := { h with flags := fl }
        (condHolds g 0 = true) ∧ (condHolds g 1 = true ↔ a = b) ∧ (condHolds g 2 = true ↔ a ≠ b)
        ∧ (condHolds g 3 = true ↔ a.toInt < b.toInt) ∧ (condHolds g 4 = true ↔ b.toInt ≤ a.toInt)
        ∧ (condHolds g 6 = true ↔ b.toNat ≤ a.toNat) ∧ (condHolds g 7 = true ↔ a.toNat < b.toNat)
    (iOpc w = 0x2A → compared (.scmp n) (smGet 0 h.sr (dSB w)))
    ∧ (iOpc w = 0x2B → compared (.scmpi n) (BitVec.ofNat 32 (dImm w)))
    ∧ (iOpc w = 0x30 → exec (.br n) s = .next (afterHob s n
        { h with pc := if condHolds h (dCond w) = true then dImm w % 1024 else h.pc + 1 })))

/-- LOOP loads its counter and skips an empty loop; ENDL counts down and goes back while the count is not zero. States R122. -/
def Obligations.HobLoops : Prop :=
  ∀ (s : State) (n w k : Nat) (x : Firing), Issues s n w k x →
    let h := found s n w
    let count : W32 := if dImm w = 0 then smGet 0 h.sr (dSA w) else BitVec.ofNat 32 (dImm w)
    let left : W32 := smGet 0 h.loops (dLN w) - 1
    let next (v : W32) (pc : Nat) : Host.Outcome State Fault Refusal :=
      .next (afterHob s n { h with pc := pc, loops := smSet h.loops (dLN w) v })
    (iOpc w = 0x31 → count ≠ 0 → exec (.loop n) s = next count (h.pc + 1))
    ∧ (iOpc w = 0x31 → count = 0 → ∀ e, Matching h.imem h.pc e → exec (.loop n) s = next 0 (e + 1))
    ∧ (iOpc w = 0x32 → left = 0 → exec (.endl n) s = next 0 (h.pc + 1))
    ∧ (iOpc w = 0x32 → left ≠ 0 → ∀ l, Matching h.imem l h.pc → exec (.endl n) s = next left (l + 1))

/-- CKPT records its number, and stops, waits for its gate or runs on; HALT ends the hob's part of the firing with HOB_DONE.
Rests on spec/04_hob_instruction_set.md, Checkpoints; spec/04_hob_instruction_set.md, Execution model; spec/05_firings.md,
States. -/
def Obligations.HobCheckpointAndHalt : Prop :=
  (∀ (s : State) (n w k : Nat) (x : Firing), Issues s n w k x →
    let h := found s n w
    (hobFlight s n = 0 → iOpc w = 0x33 →
      (∀ b, b < 8 → brkMatches (smGet {} s.obs.brk b) x (some (dImm w % 65536)) = false) →
      exec (.ckpt n) s = .next (afterHob s n { h with
        pc := h.pc + 1
        ckpt := dImm w % 65536
        passed := h.passed + 1
        st := if x.st = .stopping then .stopped else if x.replay.isSome = true then .gated else .run }))
    ∧ (hobFlight s n = 0 → iOpc w = 0x34 → ∃ t, exec (.halt n) s = .next t
        ∧ Ended s t n k 1 x h ∧ (hobOf t n).halts = h.halts
        ∧ (firingOf t k).st = (if x.st = .running ∧ allEnded t x.f = true then .ending else x.st)
        ∧ t = { s with fir := t.fir, obs := t.obs })
    ∧ (hobFlight s n ≠ 0 → (iOpc w = 0x33 → exec (.ckpt n) s = .next (readied s n w))
        ∧ (iOpc w = 0x34 → exec (.halt n) s = .next (readied s n w))))
  ∧ (∀ (s : State) (n k : Nat) (x : Firing), curFiring s = some (k, x) → executing x = true → isLibrary x.f = false →
      inRect x.f n = true → (hobOf s n).st = .run → (hobOf s n).imemUe.contains (hobOf s n).pc = true →
      ∀ cmd ∈ ([.ckpt n, .halt n] : List Instr),
        ∃ t, exec cmd s = .next t ∧ Ended s t n k 5 x (hobOf s n) ∧ (hobOf t n).halts = (hobOf s n).halts + 1)
  ∧ ∀ (s : State) (n k : Nat) (x : Firing), curFiring s = some (k, x) → executing x = true → isLibrary x.f = true →
      inRect x.f n = true → (hobOf s n).st = .run →
      let h := hobOf s n
      let c : HC := ⟨s, n, h, 0, k, x⟩
      let badSeg : Prop := libUpdate x.f.prog = true ∧ h.passed = 0 ∧ ∃ i, i < 24 ∧ (storeRd h i).poison = true
      let badCols : Prop := (libRule x.f.prog = 6 ∨ libRule x.f.prog = 7) ∧ h.passed = 0 ∧ libCols c = false
      (∀ cmd ∈ ([.ckpt n, .halt n] : List Instr),
        (h.imemUe ≠ [] → ∃ t, exec cmd s = .next t ∧ Ended s t n k 5 x h)
        ∧ (h.imemUe = [] → h.srUe ≠ [] → ∃ t, exec cmd s = .next t ∧ Ended s t n k 4 x h)
        ∧ (h.imemUe = [] → h.srUe = [] → badSeg → ∃ t, exec cmd s = .next t ∧ Ended s t n k 3 x h)
        ∧ (h.imemUe = [] → h.srUe = [] → ¬ badSeg → badCols → ∃ t, exec cmd s = .next t ∧ Ended s t n k 2 x h))
      ∧ (h.imemUe = [] → h.srUe = [] → ¬ badSeg → ¬ badCols → libUpdate x.f.prog = true →
          (h.passed + 1 < h.lp.nPer / 1024 → exec (.halt n) s = .next s)
          ∧ (h.lp.nPer / 1024 ≤ h.passed + 1 → exec (.ckpt n) s = .next s)
          ∧ (h.passed + 1 < h.lp.nPer / 1024 →
              (∃ e ∈ libUnitReads c h.passed, h.lp.obEnd.getD e.1 0 ≤ h.lp.ob.getD e.1 0 + e.2) →
              Unqueued s ((libUnitReads c h.passed).map fun e => ⟨n / 32, n % 32, h.lp.ob.getD e.1 0 + e.2⟩) →
              ∃ t, exec (.ckpt n) s = .next t ∧ (hobOf t n).st = .ended ∧ (hobOf t n).endSt = 2
                ∧ (hobOf t n).passed = h.passed))

/-- LD asks the pair for the granule at the bank address and ST queues the register for it, PZ set where it is poisoned;
sixteen requests in flight hold either; an address outside the operand ends the hob. Rests on
spec/04_hob_instruction_set.md, Operands; spec/03_hob_engine.md, Column path; spec/15_twin_and_smoke.md. -/
def Obligations.HobBankAccess : Prop :=
  ∀ (s : State) (n w k : Nat) (x : Firing), Issues s n w k x →
    let h := found s n w
    let ob := h.lp.ob.getD (bOpd w) 0
    let am := (ob + (smGet 0 h.sr (bSX w)).toNat + bImm w) % 2 ^ 27
    let allowed : Prop := am % 32 = 0 ∧ ob ≤ am ∧ am < h.lp.obEnd.getD (bOpd w) 0
    let inc (g : Hob) : Hob := if bInc w = true then scalarSet g (bSX w) (smGet 0 g.sr (bSX w) + 32) else g
    let marked : Hob := if (vReg h (iVD w)).poison = true then { h with sticky := h.sticky ||| 0x00200020 } else h
    let req (op : ColOp) : ColReq :=
      { cls := x.cls, src := .firing, off := am, n := 1, addr := am, part := some x.part, op := op }
    let queued (t : State) (g : Hob) (op : ColOp) : Prop :=
      t = { (afterHob s n { g with pc := h.pc + 1 }) with sched := t.sched, obs := t.obs }
      ∧ ((x.cls ≠ 0 ∨ ((pairAt s (n / 32) (n % 32)).q.filter fun r => r.cls == 0).length < 8) →
          pairAt t (n / 32) (n % 32) = { pairAt s (n / 32) (n % 32) with q := (pairAt s (n / 32) (n % 32)).q ++ [req op] }
          ∧ t.sched.portWait = s.sched.portWait)
      ∧ ((x.cls = 0 ∧ 8 ≤ ((pairAt s (n / 32) (n % 32)).q.filter fun r => r.cls == 0).length) →
          t.sched.portWait = s.sched.portWait ++ [(n, req op)] ∧ t.sched.pairs = s.sched.pairs)
    (iOpc w = 0x10 → allowed → hobFlight s n < 16 → (x.f.tapTwin = false ∨ bOpd w ≠ x.f.opTwin) →
      ∃ t, exec (.ld n) s = .next t ∧ queued t (inc h) (.hobLd n (iVD w) none))
    ∧ (iOpc w = 0x11 → allowed → hobFlight s n < 16 → (x.f.tapFan = false ∨ bOpd w ≠ x.f.opFan) →
        (x.f.tapSmoke = false ∨ bOpd w ≠ x.f.opSmoke) →
        ∃ t, exec (.st n) s = .next t
          ∧ queued t (inc (foldDigest s x marked (bOpd w) (am - ob) (vReg h (iVD w)))) (.hobSt n [] (vReg h (iVD w))))
    ∧ (¬ allowed → (iOpc w = 0x10 ∨ iOpc w = 0x11) →
        ∃ t, exec (if iOpc w = 0x10 then .ld n else .st n) s = .next t
          ∧ Ended s t n k 2 x h ∧ t.sched = s.sched ∧ (hobOf t n).halts = h.halts + 1)
    ∧ (allowed → 16 ≤ hobFlight s n → (iOpc w = 0x10 → exec (.ld n) s = .next (readied s n w))
        ∧ (iOpc w = 0x11 → exec (.st n) s = .next (readied s n w)))

/-- LDHB, LDHS, STHS and AINIT reach only the broadcast segment or a scratch area; any other address ends the hob. That AINIT
increments nothing is the model's choice (log entry 20). Rests on spec/04_hob_instruction_set.md, Operands;
spec/04_hob_instruction_set.md, Instructions. -/
def Obligations.HobStoreAccess : Prop :=
  ∀ (s : State) (n w k : Nat) (x : Firing), Issues s n w k x → (hobOf s n).lp.bseg % 32 = 0 →
    let h := found s n w
    let hs := ((smGet 0 h.sr (cSX w)).toNat + iImm16 w) % 2 ^ 32
    let area := h.lp.bseg + 4096 * cArea w
    let inc (g : Hob) : Hob := if cInc w = true then scalarSet g (cSX w) (smGet 0 g.sr (cSX w) + 32) else g
    let fetched (i : Nat) : Hob := { h with
      ce := h.ce + (if h.soft.st.contains i = true then 1 else 0)
      vr := smSet h.vr (iVD w) (storeRd h i) }
    let inArea : Prop := hs % 32 = 0 ∧ hs < 4096 ∧ area + 4096 ≤ 65536
    let next (g : Hob) : Host.Outcome State Fault Refusal := .next (afterHob s n { g with pc := h.pc + 1 })
    let segKept (t : State) : Prop := ∀ i, 32 * i < h.lp.bseg → storeRd (hobOf t n) i = storeRd h i
    let bounds (c : Instr) : Prop := ∃ t, exec c s = .next t ∧ Ended s t n k 2 x h ∧ (hobOf t n).halts = h.halts + 1
    (iOpc w = 0x12 → hs % 32 = 0 ∧ hs < h.lp.bseg →
      exec (.ldhb n) s = next (inc (fetched (hs / 32))))
    ∧ (iOpc w = 0x12 → ¬ (hs % 32 = 0 ∧ hs < h.lp.bseg) → bounds (.ldhb n))
    ∧ (iOpc w = 0x13 → inArea → exec (.ldhs n) s = next (inc (fetched ((area + hs) / 32))))
    ∧ (iOpc w = 0x14 → inArea →
      exec (.sths n) s = next (inc (storeSet h ((area + hs) / 32) (vReg h (iVD w))))
      ∧ ∀ t, exec (.sths n) s = .next t → segKept t)
    ∧ (¬ inArea → (iOpc w = 0x13 → bounds (.ldhs n)) ∧ (iOpc w = 0x14 → bounds (.sths n)))
    ∧ (iOpc w = 0x15 → area + 4096 ≤ 65536 → ∃ t, exec (.ainit n) s = .next t
        ∧ t = afterHob s n { h with
            pc := h.pc + 1
            store := (hobOf t n).store
            stUe := (hobOf t n).stUe
            soft := { h.soft with st := (hobOf t n).soft.st } }
        ∧ (∀ i, storeRd (hobOf t n) i = if area / 32 ≤ i ∧ i < area / 32 + 128 then ⟨0, false⟩ else storeRd h i)
        ∧ segKept t)
    ∧ (iOpc w = 0x15 → 65536 < area + 4096 → bounds (.ainit n))

/-- RPUSH hands eight partials to the firing's reduction, waits where no context is free, and lets a firing that was to stop for a
cause that a context holds run on (log entry 19); a load lands in its register with its poison flag. Rests on
spec/04_hob_instruction_set.md, Cross-reducer access; spec/03_hob_engine.md, Column path; spec/04_hob_instruction_set.md,
Lane behaviour. -/
def Obligations.HobPushesAndLandings : Prop :=
  (∀ (s : State) (n w k : Nat) (x : Firing), Issues s n w k x → iOpc w = 0x16 →
    let h := found s n w
    let e := (smGet 0 h.sr (iSA w)).toNat
    let handed : Firing := { x with red := true, partials := x.partials ++ [(h.lp.rank, e / 8, vReg h (iVA w))] }
    let runsOn : Prop := x.red = false ∧ x.st = .stopping ∧ x.causes.contains .ember = false
    ((e % 8 = 0 ∧ e < x.f.outLen / 4) → (x.red = true ∨ 0 < redFree s) → ¬ runsOn →
      ∃ t, exec (.rpush n) s = .next t
        ∧ t = { s with fir := { s.fir with hobs := smSet s.fir.hobs n { h with pc := h.pc + 1 }, all := t.fir.all } }
        ∧ firingOf t k = handed ∧ ∀ j, j ≠ k → firingOf t j = firingOf s j)
    ∧ ((e % 8 = 0 ∧ e < x.f.outLen / 4) → 0 < redFree s → runsOn →
      ∃ t, exec (.rpush n) s = .next t ∧ t = { s with fir := { s.fir with hobs := t.fir.hobs, all := t.fir.all }, obs := t.obs }
        ∧ firingOf t k = { handed with st := .running } ∧ (∀ j, j ≠ k → firingOf t j = firingOf s j)
        ∧ hobOf t n = { h with pc := h.pc + 1 }
        ∧ ∀ m, m ≠ n → hobOf t m =
            if m ∈ rectHobs x.f ∧ (hobOf s m).st = .stopped then { hobOf s m with st := .run } else hobOf s m)
    ∧ ((e % 8 = 0 ∧ e < x.f.outLen / 4) → x.red = false → redFree s = 0 → exec (.rpush n) s = .next (readied s n w))
    ∧ (¬ (e % 8 = 0 ∧ e < x.f.outLen / 4) →
        ∃ t, exec (.rpush n) s = .next t ∧ Ended s t n k 2 x h ∧ (hobOf t n).halts = h.halts + 1))
  ∧ ∀ (s : State) (n v : Nat) (d : Datum) (pre post : List (Nat × Nat × Datum)),
    s.sched.landing = pre ++ (n, v, d) :: post → (∀ l ∈ pre, l.1 ≠ n) →
    exec (.hobLoadLands n v) s = .next { (afterHob s n { hobOf s n with vr := smSet (hobOf s n).vr v d }) with
      sched := { s.sched with landing := pre ++ post } }

/-- Same-width lane arithmetic writes each live lane of VD with the operation on the lanes of its sources, once rounded. Rests
on spec/04_hob_instruction_set.md, Lane behaviour; spec/04_hob_instruction_set.md, Instructions;
spec/04_hob_instruction_set.md, Predication and control. -/
def Obligations.LaneSameWidthResults : Prop :=
  ∀ (s : State) (n w k : Nat) (x : Firing), Issues s n w k x →
    let h := found s n w
    let f := iFmt w
    let r := rndOf h (iRm w)
    let sat := satOf h
    let a (e : Nat) : Nat := laneEl h f (iVA w) e
    let b (e : Nat) : Nat := laneEl h f (iVB w) e
    (iOpc w = 0x40 → ∃ t, exec (.vadd n) s = .next t ∧
        LaneEffect s t n w [iVA w, iVB w] f 1 (elsPer f) 0 0 fun e => exactFn f f (fun r => bin (fvAdd r) r) r sat [a e, b e])
    ∧ (iOpc w = 0x41 → ∃ t, exec (.vsub n) s = .next t ∧
        LaneEffect s t n w [iVA w, iVB w] f 1 (elsPer f) 0 0 fun e => exactFn f f (fun r => bin (fun u v => fvAdd r u (fvNeg v)) r) r sat [a e, b e])
    ∧ (iOpc w = 0x42 → ∃ t, exec (.vmul n) s = .next t ∧
        LaneEffect s t n w [iVA w, iVB w] f 1 (elsPer f) 0 0 fun e => exactFn f f (bin fvMul) r sat [a e, b e])
    ∧ (iOpc w = 0x45 → ∃ t, exec (.vmax n) s = .next t ∧
        LaneEffect s t n w [iVA w, iVB w] f 1 (elsPer f) 0 0 fun e => exactFn f f (bin fvMax) r sat [a e, b e])
    ∧ (iOpc w = 0x46 → ∃ t, exec (.vmin n) s = .next t ∧
        LaneEffect s t n w [iVA w, iVB w] f 1 (elsPer f) 0 0 fun e => exactFn f f (bin fvMin) r sat [a e, b e])
    ∧ (iOpc w = 0x47 → ∃ t, exec (.vabs n) s = .next t ∧
        LaneEffect s t n w [iVA w] f 1 (elsPer f) 0 0 fun e => elEnc f r sat (fvAbs (elVal f (a e))))
    ∧ (iOpc w = 0x48 → ∃ t, exec (.vneg n) s = .next t ∧
        LaneEffect s t n w [iVA w] f 1 (elsPer f) 0 0 fun e => elEnc f r sat (fvNeg (elVal f (a e))))
    ∧ (iOpc w = 0x49 → ∃ t, exec (.vsign n) s = .next t ∧
        LaneEffect s t n w [iVA w] f 1 (elsPer f) 0 0 fun e => exactFn f f (fun _ u => (fvSgn (u.getD 0 .nan), 0)) r sat [a e])

/-- VFMA and VFNMA round VA x VB + VC, or its negated product form, once; a widening destination is a group. Rests on
spec/04_hob_instruction_set.md, Instructions; spec/03_hob_engine.md, Lanes. -/
def Obligations.LaneFusedMultiplyAdd : Prop :=
  ∀ (s : State) (n w k : Nat) (x : Firing), Issues s n w k x →
    let h := found s n w
    let f := iFmt w
    let g := iFmt2 w
    let r := rndOf h (iRm w)
    let sat := satOf h
    let a (e : Nat) : Nat := laneEl h f (iVA w) e
    let b (e : Nat) : Nat := laneEl h f (iVB w) e
    let cnt := if g = f then 1 else elBits g / elBits f
    (iOpc w = 0x43 → ∃ t, exec (.vfma n) s = .next t ∧
        LaneEffect s t n w ([iVA w, iVB w] ++ rangeFrom (iVC w) cnt) g cnt (elsPer f) 0 0 fun e => fmaLane f g false r sat [a e, b e, laneEl h g (iVC w) e])
    ∧ (iOpc w = 0x44 → ∃ t, exec (.vfnma n) s = .next t ∧
        LaneEffect s t n w ([iVA w, iVB w] ++ rangeFrom (iVC w) cnt) g cnt (elsPer f) 0 0 fun e => fmaLane f g true r sat [a e, b e, laneEl h g (iVC w) e])

/-- The fused instructions and the FP32 functions round the exact value of their expression once in each live lane. Rests on
spec/04_hob_instruction_set.md, Approximation functions; spec/04_hob_instruction_set.md, Lane behaviour;
spec/04_hob_instruction_set.md, Instructions. -/
def Obligations.LaneFusedAndApproximations : Prop :=
  ∀ (s : State) (n w k : Nat) (x : Firing), Issues s n w k x →
    let h := found s n w
    let f := 0
    let r := rndOf h (iRm w)
    let sat := satOf h
    let a (e : Nat) : Nat := laneEl h f (iVA w) e
    let b (e : Nat) : Nat := laneEl h f (iVB w) e
    let sa := (smGet 0 h.sr (iSA w)).toNat
    let sb := (smGet 0 h.sr (iSB w)).toNat
    (iOpc w = 0x58 → ∃ t, exec (.vlerp n) s = .next t ∧
        LaneEffect s t n w [iVA w, iVB w] 0 1 8 0 0 fun e =>
          fusedFn (fun r xs => fvThen (fvAdd r (opd xs 1) (fvNeg (opd xs 0))) fun d => fvThen (fvMul (opd xs 2) d) fun p => fvAdd r (opd xs 0) p) r sat [a e, b e, sa])
    ∧ (iOpc w = 0x59 → ∃ t, exec (.vema2 n) s = .next t ∧
        LaneEffect s t n w [iVA w, iVB w] 0 1 8 0 0 fun e =>
          fusedFn (fun r xs => fvThen (fvMul (opd xs 2) (opd xs 0)) fun p => fvThen (fvMul (opd xs 3) (opd xs 1)) fun q => fvThen (fvMul q (opd xs 1)) fun q2 => fvAdd r p q2) r sat [a e, b e, sa, sb])
    ∧ (iOpc w = 0x5A → ∃ t, exec (.vdivsq n) s = .next t ∧
        LaneEffect s t n w [iVA w, iVB w] 0 1 8 0 0 fun e =>
          fusedFn (fun r xs => if opd xs 0 == .nan then (.nan, 0) else fvDivsq r (opd xs 0) (opd xs 1) (opd xs 2)) r sat [a e, b e, sa])
    ∧ (iOpc w = 0x5B → ∃ t, exec (.vaxpby n) s = .next t ∧
        LaneEffect s t n w [iVA w, iVB w] 0 1 8 0 0 fun e =>
          fusedFn (fun r xs => fvThen (fvMul (opd xs 2) (opd xs 0)) fun p => fvThen (fvMul (opd xs 3) (opd xs 1)) fun q => fvAdd r p q) r sat [a e, b e, sa, sb])
    ∧ (iOpc w = 0x5C → ∃ t, exec (.vdiv n) s = .next t ∧
        LaneEffect s t n w [iVA w, iVB w] 0 1 8 0 0 fun e =>
          exactFn 0 0 (bin fvDiv) r sat [a e, b e])
    ∧ (iOpc w = 0x5D → ∃ t, exec (.vsqrt n) s = .next t ∧
        LaneEffect s t n w [iVA w] 0 1 8 0 0 fun e =>
          exactFn 0 0 (fun _ xs => fvSqrt (opd xs 0)) r sat [a e])
    ∧ (iOpc w = 0x5E → ∃ t, exec (.vrsqrt n) s = .next t ∧
        LaneEffect s t n w [iVA w] 0 1 8 0 0 fun e =>
          exactFn 0 0 (fun r xs => fvRsqrt r (opd xs 0)) r sat [a e])
    ∧ (iOpc w = 0x5F → ∃ t, exec (.vlog2 n) s = .next t ∧
        LaneEffect s t n w [iVA w] 0 1 8 0 0 fun e =>
          exactFn 0 0 (fun _ xs => fvLog2 (opd xs 0)) r sat [a e])
    ∧ (iOpc w = 0x60 → ∃ t, exec (.vexp2 n) s = .next t ∧
        LaneEffect s t n w [iVA w] 0 1 8 0 0 fun e =>
          exactFn 0 0 (fun _ xs => fvExp2 (opd xs 0)) r sat [a e])

/-- VCMP writes the predicate mask, VSEL chooses by it, and VAND, VOR, VXOR, VSPLAT and VPERM move bits and elements. Rests on
spec/04_hob_instruction_set.md, Predication and control; spec/04_hob_instruction_set.md, Instructions. -/
def Obligations.LaneComparesSelectsAndBits : Prop :=
  ∀ (s : State) (n w k : Nat) (x : Firing), Issues s n w k x →
    let h := found s n w
    let f := iFmt w
    let r := rndOf h (iRm w)
    let sat := satOf h
    let a (e : Nat) : Nat := laneEl h f (iVA w) e
    let b (e : Nat) : Nat := laneEl h f (iVB w) e
    let sa := (smGet 0 h.sr (iSA w)).toNat
    let holds (e : Nat) : Bool := cmpHolds (Config.vcmpCond (bitsAt w 0 3)) (elVal f (a e)) (elVal f (b e))
    let any := (List.range (elsPer f)).any fun e => live w (fun q => predBit h q (elsPer f)) e && holds e
    let every := (List.range (elsPer f)).all fun e => live w (fun q => predBit h q (elsPer f)) e && holds e
    (iOpc w = 0x4A → ((vReg h (iVA w)).poison = false ∧ (vReg h (iVB w)).poison = false) →
        ∃ t, exec (.vcmp n) s = .next t
          ∧ t = chargeLane (afterHob s n { h with
              pc := h.pc + 1
              pred := (hobOf t n).pred
              flags := h.flags % 16 + 16 * b2n any + 32 * b2n every
              sticky := (hobOf t n).sticky }) 1
          ∧ ∀ i, i < 64 → (hobOf t n).pred.getLsbD i =
              if live w (fun q => predBit h q (elsPer f)) (i * elsPer f / 64) = true then holds (i * elsPer f / 64) else h.pred.getLsbD i)
    ∧ (iOpc w = 0x4B → ∃ t, exec (.vsel n) s = .next t ∧
        LaneEffect s t n w [iVA w, iVB w] f 1 (elsPer f) 0 0 fun e =>
          (if predBit h e (elsPer f) = true then a e else b e, 0))
    ∧ (iOpc w = 0x4C → ∃ t, exec (.vand n) s = .next t ∧
        LaneEffect s t n w [iVA w, iVB w] 0 1 8 0 0 fun e => (a e &&& b e, 0))
    ∧ (iOpc w = 0x4D → ∃ t, exec (.vor n) s = .next t ∧
        LaneEffect s t n w [iVA w, iVB w] 0 1 8 0 0 fun e => (a e ||| b e, 0))
    ∧ (iOpc w = 0x4E → ∃ t, exec (.vxor n) s = .next t ∧
        LaneEffect s t n w [iVA w, iVB w] 0 1 8 0 0 fun e => (a e ^^^ b e, 0))
    ∧ (iOpc w = 0x4F → ∃ t, exec (.vsplat n) s = .next t ∧
        LaneEffect s t n w [] f 1 (elsPer f) 0 0 fun _ =>
          let e := elEnc f r sat (elVal (wideOf f) sa)
          (e.1, e.2 ||| if elSNaN (wideOf f) sa = true then 1 else 0))
    ∧ (iOpc w = 0x50 → (∀ e, e < elsPer f → laneEl h f (iVC w) e < 2 * elsPer f) → ∃ t, exec (.vperm n) s = .next t ∧
        LaneEffect s t n w [iVA w, iVB w, iVC w] f 1 (elsPer f) 0 0 fun e =>
          let i := laneEl h f (iVC w) e
          (if i < elsPer f then a i else b (i - elsPer f), 0))

/-- VEXT, VREDSUM, VARGMAX and VMXSC write scalars from the lanes, and end the hob when they read a poisoned register. Rests
on spec/04_hob_instruction_set.md, Instructions; spec/04_hob_instruction_set.md, Lane behaviour. -/
def Obligations.LaneScalarsFromVectors : Prop :=
  ∀ (s : State) (n w k : Nat) (x : Firing), Issues s n w k x →
    let h := found s n w
    let f := iFmt w
    let a (e : Nat) : Nat := laneEl h f (iVA w) e
    let next (h' : Hob) : Host.Outcome State Fault Refusal := .next (chargeLane (afterHob s n { h' with pc := h.pc + 1 }) 1)
    let sticky (g : Hob) (fl : Nat) : Hob := { g with sticky := g.sticky ||| BitVec.ofNat 32 (fl % 128 * 0x10001) }
    let poisoned (c : Instr) : Prop := ∃ t, exec c s = .next t ∧ Ended s t n k 3 x h ∧ (hobOf t n).halts = h.halts + 1
    (iOpc w = 0x51 → (vReg h (iVA w)).poison = false → bitsAt w 0 6 < elsPer f →
        exec (.vext n) s = next (scalarSet h (iSA w) (widen f (a (bitsAt w 0 6)))))
    ∧ (iOpc w = 0x52 → (vReg h (iVA w)).poison = false →
        let sum := redTree (fun u v => exactFn f f (fun r => bin (fvAdd r) r) (rndOf h (iRm w)) (satOf h) [u, v]) 4
          ((List.range 8).map a)
        exec (.vredsum n) s = next (sticky (scalarSet h (iSA w) (BitVec.ofNat 32 sum.1)) sum.2))
    ∧ (iOpc w = 0x53 → (vReg h (iVA w)).poison = false → ∀ i, i < 8 →
        (∀ e, e < 8 → elVal 0 (a e) ≠ .nan ∧ fvLt (elVal 0 (a i)) (elVal 0 (a e)) = false) →
        (∀ e, e < i → fvLt (elVal 0 (a e)) (elVal 0 (a i)) = true) →
        exec (.vargmax n) s = next (scalarSet (scalarSet h (iSA w) (BitVec.ofNat 32 (a i))) (iSB w) (BitVec.ofNat 32 (i + iImm16 w))))
    ∧ (iOpc w = 0x63 → (∀ i, i < 4 → (vReg h (iVA w + i)).poison = false) →
        let z := mxScale (iFmt2 w) ((List.range 32).map fun e => laneEl h 0 (iVA w) e)
        exec (.vmxsc n) s = next (sticky (scalarSet h (iSA w) (BitVec.ofNat 32 z.1)) (if z.2 = true then 1 else 0)))
    ∧ ((vReg h (iVA w)).poison = true → (iOpc w = 0x51 → poisoned (.vext n)) ∧ (iOpc w = 0x52 → poisoned (.vredsum n))
        ∧ (iOpc w = 0x53 → poisoned (.vargmax n)))
    ∧ (iOpc w = 0x63 → (∃ i, i < 4 ∧ (vReg h (iVA w + i)).poison = true) → poisoned (.vmxsc n))

/-- VCVT and VCVTS16 convert with their scale and draws; HRND and HGUMB deliver the Heddle evaluations at p and p + 1. Rests
on spec/04_hob_instruction_set.md, Conversion and stochastic rounding; spec/04_hob_instruction_set.md, Heddle
instructions. -/
def Obligations.LaneConversionsAndHeddle : Prop :=
  ∀ (s : State) (n w k : Nat) (x : Firing), Issues s n w k x →
    let h := found s n w
    let f := iFmt w
    let g := iFmt2 w
    let a (e : Nat) : Nat := laneEl h f (iVA w) e
    let pair (i : Nat) : Nat := (smGet 0 h.sr i).toNat + (smGet 0 h.sr (i + 1)).toNat * 2 ^ 32
    let p := pair (iSB w)
    let ev (q : Nat) : BitVec 128 := heddle x.key (hedCtr q (smGet 0 h.sr (iSB w)).toNat (bitsAt w 0 8) x.f.epoch)
    let word (e : Nat) : Nat := if e < 4 then bitsAt (ev (pair (iSA w))).toNat (32 * e) 32
      else bitsAt (ev (pair (iSA w) + 1)).toNat (32 * (e - 4)) 32
    (iOpc w = 0x61 → ∃ t, exec (.vcvt n) s = .next t ∧
        LaneEffectAt s t n w (rangeFrom (iVA w) (cvtCount w)) g (cvtDst w) (cvtN w)
          (if elBits f < elBits g then 0 else bitsAt w 0 8)
          (if iRm w = 4 then (p + cvtN w - 1) / 8 - p / 8 + 1 else 0)
          (fun e => if elBits f < elBits g then predBit h e (cvtN w) else predBit h (bitsAt w 0 8 + e) (elsPer g))
          fun e =>
            let v := a e
            let X := (smGet 0 h.sr (iSA w)).toNat % 256
            let by8 : Int := if elBits g < elBits f then 127 - (X : Int) else (X : Int) - 127
            let draw : Rnd := if iRm w = 4 then
              .sr (paramDraw x.key (p + e) (bitsAt h.ctl.toNat 16 16) x.f.epoch) else rndOf h (iRm w)
            if bitAt w 15 = true ∧ X = 0xFF then ((elNaN g).1, 1)
            else
              let c := elEnc g draw (satOf h) (if bitAt w 15 = true then fvScale (elVal f v) by8 else elVal f v)
              (c.1, c.2 ||| if elSNaN f v = true then 1 else 0))
    ∧ (iOpc w = 0x62 → ∃ t, exec (.vcvts16 n) s = .next t ∧
        LaneEffect s t n w [iVA w, iVB w] 0 2 16 0 0 fun e =>
          let i := bitsAt w 0 4
          let vb := (vReg h (iVB w)).bits.toNat
          s16Elem (rndOf h (iRm w)) (bitsAt vb (16 * i + 8) 8 == (smGet 0 h.sr (iSB w)).toNat % 256) (bitsAt vb (16 * i) 8)
            (f32 (smGet 0 h.sr (iSA w))) (laneEl h 2 (iVA w) e))
    ∧ (iOpc w = 0x70 → ∃ t, exec (.hrnd n) s = .next t ∧
        LaneEffect s t n w [] 0 1 8 0 2 fun e => (word e, 0))
    ∧ (iOpc w = 0x71 → ∃ t, exec (.hgumb n) s = .next t ∧
        LaneEffect s t n w [] 0 1 8 0 2 fun e => ((gumbel (word e)).toNat, 0))

/-- Special values of lane arithmetic: signed zeros, NaN, infinities and saturation, in every rounding mode. Rests on
spec/04_hob_instruction_set.md, Lane behaviour; spec/04_hob_instruction_set.md, Approximation functions. -/
def Obligations.LaneSpecialValues : Prop :=
  ∀ r ∈ [Rnd.rne, .rtz, .rdn, .rup], ∀ sat : Bool,
    let add : LaneFn := exactFn 0 0 fun r => bin (fvAdd r) r
    let one1 (g : FV → FV × Nat) : LaneFn := exactFn 0 0 fun _ xs => g (opd xs 0)
    add r sat [0x00000000, 0x80000000] = (if r = .rdn then 0x80000000 else 0, 0)
    ∧ add r sat [0x80000000, 0x80000000] = (0x80000000, 0)
    ∧ add r sat [0x7F800000, 0xFF800000] = (0x7FC00000, 1)
    ∧ add r sat [0x7F800001, 0x3F800000] = (0x7FC00000, 1)
    ∧ add r sat [0x3F800000, 0x3F800000] = (0x40000000, 0)
    ∧ exactFn 0 0 (bin fvMul) r sat [0x00000000, 0x7F800000] = (0x7FC00000, 1)
    ∧ exactFn 0 0 (bin fvMul) r sat [0x80000000, 0x3F800000] = (0x80000000, 0)
    ∧ exactFn 0 0 (bin fvMax) r sat [0x7FC00000, 0x3F800000] = (0x7FC00000, 0)
    ∧ exactFn 0 0 (bin fvMax) r sat [0x80000000, 0x00000000] = (0x00000000, 0)
    ∧ exactFn 0 0 (bin fvMin) r sat [0x80000000, 0x00000000] = (0x80000000, 0)
    ∧ exactFn 0 0 (fun _ u => (fvSgn (u.getD 0 .nan), 0)) r sat [0x80000000] = (0, 0)
    ∧ exactFn 0 0 (bin fvDiv) r sat [0x3F800000, 0x80000000] = (0xFF800000, 2)
    ∧ exactFn 0 0 (bin fvDiv) r sat [0x00000000, 0x00000000] = (0x7FC00000, 1)
    ∧ one1 fvLog2 r sat [0x00000000] = (0xFF800000, 2)
    ∧ one1 fvLog2 r sat [0xBF800000] = (0x7FC00000, 1)
    ∧ one1 fvLog2 r sat [0x3F800000] = (0x00000000, 0)
    ∧ one1 fvLog2 r sat [0x7F800000] = (0x7F800000, 0)
    ∧ one1 fvExp2 r sat [0xFF800000] = (0x00000000, 0)
    ∧ one1 fvExp2 r sat [0x7F800000] = (0x7F800000, 0)
    ∧ one1 fvSqrt r sat [0x80000000] = (0x80000000, 0)
    ∧ one1 fvSqrt r sat [0xBF800000] = (0x7FC00000, 1)
    ∧ one1 (fvRsqrt r) r sat [0x80000000] = (0xFF800000, 2)
    ∧ one1 (fvRsqrt r) r sat [0x7F800000] = (0x00000000, 0)
    ∧ elEnc 3 r sat (elVal 0 0x7F800000) = (if sat = true then 0x7E else 0x7F, 4)
    ∧ elEnc 6 r sat (elVal 0 0xFF800000) = (0xF, 4)
    ∧ (exactFn 5 5 (fun r => bin (fvAdd r) r) r sat [0x7F, 0x01]).1 = 0x7F
    ∧ (exactFn 5 5 (fun r => bin (fvAdd r) r) r sat [0x7F, 0x01]).2.testBit 2 = true

/-- A register write to a partition page sets its RW fields, leaves its RWF fields alone and reports the attempt. Rests on
spec/00_scope.md, Registers and fields; spec/24_register_map_work.md. -/
def Obligations.PageFieldsByAccessType : Prop :=
  ∀ (s : State) (off len : Nat) (v : W64), Shaped off len → inPages off = true → fieldsAt (off / 8 * 8) ≠ [] →
    off / 8 * 8 % 4096 ∉ [0x040, 0x050, 0x300, 0x328] → ¬ (0x240 ≤ off % 4096 ∧ off % 4096 < 0x280) →
    let w := off / 8 * 8
    let hi := off % 8 = 4
    let mask : W64 := if len = 8 then BitVec.allOnes 64 else if hi then 0xFFFFFFFF00000000 else 0x00000000FFFFFFFF
    let val : W64 := if len = 4 ∧ hi then v <<< 32 else v
    ∃ t, exec (.registerWrite .mgmt off len v) s = .next t
      ∧ t = { s with regs := t.regs, flt := t.flt }
      ∧ (∀ f ∈ fieldsAt w,
          let m := fld mask f.lo f.w
          let nv := (fld (regRd s w) f.lo f.w &&& (2 ^ f.w - 1 - m)) ||| (fld val f.lo f.w &&& m)
          fld (regRd t w) f.lo f.w =
            if f.acc = .rw ∧ f.min ≤ nv ∧ nv ≤ f.max then nv else fld (regRd s w) f.lo f.w)
      ∧ (∀ o, o ≠ w → regRd t o = regRd s o)
      ∧ ((∀ f ∈ fieldsAt w, f.acc ≠ .rwf) → t.flt = s.flt)
      ∧ ((∃ f ∈ fieldsAt w, f.acc = .rwf ∧ fld mask f.lo f.w ≠ 0) → (smGet [] s.flt.chans 11).length < 64 →
          ∃ e, smGet [] t.flt.chans 11 = smGet [] s.flt.chans 11 ++ [e] ∧ e.code = 0x0801 ∧ e.addr = w ∧ e.detA = 2)

/-- An access to a register of a page that the requester may not present reads as zero, changes nothing and is counted. States
R448. -/
def Obligations.ForeignPageAccess : Prop :=
  ∀ (s : State) (rq : Requester) (q p off : Nat), rqPart rq = some q → Accepted s rq → p < 1024 →
    mayPresent s rq p = false → off / 4096 * 4096 = pageBase p → Shaped off 8 →
    (wordNow (accessCharge s rq) rq off).isSome = true →
    let counted (t : State) : Prop :=
      (part t q).strayPage = (part s q).strayPage + 1 ∧ (∀ r, r ≠ q → part t r = part s r)
      ∧ t.regs = s.regs ∧ t.sel = s.sel ∧ t.mem = s.mem ∧ t.staging = s.staging
    (∀ v, ∃ t, exec (.registerWrite rq off 8 v) s = .next t ∧ counted t)
    ∧ (∃ t, exec (.lowHalfRead rq off) s = .next t ∧ smGet 1 t.rdata (rqKey rq) = 0 ∧ counted t)

/-- A low-half read keeps the whole value for its reader, and the high half read next comes from that value; a read of a
hob's register waits for its weft bus, and one whose retries there are over returns nothing. Rests on
spec/19_clocks_and_power.md, Values crossing domains; spec/24_register_map_work.md; spec/11_warp_and_weft.md, Weft bits. -/
def Obligations.RegisterHalfReads : Prop :=
  ∀ (s : State) (rq : Requester) (off : Nat), Accepted s rq → off % 8 = 0 →
    let u := accessCharge s rq
    let x := if onWeft off = true then weftOver u rq else u
    let v := wordSeen u rq off
    let key := rqKey rq
    let travels : Prop := onWeft off = true → weftFree s (weftDie off) 3 = true
    wordNow u rq off ≠ none → readMask u rq off ≠ 0 → captured u rq off = none → off ≠ 0x80060 →
    (flueDenied rq off = false → off < 0x2000000 → travels → weftFailed u rq off = false →
      exec (.lowHalfRead rq off) s = .next { x with
        shadow := smSet u.shadow key (off, v)
        rdata := smSet u.rdata key (v.toNat % 2 ^ 32) })
    ∧ (0x110000 ≤ off → off < 0x118000 → ¬ travels → exec (.hobRegisterRead rq off 8) s = .next s)
    ∧ (0x110000 ≤ off → off < 0x118000 → travels → weftFailed u rq off = true →
        exec (.hobRegisterRead rq off 8) s = .next (weftOver u rq))
    ∧ (0x110000 ≤ off → off < 0x118000 → travels → weftFailed u rq off = false →
        exec (.hobRegisterRead rq off 8) s = .next { x with
          shadow := smDel u.shadow key
          rdata := smSet u.rdata key v.toNat }
        ∧ (∀ w, smFind u.shadow key = some (off, w) →
            exec (.hobRegisterRead rq (off + 4) 4) s = .next { x with
              shadow := smDel u.shadow key
              rdata := smSet u.rdata key (w.toNat / 2 ^ 32) })
        ∧ ((∀ w, smFind u.shadow key ≠ some (off, w)) →
            exec (.hobRegisterRead rq (off + 4) 4) s = .next { x with
              shadow := smDel u.shadow key
              rdata := smSet u.rdata key (v.toNat / 2 ^ 32) }))

/-- A streamed read returns the next word of the selected item and advances; a capture read copies its whole block at once.
Rests on spec/23_register_map_base.md; spec/21_observation.md. -/
def Obligations.StreamedAndCapturedReads : Prop :=
  (∀ (s : State) (rq : Requester) (off : Nat) (bytes : List Byte) (n : Nat), Accepted s rq →
    let u := accessCharge s rq
    let key := rqKey rq
    off ∈ [0xF10030, 0xF10040, 0xF10058] → fbReader u rq = true → streamItem u rq off = some (bytes, n) →
    exec (.streamedRead rq off) s = .next { u with
      shadow := smDel u.shadow key
      strm := smSet u.strm (rqOff rq off) (strmPos u rq off + 1)
      rdata := smSet u.rdata key (if strmPos u rq off < n then (wordAt bytes (strmPos u rq off)).toNat else 0) })
  ∧ ∀ (s : State) (rq : Requester) (off : Nat) (ws : List W64), Accepted s rq →
    let u := accessCharge s rq
    let key := rqKey rq
    off % 8 = 0 → off < 0x2000000 → flueDenied rq off = false → (wordNow u rq off).isSome = true →
    readMask u rq off = BitVec.allOnes 64 → captured u rq off = some ws → ws ≠ [] →
    ∃ t, exec (.captureRead rq off) s = .next t
      ∧ smGet 0 t.rdata key = (ws.getD 0 0).toNat
      ∧ (∀ i, i < ws.length → smGet 0 t.capt (rqOff rq (off + 8 * i)) = ws.getD i 0)
      ∧ t = { u with shadow := smDel u.shadow key, rdata := t.rdata, capt := t.capt }

/-- An 8-byte write of HED_SEED replaces the whole seed at once; a 4-byte write replaces one half. Rests on
spec/09_heddle_and_sampler.md, Key and counter. -/
def Obligations.HedSeedWrites : Prop :=
  ∀ (s : State) (rq : Requester) (p : Nat) (v : W64), p < 1024 →
    let u := accessCharge s rq
    let a := pageBase p + 0x200
    Accepted s rq → mayPresent u rq p = true →
    exec (.hedSeedWrite rq a 8 v) s = .next { u with regs := smSet u.regs a v }
    ∧ exec (.hedSeedWrite rq a 4 v) s = .next { u with
        regs := smSet u.regs a ((regRd u a &&& 0xFFFFFFFF00000000) ||| (v &&& 0x00000000FFFFFFFF)) }
    ∧ exec (.hedSeedWrite rq (a + 4) 4 v) s = .next { u with
        regs := smSet u.regs a ((regRd u a &&& 0x00000000FFFFFFFF) ||| (v <<< 32)) }

/-- Marks count and capture time, load an armed offset and are ignored while lost; ARM refuses a target that has come. Rests
on spec/21_observation.md, Global time and its alignment across blocks; spec/14_flue_port.md, Frames. -/
def Obligations.MarksAndAlignedTime : Prop :=
  (∀ s : State, s.ports.markLost = false → ∃ t, exec (.flMarkPulse true) s = .next t
      ∧ t.obs.markCnt = s.obs.markCnt + 1 ∧ t.obs.markGtc = s.clk.gtc
      ∧ (∀ v m, s.obs.armed = some (v, m) → m = s.obs.markCnt + 1 →
          t.obs.ofs = v - s.clk.gtc ∧ t.obs.epoch = (s.obs.epoch + 1) % 65536 ∧ t.obs.armed = none
          ∧ t.obs.slip = false ∧ t.obs.locked = false)
      ∧ ((∀ v m, s.obs.armed = some (v, m) → m ≠ s.obs.markCnt + 1) →
          t.obs.ofs = s.obs.ofs ∧ t.obs.epoch = s.obs.epoch ∧ t.obs.armed = s.obs.armed)
      ∧ t = { s with obs := t.obs, ports := { s.ports with markGood := t.ports.markGood } })
  ∧ (∀ s : State, exec (.flMarkPulse false) s = .next { s with ports := { s.ports with markGood := 0 } })
  ∧ (∀ s : State, s.ports.markLost = true → ∃ t, exec (.flMarkPulse true) s = .next t
      ∧ t.obs = s.obs ∧ t.ports.markGood = min 15 (s.ports.markGood + 1)
      ∧ (t.ports.markLost = true ↔ s.ports.markGood < 15)
      ∧ t = { s with
          ports := { s.ports with markGood := t.ports.markGood, markLost := t.ports.markLost }
          clk := { s.clk with refActive := t.clk.refActive } })
  ∧ (∀ s : State, ∃ t, exec .markLost s = .next t
      ∧ t.ports.markLost = true ∧ t.obs.armed = none ∧ t.obs.locked = false ∧ t.obs.ofs = s.obs.ofs
      ∧ t.obs.markCnt = s.obs.markCnt
      ∧ t = { s with
          obs := t.obs
          ports := { s.ports with markLost := true, markGood := 0 }
          clk := { s.clk with refActive := t.clk.refActive } })
  ∧ ∀ (s : State) (rq : Requester),
    let u := accessCharge s rq
    Accepted s rq → obsAllowed u rq = true →
      (exec (.arm rq) s = .next { u with obs := { u.obs with
          armed := if (regRd u 0xE00020).toNat ≤ u.obs.markCnt.toNat + 1 then none
            else some (regRd u 0xE00018, regRd u 0xE00020)
          armLate := decide ((regRd u 0xE00020).toNat ≤ u.obs.markCnt.toNat + 1) } })
      ∧ ∃ t, exec (.obsTimeProbe rq) s = .next t
        ∧ smGet 0 t.capt (rqOff rq 0xE00050) = u.clk.gtc ∧ smGet 0 t.capt (rqOff rq 0xE00058) = u.obs.markCnt
        ∧ smGet 0 t.capt (rqOff rq 0xE00060) = u.obs.markGtc ∧ t = { u with capt := t.capt }

/-- Observation commands configure counters, queues, snapshots and soot rings for whoever may observe, and no one else: each
of them completes for every requester, selected item, access size, half and value. Rests on spec/21_observation.md;
spec/12_memory_model.md, Ledgers; spec/13_hearth_port.md. -/
def Obligations.CountersSnapshotsAndRings : Prop :=
  (∀ (s : State) (rq : Requester), Accepted s rq →
    let u := accessCharge s rq
    let q := (selRd u rq 0xE00200).toNat
    let c := selF u rq 0xE00400 0 4
    let k := selF u rq 0xE00500 0 4
    let r := smGet ({} : SootRing) u.obs.rings k
    (obsAllowed u rq = true →
      exec (.clrMax rq) s = .next { u with obs := { u.obs with
        queues := smSet u.obs.queues q { smGet {} u.obs.queues q with max := queueCur u q } } }
      ∧ exec (.freeze rq) s = .next { u with obs := { u.obs with running := false } }
      ∧ exec (.run rq) s = .next { u with obs := { u.obs with running := true } }
      ∧ (∃ t, exec (.take rq) s = .next t
          ∧ (∀ i, i < 8 → smGet 0 t.capt (rqOff rq (0xE08108 + 8 * i))
              = BitVec.ofNat 64 ((snapTerms u (selF u rq 0xE00100 20 4) (selF u rq 0xE00100 8 12)).getD i 0))
          ∧ rqKey rq ∈ t.obs.snapDone
          ∧ t = { u with capt := t.capt, obs := { u.obs with snapDone := t.obs.snapDone } })
      ∧ ∀ (len : Nat) (hi : Bool) (v : W64),
        (∃ t, exec (.obsPmcCfgWrite rq len hi v) s = .next t
          ∧ (smGet {} t.obs.pmc c).val = 0 ∧ (smGet {} t.obs.pmc c).owner = ownerOf rq
          ∧ (∀ i, i < 64 → (smGet {} t.obs.pmc c).cfg.getLsbD i =
              if (i < 19 ∨ 20 ≤ i ∧ i < 35 ∨ 48 ≤ i) ∧ (len = 8 ∨ (if hi then 32 ≤ i else i < 32))
              then (wVal len hi v).getLsbD i
              else (smGet {} u.obs.pmc c).cfg.getLsbD i)
          ∧ (∀ j, j ≠ c → smGet {} t.obs.pmc j = smGet {} u.obs.pmc j)
          ∧ t = { u with obs := { u.obs with pmc := t.obs.pmc } })
        ∧ exec (.obsSootRdWrite rq len hi v) s = .next { u with obs := { u.obs with
            rings := smSet u.obs.rings k
              { r with rd := min r.wr (wMerge (BitVec.ofNat 64 r.rd) (wMask len hi) (wVal len hi v)).toNat } } }
        ∧ (let w := wMerge r.cfg (wMask len hi &&& fieldBits [(0, 10), (16, 6), (32, 11), (48, 10)]) (wVal len hi v)
          let cfg := if fld w 16 4 ≤ 9 then w else setFld w 16 4 (fld r.cfg 16 4)
          let stored (x : SootRing) : State := { u with obs := { u.obs with rings := smSet u.obs.rings k x } }
          (fld cfg 21 1 = 0 →
            exec (.obsSootCfgWrite rq len hi v) s = .next (stored { r with cfg := cfg, owner := ownerOf rq }))
          ∧ (fld cfg 21 1 = 1 → ringFits u k cfg = true →
            exec (.obsSootCfgWrite rq len hi v) s = .next (stored { r with
              cfg := cfg
              wr := if fld r.cfg 21 1 = 0 then 0 else r.wr
              rd := if fld r.cfg 21 1 = 0 then 0 else r.rd
              cfgRefused := false
              owner := ownerOf rq }))
          ∧ (fld cfg 21 1 = 1 → ringFits u k cfg = false →
            exec (.obsSootCfgWrite rq len hi v) s = .next (stored { r with cfgRefused := true }))))
    ∧ (obsAllowed u rq = false → ∀ (len : Nat) (hi : Bool) (v : W64),
        ∀ cmd ∈ ([.clrMax rq, .freeze rq, .run rq, .take rq, .obsPmcCfgWrite rq len hi v, .obsSootRdWrite rq len hi v,
            .obsSootCfgWrite rq len hi v] : List Instr),
        exec cmd s = .next (match rqPart rq with
          | some p => { u with parts := smSet u.parts p { part u p with strayPage := (part u p).strayPage + 1 } }
          | none => u))
    ∧ ∀ (p len : Nat) (v : W64),
        (p < 1024 → mayPresent u rq p = true → len = 8 → exec (.prtMark rq p len v) s = .next
          (soot u 6 (some (p, 0)) (payload [(0, 64, v.toNat), (64, 32, match rq with
            | .hearth m src _ => src + m * 2 ^ 16
            | _ => 2 ^ 32 - 1)])))
        ∧ (p < 1024 → mayPresent u rq p = true → len ≠ 8 → exec (.prtMark rq p len v) s = .next u)
        ∧ (1024 ≤ p ∨ mayPresent u rq p = false → exec (.prtMark rq p len v) s = .next (match rqPart rq with
          | some q => { u with parts := smSet u.parts q { part u q with strayPage := (part u q).strayPage + 1 } }
          | none => u)))
  ∧ ∀ (s : State) (rq : Requester) (p part_ len : Nat) (hi : Bool) (v : W64), rqPart rq = some p → rqStatus s rq ≠ 0 →
      ∀ cmd ∈ ([.clrMax rq, .freeze rq, .run rq, .take rq, .obsPmcCfgWrite rq len hi v, .obsSootRdWrite rq len hi v,
          .obsSootCfgWrite rq len hi v, .prtMark rq part_ len v] : List Instr),
        exec cmd s = .next { s with parts := smSet s.parts p { part s p with
          refused := smMod 0 (part s p).refused (rqStatus s rq) (· + 1) } }

/-- Queued records reach their rings in order, losses are told, drains send, graphs build, and a break is released. Rests on
spec/21_observation.md. -/
def Obligations.SootRecordsGraphsAndBreaks : Prop :=
  (∀ (s : State) (k : Nat) (x : SootRec) (rest : List (Nat × SootRec)), s.obs.sootQ = (k, x) :: rest →
    let r := smGet ({} : SootRing) s.obs.rings k
    fld r.cfg 21 1 = 1 →
    (fld r.cfg 20 1 = 1 → ringSize r ≤ r.wr - r.rd → exec .sootRecordWrite s = .next { s with obs := { s.obs with
        sootQ := rest
        rings := smSet s.obs.rings k { r with lostNow := r.lostNow + 1, lost := r.lost + 1 } } })
    ∧ ((fld r.cfg 20 1 = 0 ∨ r.wr - r.rd < ringSize r) → r.lostNow = 0 → ∃ t, exec .sootRecordWrite s = .next t
        ∧ t.obs.sootQ = rest ∧ smGet {} t.obs.rings k = { r with wr := r.wr + 1 }
        ∧ (stgRead t.staging (ringOff s r r.wr / 32)).bits = bytesGran (sootBytes x r.wr)
        ∧ t = { s with
            staging := t.staging
            obs := { s.obs with sootQ := rest, rings := smSet s.obs.rings k { r with wr := r.wr + 1 } } })
    ∧ ((fld r.cfg 20 1 = 0 ∨ r.wr - r.rd < ringSize r) → 0 < r.lostNow → ∃ t, exec .sootRecordWrite s = .next t
        ∧ t.obs.sootQ = s.obs.sootQ ∧ smGet {} t.obs.rings k = { r with wr := r.wr + 1, lostNow := 0 }))
  ∧ (∀ (s : State) (k : Nat) (tm : Bool), (smGet ({} : SootRing) s.obs.rings k).wr ≤ (smGet ({} : SootRing) s.obs.rings k).rd →
      exec (.sootDrain k tm) s = .next s)
  ∧ (∀ (s : State) (k : Nat) (tm : Bool),
      let r := smGet ({} : SootRing) s.obs.rings k
      k < 16 → fld r.drain0 8 1 = 1 → r.rd < r.wr → (tm = true ∨ fld r.drain0 32 16 ≤ r.wr - r.rd) →
      ((smGet ({} : Agent) s.ports.agents (fld r.drain0 0 8)).bound = false →
        exec (.sootDrain k tm) s = .next { s with obs := { s.obs with rings := smSet s.obs.rings k { r with stall := true } } })
      ∧ ((smGet ({} : Agent) s.ports.agents (fld r.drain0 0 8)).bound = true → ∃ t, exec (.sootDrain k tm) s = .next t
          ∧ (smGet {} t.obs.rings k).rd = r.wr ∧ (smGet {} t.obs.rings k).wr = r.wr
          ∧ (smGet {} t.obs.rings k).drained = r.drained + (r.wr - r.rd) ∧ (smGet {} t.obs.rings k).stall = false))
  ∧ (∀ (s : State) (rq : Requester),
      let u := accessCharge s rq
      let k := selF u rq 0xE00500 0 4
      let r := smGet ({} : SootRing) u.obs.rings k
      Accepted s rq → obsAllowed u rq = true →
        (r.wr ≤ r.rd → ∃ t, exec (.now rq) s = .next t ∧ smGet {} t.obs.rings k = { r with now := true }
          ∧ t = { u with obs := { u.obs with rings := t.obs.rings } })
        ∧ (r.rd < r.wr → fld r.drain0 8 1 = 1 → (smGet ({} : Agent) u.ports.agents (fld r.drain0 0 8)).bound = true →
          ∃ t, exec (.now rq) s = .next t ∧ (smGet {} t.obs.rings k).rd = r.wr
            ∧ (smGet {} t.obs.rings k).drained = r.drained + (r.wr - r.rd) ∧ (smGet {} t.obs.rings k).now = false))
  ∧ (∀ (s : State) (rq : Requester),
      let u := accessCharge s rq
      Accepted s rq → obsAllowed u rq = true →
        (u.obs.wfgBuilding = true → exec (.build rq) s = .next u)
        ∧ (u.obs.wfgBuilding = false → ∃ t, exec (.build rq) s = .next t
            ∧ t.obs.wfgBuilding = true ∧ t.obs.wfgDone = false ∧ t = { u with obs := t.obs, freeCtr := t.freeCtr })
        ∧ (∀ (n : Nat), (smGet ({} : Brk) u.obs.brk (selF u rq 0xE00700 0 3)).held = some n →
            ∃ t, exec (.release rq) s = .next t
              ∧ (smGet ({} : Brk) t.obs.brk (selF u rq 0xE00700 0 3)).held = none
              ∧ (firingOf t n).brkHeld = none
              ∧ (u.fir.cur ≠ some n → firingOf t n = { firingOf u n with brkHeld := none })
              ∧ t = { u with obs := t.obs, fir := { u.fir with all := t.fir.all } }))
  ∧ ∀ (s : State) (us : Nat),
      (s.obs.wfgBuilding = false → exec (.wfgBuildDone us) s = .next s)
      ∧ (s.obs.wfgBuilding = true → ∃ t, exec (.wfgBuildDone us) s = .next t
          ∧ t.obs.wfgBuilding = false ∧ t.obs.wfgDone = true ∧ t.obs.wfgWalk = us % 2 ^ 32 ∧ t.obs.wfgEdges.length ≤ 65536
          ∧ t = { s with obs := t.obs, freeCtr := t.freeCtr })

/-- Refresh debts, the hot state, calibrations due and lane-group retrainings follow their events. Rests on
spec/10_stack_scheduler.md, Refresh; spec/10_stack_scheduler.md, Calibration and retraining in service. -/
def Obligations.RefreshDebtAndCalibration : Prop :=
  (∀ (s : State) (die pos g : Nat), die < s.boot.dies → pos < 32 → g < 4 →
    let p := pairAt s die pos
    (∃ t, exec (.refreshInterval die pos g) s = .next t
      ∧ debtOf (pairAt t die pos) g = min 8 (debtOf p g + 1)
      ∧ (∀ k, k < 4 → k ≠ g → debtOf (pairAt t die pos) k = debtOf p k)
      ∧ (∀ d q, q < 32 → (d, q) ≠ (die, pos) → pairAt t d q = pairAt s d q)
      ∧ t = { s with sched := { s.sched with pairs := t.sched.pairs } })
    ∧ exec (.calibrationDue die pos) s = .next (setPair s die pos { p with calDue := true })
    ∧ (p.calDue = true → exec (.calibrationDeferralBound die pos) s = .next (setPair s die pos { p with calOver := true }))
    ∧ (p.calDue = false → exec (.calibrationDeferralBound die pos) s = .next s))
  ∧ (∀ (s : State) (die : Nat) (v : BitVec 13), die < s.boot.dies → ∃ t, exec (.thermalSensorStrobe die v) s = .next t
      ∧ (smGet {} t.sched.dies die).temp = v.toInt
      ∧ (∀ d, d ≠ die → smGet {} t.sched.dies d = smGet {} s.sched.dies d)
      ∧ (t.sched.hot = true ↔ s.sched.hot = true ∨ 16 * (regF s 0x30028 32 8 : Int) < hottest t)
      ∧ (∀ pos, pos < 32 → pairAt t die pos =
          { pairAt s die pos with calDue := ((pairAt s die pos).calDue
              || decide (80 ≤ (v.toInt - (pairAt s die pos).calTemp).natAbs)) })
      ∧ (∀ d pos, pos < 32 → d ≠ die → pairAt t d pos = pairAt s d pos)
      ∧ (smGet {} t.sched.dies die).tsAge = 0 ∧ t = { s with sched := t.sched })
  ∧ (∀ s : State, exec .refreshHotExit s = .next { s with sched := { s.sched with
      hot := (s.sched.hot && !decide (hottest s + 48 ≤ 16 * (regF s 0x30028 32 8 : Int))) } })
  ∧ (∀ (s : State) (die pos i : Nat) (r : ColReq), (pairAt s die pos).q[i]? = some r →
      let lim := if r.cls = 2 then regF s 0x30040 0 16 else regF s 0x30040 32 16
      (2 ≤ r.cls → r.cls ≤ 3 → lim ≠ 0 → ∃ t, exec (.requestAged die pos i) s = .next t
        ∧ (pairAt t die pos).q = (pairAt s die pos).q.set i { r with cls := 1 }
        ∧ t = setPair s die pos { pairAt s die pos with q := (pairAt t die pos).q })
      ∧ (r.cls ≤ 1 ∨ (r.cls ≤ 3 ∧ lim = 0) → exec (.requestAged die pos i) s = .next s))
  ∧ ∀ (s : State) (die g : Nat),
      let d := tsvDie s die
      (die < s.boot.dies → g < 34 → d.busy = none → d.spacing = false →
        exec (.tsvRetrainDue die g) s = .next (setTsv s die { d with busy := some g, spacing := true }))
      ∧ (die < s.boot.dies → g < 34 → d.busy ≠ none ∨ d.spacing = true → ∃ t, exec (.tsvRetrainDue die g) s = .next t
          ∧ tsvDie t die = { d with wait := d.wait ++ [g] } ∧ t.sched.tsvWait = s.sched.tsvWait + 1
          ∧ t = { s with sched := { s.sched with dies := t.sched.dies, tsvWait := t.sched.tsvWait } })
      ∧ exec (.tsvRetrainDone die) s = .next (setTsv s die { d with busy := none })
      ∧ (d.wait = [] → exec (.tsvRetrainWaitEnd die) s = .next (setTsv s die { d with spacing := false }))
      ∧ (∀ k ks, d.wait = k :: ks → d.busy = none →
          exec (.tsvRetrainWaitEnd die) s = .next (setTsv s die { d with busy := some k, spacing := true, wait := ks }))

/-- The draught releases its parts, the ramp sets its ceiling, and a column slot is granted in the order of the rules. Rests
on spec/10_stack_scheduler.md. -/
def Obligations.DraughtRampAndColumnSlots : Prop :=
  (∀ s : State, ∃ t, exec .draughtRelease s = .next t
      ∧ (let part := windowPart s
         let res := min part (1000 * regF s 0x30060 16 8)
         t.sched.reserve = res ∧ t.sched.arrears = 0 ∧ t.sched.blocked = 4
         ∧ (s.sched.slot = 4 → t.sched.slot = 0
             ∧ t.sched.avail = min s.sched.avail 0 + part - res - s.sched.arrears)
         ∧ (s.sched.slot ≠ 4 → t.sched.slot = s.sched.slot + 1
             ∧ t.sched.avail = s.sched.avail + s.sched.reserve + part - res - s.sched.arrears))
      ∧ t = { s with sched := { s.sched with
          slot := t.sched.slot
          avail := t.sched.avail
          reserve := t.sched.reserve
          arrears := t.sched.arrears
          blocked := t.sched.blocked } })
  ∧ (∀ (s : State) (ns : Nat), 0 < ns → ∃ t, exec (.rampBoundary ns) s = .next t
      ∧ t.sched.lastP = wattF32 s.sched.energy (1000 * ns) ∧ t.sched.energy = 0 ∧ t.sched.ballastIv = 0
      ∧ t.sched.draught = regRd s 0x30060 ∧ t.sched.ramp = regRd s 0x30068
      ∧ (let ramp := regRd s 0x30068
         let draught := regRd s 0x30060
         let flo : FV := .fin false (fld draught 32 9) 2
         let bud : FV := .fin false (min (fld draught 0 9) s.fb.gov) 2
         let up := f32 (f32Enc .rne (fvAdd .rne (f32 t.sched.lastP) (.fin false (fld ramp 0 8) 4)).1)
         let dn := (fvAdd .rne (f32 t.sched.lastP) (.fin true (fld ramp 8 8) 4)).1
         let hi := if fvLt up flo then flo else up
         t.sched.ceiling = f32Enc .rne (if fvLt bud hi then bud else hi)
         ∧ t.sched.floorT = f32Enc .rne (if fvLt dn (fvZero false) then fvZero false else dn))
      ∧ t.mem = s.mem ∧ t.sched.pairs = s.sched.pairs ∧ t.regs = s.regs)
  ∧ (∀ (s : State) (die pos : Nat) (pullIn : Bool), ¬ (die < s.boot.dies ∧ pos < 32) →
      exec (.columnSlotGrant die pos pullIn) s = .next s)
  ∧ ∀ (s : State) (die pos : Nat) (pullIn : Bool), die < s.boot.dies → pos < 32 →
    let p0 := pairAt s die pos
    let v := if p0.opLeft = 0 then s else setPair s die pos { p0 with opLeft := p0.opLeft - 1 }
    let p := pairAt v die pos
    let slot (u : State) : Prop := exec (.columnSlotGrant die pos pullIn) s = .next (portsGo u)
    (∀ g, p.opLeft = 0 → forcedGroup p = some g → debtOf p g = 8 → ∃ u, slot (pmcEvent u 0x03 none none (.pair die pos) 1)
        ∧ debtOf (pairAt u die pos) g = 7 ∧ rowOf (pairAt u die pos) g = none ∧ (pairAt u die pos).q = p.q
        ∧ (pairAt u die pos).opLeft = regF s 0x30028 0 8 ∧ (pairAt u die pos).opGrp = some g
        ∧ u.sched.refForced = s.sched.refForced + 1 ∧ u.sched.avail = s.sched.avail - eRef s ∧ u.mem = s.mem)
    ∧ ((p.opLeft ≠ 0 ∨ forcedGroup p = none) →
        (p.calDue = true → p.calOver = true → p.opLeft = 0 → ∃ u, slot u
          ∧ (pairAt u die pos).calDue = false ∧ (pairAt u die pos).calOver = false
          ∧ (pairAt u die pos).opLeft = regF s 0x30030 0 8 ∧ (pairAt u die pos).opGrp = none
          ∧ (pairAt u die pos).calTemp = (tsvDie s die).temp ∧ u.sched.calDef = s.sched.calDef + 1
          ∧ u.sched.avail = s.sched.avail - Config.calEnergy)
        ∧ (¬ (p.calDue = true ∧ p.calOver = true ∧ p.opLeft = 0) →
          (p.test = true → slot v)
          ∧ (p.test = false → colPick p 4 = none → slot (lowSlot v die pos pullIn))
          ∧ (p.test = false → ∀ i r, colPick p 4 = some i → p.q[i]? = some r →
            let cls := effCls p.q i
            let o := openRows p (colGrans r)
            let e := colEnergy s r + o.1 * eAct s
            let place (j : Nat) : Nat := locAddr s die pos (r.off + 32 * j)
            (∀ t, sweepTurn v die pos i = true → sweepSlot v die pos = some t →
                slot (setPair t die pos { pairAt t die pos with rot := smSet (pairAt t die pos).rot 3 0 }))
            ∧ ((sweepTurn v die pos i = true → sweepSlot v die pos = none) →
              (s.sched.blocked ≤ cls ∨ spend v cls e = none →
                slot (lowSlot { v with sched := { v.sched with blocked := min v.sched.blocked cls } } die pos pullIn))
              ∧ (cls < s.sched.blocked → (spend v cls e).isSome = true → ∃ u, slot (refillEmber u die pos)
                ∧ (pairAt u die pos).q = queueAfter p.q i r
                ∧ u.sched.energy = s.sched.energy + e
                ∧ (∀ n tx, r.op = .read n → smFind s.ports.txns n = some tx → ∃ ty, smFind u.ports.txns n = some ty
                    ∧ ty = { tx with
                        left := tx.left - 1
                        data := tx.data ++ (List.range r.n).map fun j => (r.addr + 32 * j, (granAt s (r.off + 32 * j) (place j)).2) })
                ∧ (∀ n d, r.op = .write n [d] → s.warp.migr = none → locReserved s r.off = false → u.mem = memPut s.mem (place 0) d)
                ∧ ((∀ n ds, r.op ≠ .write n ds) → (∀ n ds, r.op ≠ .merge n ds) → (∀ h ts d, r.op ≠ .hobSt h ts d) →
                    u.mem = s.mem ∧ u.rmem = s.rmem))))))

/-- The warp code keeps every guarantee of R303: clean, corrected, never mistaken for poison, and no wrong address. States
R303. -/
def Obligations.WarpGuarantees : Prop :=
  (∀ (x : Datum) (a : Nat), a < 2 ^ 32 →
    let w := warpEncode x a
    (x.poison = false → warpDecode w a = (.clean, x))
    ∧ (x.poison = true → warpDecode w a = (.poison, ⟨0, true⟩))
    ∧ (∀ i e, i < 68 → 0 < e → e < 16 →
        warpDecode (w ^^^ (e <<< (4 * i))) a = if x.poison then (.uncorrectable, ⟨0, true⟩) else (.correctable, x))
    ∧ (∀ i j e f, x.poison = false → i < j → j < 68 → 0 < e → e < 16 → 0 < f → f < 16 →
        warpDecode (w ^^^ (e <<< (4 * i)) ^^^ (f <<< (4 * j))) a = (.uncorrectable, ⟨0, true⟩))
    ∧ ∀ b, b < 2 ^ 32 → a ≠ b → (List.range 32).countP (fun k => bitAt a k != bitAt b k) ≤ 3 →
        warpDecode w b = (.uncorrectable, ⟨0, true⟩))
  ∧ ∀ w a : Nat, (warpDecode w a).1 = .clean ∨ (warpDecode w a).1 = .correctable
      ∨ ((warpDecode w a).1 = .uncorrectable ∧ (warpDecode w a).2 = ⟨0, true⟩)
      ∨ ((warpDecode w a).1 = .poison ∧ (warpDecode w a).2 = ⟨0, true⟩)

/-- The scrub queue rewrites what it finds in error, the verify read sorts hard from soft, and weft retries are bounded. Rests
on spec/11_warp_and_weft.md; spec/22_faults_and_recovery.md, Error history. -/
def Obligations.RewritesVerifiesAndRetries : Prop :=
  (∀ (s : State) (die pos : Nat) (l : Nat) (ls : List Nat), (pairAt s die pos).scrub = l :: ls →
    let a := locAddr s die pos l
    let k := die * 34 + physPair s die pos
    let r := granAt s l a
    let free : Prop := colSlotFree s die pos (sweepLim s die pos) = true ∧ sweepPaused s die pos = false
      ∧ (sweepPay s die pos l (eRd s)).isSome = true
    let rewritten (t : State) (d : Datum) (ue : Bool) : Prop := (l, ue) ∈ (pairAt t die pos).verify
      ∧ (locReserved s l = false → s.warp.migr = none → t.mem = memPut s.mem a d ∧ t.rmem = s.rmem)
      ∧ (locReserved s l = true → s.warp.migr = none → t.rmem = resPut s.rmem a d ∧ t.mem = s.mem)
    (¬ free → exec (.scrubQueueService die pos) s = .next s)
    ∧ (free → ∃ t, exec (.scrubQueueService die pos) s = .next t ∧ (pairAt t die pos).scrub = ls
          ∧ (r.1 = .correctable → rewritten t r.2 false ∧ smGet 0 t.warp.ce k = smGet 0 s.warp.ce k + 1)
          ∧ (r.1 = .uncorrectable → rewritten t ⟨0, true⟩ true ∧ smGet 0 t.warp.ue k = smGet 0 s.warp.ue k + 1)
          ∧ (r.1 = .poison → t.mem = s.mem ∧ t.rmem = s.rmem ∧ t.warp.sweepPoison = s.warp.sweepPoison + 1)
          ∧ (r.1 = .clean → t.mem = s.mem ∧ t.rmem = s.rmem ∧ t.warp = s.warp)
          ∧ t.regs = s.regs ∧ t.ports = s.ports ∧ t.fir = s.fir))
  ∧ (∀ (s : State) (die pos l : Nat) (ue : Bool) (vs : List (Nat × Bool)), (pairAt s die pos).verify = (l, ue) :: vs →
      let a := locAddr s die pos l
      let k := die * 34 + physPair s die pos
      let h := histOf s k
      let same : WarpRes := if ue = true then .poison else .clean
      let again : WarpRes := if (pairAt s die pos).overwritten.contains l = true then same else (granAt s l a).1
      let free : Prop := colSlotFree s die pos (sweepLim s die pos) = true ∧ (sweepPay s die pos l (eRd s)).isSome = true
      (¬ free → exec (.scrubVerifyRead die pos) s = .next s)
      ∧ (free → (∀ e ∈ h.hardList, e % 2 ^ 22 ≠ a % 2 ^ 22) →
        (again ≠ same → ∃ t, exec (.scrubVerifyRead die pos) s = .next t
          ∧ (histOf t k).hard = satAdd 16 h.hard 1 ∧ (histOf t k).hardUe = h.hardUe + (if ue then 1 else 0)
          ∧ (h.hardList.length < 16 → (histOf t k).hardList = h.hardList ++ [a % 2 ^ 22 + (if ue then 2 ^ 22 else 0)])
          ∧ (16 ≤ h.hardList.length → (histOf t k).hardList = h.hardList) ∧ (histOf t k).hours = h.hours ∧ t.mem = s.mem)
        ∧ (again = same → ∃ t, exec (.scrubVerifyRead die pos) s = .next t
          ∧ (histOf t k).hard = h.hard ∧ (histOf t k).hardList = h.hardList ∧ t.mem = s.mem
          ∧ (ue = true → (histOf t k).hours = h.hours)
          ∧ (ue = false →
              smGet 0 (histOf t k).hours (calHour s.fb.cal) = satAdd 16 (smGet 0 h.hours (calHour s.fb.cal)) 1))))
  ∧ (∀ s : State, (tilesSleep s = true → exec .sweepVisit s = .next s)
      ∧ (tilesSleep s = false → laggards s ≠ [] → s.warp.sweepPos < 0x8000000 → ∃ t, exec .sweepVisit s = .next t
          ∧ t.warp.sweepPos = s.warp.sweepPos ∧ t.warp.sweepPass = s.warp.sweepPass)
      ∧ (tilesSleep s = false → laggards s = [] → ∃ t, exec .sweepVisit s = .next t
          ∧ (let n := sweepNext s 65 (min s.warp.sweepPos 0x7FFFFE0 + 32)
             (n < 0x8000000 ∨ anyLag t = true → t.warp.sweepPos = n ∧ t.warp.sweepPass = s.warp.sweepPass)
             ∧ (0x8000000 ≤ n → anyLag t = false →
                 t.warp.sweepPos = sweepNext s 65 0 ∧ t.warp.sweepPass = s.warp.sweepPass + 1))
          ∧ ((∀ d p, d < s.boot.dies → p < 32 →
                (granAt s s.warp.sweepPos (locAddr s d p s.warp.sweepPos)).1 = .clean) →
              t.mem = s.mem ∧ t.rmem = s.rmem ∧ t.warp.sweepPoison = s.warp.sweepPoison)))
  ∧ ∀ (s : State) (die g fold : Nat) (wb : Bool) (unit : TsvUnit),
      let d := tsvDie s die
      let n := unitTries d unit
      let bus := unitBus unit
      let refused : Prop := die < s.boot.dies ∧ g < 34 ∧ wb = bus ∧ unitLive s unit = true
      (¬ refused → exec (.tsvNak die g wb unit fold) s = .next s)
      ∧ (refused → n < (if bus then 4 else 8) → ∃ t, exec (.tsvNak die g wb unit fold) s = .next t
        ∧ unitTries (tsvDie t die) unit = n + 1
        ∧ (tsvDie t die).weftRetry = d.weftRetry + (if bus then 1 else 0)
        ∧ (tsvDie t die).tsvRetry = d.tsvRetry + (if bus then 0 else 1)
        ∧ (bus = false → n = 4 → d.busy = none → d.spacing = false → (tsvDie t die).busy = some g)
        ∧ t.mem = s.mem ∧ t.ports = s.ports ∧ t.flt = s.flt)
      ∧ (refused → (if bus then 4 else 8) ≤ n → (smGet [] s.flt.chans 4).length < 64 → ∃ t, exec (.tsvNak die g wb unit fold) s = .next t
        ∧ (∀ k tx, unit = .txn k → smFind s.ports.txns k = some tx → ∃ ty, smFind t.ports.txns k = some ty
            ∧ ty.data = tx.data.map fun x => (x.1, { x.2 with poison := true }))
        ∧ (∀ rq off, unit = .register rq off → rqKey rq ∈ t.fir.weftLost)
        ∧ unitTries (tsvDie t die) unit = 0
        ∧ ∃ e, smGet [] t.flt.chans 4 = smGet [] s.flt.chans 4 ++ [e] ∧ e.code = 0x0106 ∧ e.die = die
            ∧ e.addr = unitFold s fold unit
            ∧ e.cls = (if (match unit with | .reduce _ => true | .other => true | _ => false) = true then FClass.block else FClass.data)
            ∧ t.mem = s.mem)

/-- A chunk copies its sixteen granules to the spare and moves the watermark, in a free slot or, forced, ahead of every class; a
switchover maps the position to the spare.
Rests on spec/11_warp_and_weft.md, Bank-pair sparing. -/
def Obligations.MigrationAndSwitchover : Prop :=
  (∀ (s : State) (g : Migr), chunkDue s = some g → g.mark % 512 = 0 → g.mark < 0x8000000 →
    physPair s g.die g.pos < 34 → g.spare < 34 → physPair s g.die g.pos ≠ g.spare →
    let spare (i : Nat) : Nat := physAddr g.die g.spare (g.mark + 32 * i)
    let copied (t : State) : Prop :=
      t.warp.migr = some { g with mark := g.mark + 512, switching := decide (0x8000000 ≤ g.mark + 512) }
      ∧ (∀ i, i < 16 → let d := (granAt s (g.mark + 32 * i) (locAddr s g.die g.pos (g.mark + 32 * i))).2
          (locReserved s g.mark = false → memWord t.mem (spare i) = warpEncode d (spare i))
          ∧ (locReserved s g.mark = true → resWord t.rmem (spare i) = warpEncode d (spare i)))
      ∧ (∀ a, (∀ i, i < 16 → a ≠ spare i) → memWord t.mem a = memWord s.mem a ∧ resWord t.rmem a = resWord s.rmem a)
      ∧ t.warp.map = s.warp.map ∧ t.regs = s.regs
    let may : Prop := colSlotFree s g.die g.pos 4 = true ∧ s.sched.blocked = 4 ∧ (spend s 3 (chunkEnergy s g)).isSome = true
    (∃ t, exec .forcedChunk s = .next t ∧ copied t ∧ t.sched.avail = s.sched.avail - (chunkEnergy s g : Nat))
    ∧ (may → ∃ t, exec .chunkCopied s = .next t ∧ copied t ∧ t.sched.energy = s.sched.energy + chunkEnergy s g)
    ∧ (¬ may → exec .chunkCopied s = .next s))
  ∧ (∀ s : State, chunkDue s = none → exec .chunkCopied s = .next s ∧ exec .forcedChunk s = .next s)
  ∧ ∀ (s : State) (g : Migr), s.warp.migr = some g →
      let n := g.die * 32 + g.pos
      let held := (∃ k x, curFiring s = some (k, x) ∧ inRect x.f n = true)
        ∨ ∃ c, s.flt.scan = some c ∧ c.phase = 2 ∧ c.die = g.die ∧ (c.pair = g.spare ∨ c.pos = some g.pos)
      (g.switching = false ∨ held → exec .switchover s = .next s)
      ∧ (g.switching = true → ¬ held → g.pos < 32 → physPair s g.die g.pos < 34 → g.spare < 34 →
          physPair s g.die g.pos ≠ g.spare →
          ∃ t, exec .switchover s = .next t
          ∧ physPair t g.die g.pos = g.spare
          ∧ (∀ d p, p < 32 → (d, p) ≠ (g.die, g.pos) → physPair t d p = physPair s d p)
          ∧ (histOf t (g.die * 34 + physPair s g.die g.pos)).st = .retired
          ∧ (histOf t (g.die * 34 + g.spare)).st = .spare
          ∧ (pairAt t g.die g.pos).scrub = [] ∧ (pairAt t g.die g.pos).q = (pairAt s g.die g.pos).q
          ∧ t.mem = s.mem ∧ t.regs = s.regs
          ∧ (s.warp.queue = [] → t.warp.migr = none ∧ tileOn t g.die (physPair s g.die g.pos) = false
              ∧ ∀ k m, g.mbox = some k → smFind s.fb.mbox k = some m → m.st = .running →
                  smFind t.fb.mbox k = some { m with st := .done, status := 0 }))

/-- A read or write of memory that the port takes is charged and joins its pair's queue as one burst; staging answers at once.
Rests on spec/12_memory_model.md; spec/13_hearth_port.md; spec/02_stack_organisation.md, Striped regions. -/
def Obligations.ReadsAndWritesReachTheirPair : Prop :=
  ∀ (s : State) (m : Nat) (h : BitVec 256) (ds : List Datum), TakesAtOnce s m h ds →
    let a := hAddr h
    let enter (c : Instr) (f : State → Prop) : Prop := ∃ u,
      exec c s = .next (portsGo (freeCred u false m (reqCred ⟨h, ds⟩))) ∧ ChargedFor s u h ∧ u.mem = s.mem
      ∧ u.regs = s.regs ∧ u.regions = s.regions ∧ f u
    let column (isWrite : Bool) (n : Nat) (op : Nat → ColOp) (u : State) : Prop :=
      u.staging = s.staging ∧ ∃ k, smFind u.ports.txns k = some (Txn.mk false m h (chanKey false m h) isWrite 1 [] false false)
        ∧ ∀ pl, addrPlace s (a / 32 * 32) = some pl → (pairAt u pl.die pl.pos).q = (pairAt s pl.die pl.pos).q ++ [ColReq.mk (hCls h) .hearth pl.loc n (a / 32 * 32) (some (hPart h)) (op k) false]
    let answered (opc : Nat) (data : List Datum) (u : State) : Prop := ∃ e,
      (modOf u false m).egress = (modOf s false m).egress ++ [e] ∧ hOpc e.pkt.hdr = opc ∧ hStatus e.pkt.hdr = 0
        ∧ hTag e.pkt.hdr = hTag h ∧ hSrc e.pkt.hdr = hSrc h ∧ e.pkt.data = data
    let ens := (List.range ds.length).map (wrEnables h)
    (hOpc h = 1 → InMemory a → enter (.rd false m h ds) (column false (granulesOf a (hLen h)) .read))
    ∧ (hOpc h = 1 → inStgWin a = true → hPosted h = false →
        enter (.rd false m h ds) (answered 0x80 ((List.range (granulesOf a (hLen h))).map fun i =>
          cutDatum a (hLen h) (32 * (a / 32 + i)) (stgRead s.staging (a / 32 + i - stgWin / 32)))))
    ∧ (hOpc h = 2 → InMemory a → ens.all enFull = true → enter (.wr false m h ds) (column true ds.length fun k => .write k ds))
    ∧ (hOpc h = 2 → InMemory a → ens.all enFull = false →
        enter (.wr false m h ds) (column true ds.length fun k => .merge k (ds.zip ens)))
    ∧ (hOpc h = 2 → inStgWin a = true → hPosted h = false → ens.all enFull = true →
        enter (.wr false m h ds) fun u => answered 0x81 [] u
          ∧ ∀ i, i < ds.length → (∀ d ∈ ds, d.poison = false) →
              (stgRead u.staging (a / 32 + i - stgWin / 32)).bits = (ds.getD i ⟨0, true⟩).bits)
    ∧ (hOpc h = 3 → InMemory a → ens.all enFull = false →
        enter (.wrbe false m h ds) (column true ds.length fun k => .merge k (ds.zip ens)))
    ∧ (hOpc h = 3 → InMemory a → ens.all enFull = true →
        enter (.wrbe false m h ds) (column true ds.length fun k => .write k ds))

/-- Accumulating writes, fences, transposed reads and doorbells that the port takes enter their own structures, and waiting
ones go on. Rests on spec/12_memory_model.md, An agent's own requests; spec/13_hearth_port.md; spec/07_gradient_steps.md. -/
def Obligations.OrderedRequestsTakeEffect : Prop :=
  (∀ (s : State) (m : Nat) (h : BitVec 256) (ds : List Datum), TakesAtOnce s m h ds →
    let a := hAddr h
    let enter (c : Instr) (f : State → Prop) : Prop := ∃ u,
      exec c s = .next (portsGo (freeCred u false m (reqCred ⟨h, ds⟩))) ∧ u.mem = s.mem ∧ ChargedFor s u h ∧ f u
    let quiet (u : State) : Prop := u.sched.pairs = s.sched.pairs
    (∀ i r k c pl, hOpc h = 4 → findRegion s a = some (i, r) → ctxOfRgn s i = some (k, c) →
        accPlace s r a (hdrF h 160 2) = some pl →
        (c.isOpen = true → hdrF h 128 32 = c.openEpoch → enter (.accw false m h ds) fun u => ∃ x, u.stp.acc = smSet s.stp.acc s.stp.next x
            ∧ u.stp.next = s.stp.next + 1 ∧ x.ctx = k ∧ x.epoch = hdrF h 128 32 ∧ x.rgn = i ∧ x.die = pl.die
            ∧ x.pos = pl.pos ∧ x.loc = pl.loc + x.epoch % 2 * (sliceBytes r / 2) ∧ x.fmt = hdrF h 160 2
            ∧ x.contrib = hdrF h 162 12 ∧ x.rtag = hdrF h 174 16 ∧ x.data = ds
            ∧ let place := accAt s x
              (pairAt u x.die x.pos).q = (pairAt s x.die x.pos).q ++ [ColReq.mk (hCls h) .accw (place.ub + 128 * place.b) 4
                (a / 32 * 32) (some (hPart h)) (.acc s.stp.next (place.ub + 2048)) false])
        ∧ (c.isOpen = false ∨ hdrF h 128 32 ≠ c.openEpoch → enter (.accw false m h ds) fun u => u.stp.acc = s.stp.acc
          ∧ (hPosted h = false → ∃ e, (modOf u false m).egress = (modOf s false m).egress ++ [e]
              ∧ hStatus e.pkt.hdr = (if c.openEpoch ≤ hdrF h 128 32 then 5 else 0))))
    ∧ (∀ i r k c, hOpc h = 5 → findRegion s a = some (i, r) → ctxOfRgn s i = some (k, c) →
        enter (.cfence false m h ds) fun u => quiet u ∧ ∃ x, u.stp.fences = smSet s.stp.fences s.stp.next x
          ∧ x.ctx = k ∧ x.epoch = hdrF h 128 32 ∧ x.contrib = hdrF h 162 12 ∧ x.hdr = h
          ∧ ∀ n, n ∈ x.wait ↔ ∃ y, (n, y) ∈ s.stp.acc ∧ y.ctx = k ∧ y.contrib = hdrF h 162 12 ∧ y.chan = chanKey false m h)
    ∧ (hOpc h = 6 → enter (.tread false m h ds) fun u => quiet u ∧ u.tposeUsed = s.tposeUsed
        ∧ ∃ n, u.treads = smSet s.treads n { module := m, hdr := h, cls := hCls h, part := hPart h })
    ∧ (hOpc h = 7 → enter (.fence false m h ds) fun u => quiet u ∧ ∃ f, u.ports.fences = s.ports.fences ++ [f]
        ∧ f.hdr = h ∧ f.no = s.ports.nextTxn ∧ f.flue = false
        ∧ ∀ v, v < 4 → (hSrc h * 4 + v ∈ f.chans ↔ bitAt (hdrF h 112 4) v = true))
    ∧ (hOpc h = 8 → ∃ u w, exec (.db false m h ds) s = .next (portsGo (freeCred u false m (reqCred ⟨h, ds⟩)))
        ∧ u = reply (doorbellWrite w (.hearth m (hSrc h) (hPart h)) (a - regWin) 8 (BitVec.ofNat 64 (hdrF h 128 64)))
            false false m h 0 []
        ∧ ChargedFor s w h ∧ w.regs = s.regs ∧ w.mem = s.mem ∧ w.spl = s.spl ∧ w.regions = s.regions))
  ∧ (∀ (s : State) (i : Nat) (f : FenceR), s.ports.fences[i]? = some f →
      (fenceOver s f = false → exec (.fenceComplete i) s = .next s)
      ∧ (fenceOver s f = true → f.flue = false → f.mute = false → hPosted f.hdr = false →
          ∃ u e, exec (.fenceComplete i) s = .next (portsGo u) ∧ u.ports.fences = s.ports.fences.eraseIdx i
            ∧ (modOf u false f.module).egress = (modOf s false f.module).egress ++ [e]
            ∧ hOpc e.pkt.hdr = 0x81 ∧ hStatus e.pkt.hdr = 0 ∧ hTag e.pkt.hdr = hTag f.hdr))
  ∧ ∀ (s : State) (c : Nat) (w : WaitReq), smGet [] s.ports.waitQ c = [w] → w.flue = false → tilesSleep s = false →
      s.flt.ctlStop = false → (ctlOf s w.pkt.hdr).any s.flt.ctl.contains = false →
      hOpc w.pkt.hdr = 1 → InMemory (hAddr w.pkt.hdr) → reqStatus s false w.pkt.hdr = 0 → reqWaits s false w.module w.pkt.hdr w.no = false → hCls w.pkt.hdr ≠ 0 →
      (damperTake s (hPart w.pkt.hdr) .hearth (hCls w.pkt.hdr) (reqCharge w.pkt.hdr) = none → ∃ u,
        exec (.damperAdmit c) s = .next (portsGo u)
        ∧ u = { s with ports := { s.ports with waitQ := smSet s.ports.waitQ c [{ w with why := .damper }] } })
      ∧ ∀ s1, damperTake s (hPart w.pkt.hdr) .hearth (hCls w.pkt.hdr) (reqCharge w.pkt.hdr) = some s1 → ∃ u,
        exec (.damperAdmit c) s = .next (portsGo u) ∧ smGet [] u.ports.waitQ c = [] ∧ u.parts = s1.parts

/-- A module moves between its link states by the rows of R364, and only by them. Rests on spec/13_hearth_port.md, Link
states; spec/14_flue_port.md. -/
def Obligations.LinkStates : Prop :=
  (∀ (s : State) (fl : Bool) (m : Nat), m < 16 →
    let x := modOf s fl m
    let from_ (c : Instr) (a : ModS) (f : State → PModule → Prop) : Prop :=
      (x.st = a → ∃ t, exec c s = .next t ∧ f t (modOf t fl m) ∧ OthersKept s t fl m ∧ t.mem = s.mem ∧ t.regs = s.regs)
      ∧ (x.st ≠ a → exec c s = .next s)
    let failed (t : State) (y : PModule) : Prop := y.st = .down ∧ y.fails = min 8 (x.fails + 1) ∧ y.egress = x.egress
      ∧ (fl = false → ∀ q a, (q, a) ∈ t.ports.agents → a.bound = true → a.module ≠ m)
    let alert : Nat := if fl then 4 else 1
    (s.boot.st = .service → ∃ t, exec (.linkRetryTimer fl m) s = .next t ∧ OthersKept s t fl m
        ∧ (x.st = .down → x.fails < 8 → modOf t fl m = { x with st := .train, ssc := if fl then 0 else regRd s 0x50018 })
        ∧ (x.st = .down → 8 ≤ x.fails → modOf t fl m = { x with st := .failed }
            ∧ t.fb.alertCause = s.fb.alertCause ||| alert)
        ∧ (x.st ≠ .down → t = s))
    ∧ from_ (.trainTimeout fl m) .train failed
    ∧ from_ (.paramTimeout fl m) .param failed
    ∧ from_ (.initialCreditTimeout fl m) .credit failed
    ∧ from_ (.laneFailure fl m) .up (fun _ y => y = { x with st := .retrain })
    ∧ (∀ half n, ∃ t, exec (.ucieLinkActive fl m half n) s = .next t ∧ OthersKept s t fl m
        ∧ (x.st = .train → modOf t fl m = { x with st := .param, half := half, repaired := n })
        ∧ (x.st = .retrain → (modOf t fl m).st = .up ∧ (modOf t fl m).half = half ∧ (modOf t fl m).replay = x.replay
            ∧ (modOf t fl m).resend = (if x.resend = [] then x.replay else x.resend)
            ∧ (modOf t fl m).txCred = x.txCred ∧ (modOf t fl m).rxCred = x.rxCred)
        ∧ (x.st ≠ .train → x.st ≠ .retrain → t = s))
    ∧ (∀ q : ParamMsg, x.st ≠ .param → exec (.parameterMessage fl m q) s = .next s)
    ∧ (∀ q : ParamMsg, x.st = .param → ∃ t, exec (.parameterMessage fl m q) s = .next t ∧ OthersKept s t fl m
        ∧ (paramOk s fl m q = true → (modOf t fl m).st = .credit ∧ (modOf t fl m).replay = []
            ∧ (∀ i ∈ blockIdx fl, smGet 0 (modOf t fl m).credDue i = blockInit fl i) ∧ (modOf t fl m).rxCred = []
            ∧ (modOf t fl m).txCred = [] ∧ (modOf t fl m).rxSeq = 255 ∧ (modOf t fl m).txSeq = 0
            ∧ (fl = false → ∀ r ∈ q.srcs, smGet ({} : Agent) t.ports.agents r = ⟨true, m⟩))
        ∧ (paramOk s fl m q = false → (modOf t fl m).st = .failed ∧ t.fb.alertCause = s.fb.alertCause ||| alert
            ∧ t.ports.agents = s.ports.agents))
    ∧ (fl = false → spoolsLost s m = [] → from_ (.retrainTimeout fl m) .retrain fun t y =>
        y.st = .down ∧ y.egress = [] ∧ y.replay = [] ∧ y.resend = [] ∧ y.rxCred = [] ∧ y.txCred = []
        ∧ y.discard = x.discard + x.egress.length + x.replay.length
        ∧ ∀ q a, (q, a) ∈ t.ports.agents → a.bound = true → a.module ≠ m)
    ∧ (fl = true → x.st = .retrain → ∃ t, exec (.retrainTimeout fl m) s = .next t ∧ (modOf t fl m).st = .down
        ∧ (modOf t fl m).replay = [] ∧ (modOf t fl m).txCred = [])
    ∧ (x.st = .up → x.egress ≠ [] → ∃ t, exec (.responseCreditStall fl m) s = .next t
        ∧ (modOf t fl m).egress = x.egress ∧ (modOf t fl m).st = .up
        ∧ t.fb.alertCause = s.fb.alertCause ||| (if fl then 8 else 2))
    ∧ (x.st ≠ .up ∨ x.egress = [] → exec (.responseCreditStall fl m) s = .next s))
  ∧ ∀ (s : State) (rq : Requester) (fl : Bool), Accepted s rq →
      let u := accessCharge s rq
      let m := selF u rq (if fl then 0x20000 else 0x10000) 0 4
      regAllowed u rq = true →
      ((modOf u fl m).st = .failed → ∃ t, exec (.moduleRetry rq fl) s = .next t ∧ OthersKept u t fl m
        ∧ modOf t fl m = { modOf u fl m with st := .down, fails := 0 })
      ∧ ((modOf u fl m).st ≠ .failed → exec (.moduleRetry rq fl) s = .next u)

/-- Flits are taken in sequence and whole or not at all; ACK, NAK and CREDIT move the replay buffer and the credits. Rests on
spec/13_hearth_port.md, Flits; spec/13_hearth_port.md, Virtual channels and credits. -/
def Obligations.FlitsAndCredits : Prop :=
  ∀ (s : State) (fl : Bool) (m : Nat), m < 16 →
    let x := modOf s fl m
    (x.st = .up ∨ x.st = .credit →
      (∀ f : Flit, ∃ t, exec (.flitReceived fl m f) s = .next t
        ∧ (flitCrcOk f = false ∨ f.seq ≠ x.rxSeq + 1 →
            modOf t fl m = { x with
              crcErr := x.crcErr + (if flitCrcOk f then 0 else 1)
              discarding := true
              nakDue := (x.nakDue || !x.discarding)
              viol := (modOf t fl m).viol }
            ∧ OthersKept s t fl m ∧ t = { s with ports := t.ports })
        ∧ (flitCrcOk f = true → f.seq = x.rxSeq + 1 → x.partialPkts = [] → f.slots = List.replicate 7 0 →
            (∀ i, i < 7 → slotWeftOk f i 0 = true) → ∃ u, t = portsGo u
              ∧ modOf u fl m = { x with rxSeq := f.seq, discarding := false, ackDue := x.ackDue + 1 }
              ∧ u = { s with ports := u.ports, obs := u.obs })
        ∧ (∀ p, fl = false → spoolsLost s m = [] → flitCrcOk f = true → f.seq = x.rxSeq + 1 →
            (flitParse s fl f x.partialPkts).ok = true → flitShort fl x.rxCred (flitParse s fl f x.partialPkts).out = some p →
            ∃ u, t = portsGo u ∧ (modOf u fl m).st = .down ∧ (modOf u fl m).egress = [] ∧ (modOf u fl m).replay = []
              ∧ (modOf u fl m).discard = x.discard + x.egress.length + x.replay.length))
      ∧ (∀ h, hOpc h = 0xF1 → ctlForm h = true → ∃ u, exec (.ack fl m h) s = .next (portsGo u)
          ∧ OthersKept s u fl m ∧ u = { s with ports := u.ports }
          ∧ ((∀ f ∈ x.replay, f.seq ≠ BitVec.ofNat 8 (hdrF h 64 8)) → modOf u fl m = x)
          ∧ ∀ a f b, x.replay = a ++ f :: b → f.seq = BitVec.ofNat 8 (hdrF h 64 8) →
              (∀ g ∈ a, g.seq ≠ BitVec.ofNat 8 (hdrF h 64 8)) → modOf u fl m = { x with replay := b, replays := 0 })
      ∧ (∀ h a f b, hOpc h = 0xF2 → ctlForm h = true → x.replay = a ++ f :: b → f.seq = BitVec.ofNat 8 (hdrF h 64 8) →
          (∀ g ∈ a, g.seq ≠ BitVec.ofNat 8 (hdrF h 64 8)) → ∃ u, exec (.nak fl m h) s = .next (portsGo u)
          ∧ (a ≠ [] → modOf u fl m = { x with
              replay := f :: b
              resend := f :: b
              replays := 1
              replayCnt := x.replayCnt + 1 })
          ∧ (a = [] → x.replays < 8 → modOf u fl m = { x with
              resend := f :: b
              replays := x.replays + 1
              replayCnt := x.replayCnt + 1 })
          ∧ (a = [] → x.replays = 8 → (modOf u fl m).st = .retrain ∧ (modOf u fl m).replay = x.replay
              ∧ (modOf u fl m).txCred = x.txCred ∧ (modOf u fl m).rxCred = x.rxCred))
      ∧ (∀ h i, hOpc h = 0xF0 → ctlForm h = true → creditIdx fl h = some i → ∃ u, exec (.credit fl m h) s = .next (portsGo u)
          ∧ smGet 0 (modOf u fl m).txCred i = smGet 0 x.txCred i + hdrF h 64 16
          ∧ smGet 0 (modOf u fl m).txCred (if i < 4 then i + 4 else i + 1)
              = smGet 0 x.txCred (if i < 4 then i + 4 else i + 1) + hdrF h 80 16
          ∧ (modOf u fl m).st = (if x.st = .credit ∧ (∀ q ∈ partnerIdx fl,
                q ∈ x.credSeen ∨ q = i ∨ q = (if i < 4 then i + 4 else i + 1)) then .up else x.st)
          ∧ OthersKept s u fl m)
      ∧ (∀ h, ctlForm h = false → ∀ c ∈ ([(.ack fl m h, 0xF1), (.nak fl m h, 0xF2), (.credit fl m h, 0xF0)] : List (Instr × Nat)),
          hOpc h = c.2 → ∃ u, exec c.1 s = .next (portsGo u)
            ∧ modOf u fl m = { x with viol := (modOf u fl m).viol } ∧ u = { s with ports := u.ports })
      ∧ (∀ f fs, x.resend = f :: fs → ∃ t, exec (.flitSent fl m) s = .next t ∧ modOf t fl m = { x with resend := fs }
          ∧ OthersKept s t fl m)
      ∧ (x.resend = [] → 64 ≤ x.replay.length → exec (.flitSent fl m) s = .next s)
      ∧ (x.resend = [] → x.replay.length < 64 → ∃ u f, exec (.flitSent fl m) s = .next (portsGo u)
          ∧ (modOf u fl m).replay = x.replay ++ [f] ∧ f.seq = x.txSeq ∧ (modOf u fl m).txSeq = x.txSeq + 1
          ∧ f.slots.length = 7 ∧ flitCrcOk f = true ∧ u.mem = s.mem ∧ u.regs = s.regs))
    ∧ (x.st ≠ .up → x.st ≠ .credit → exec (.flitSent fl m) s = .next s ∧ ∀ f, exec (.flitReceived fl m f) s = .next s)

/-- Light states follow their inputs, and the session timers send HELLO, PING or end the session. Rests on
spec/14_flue_port.md. -/
def Obligations.LightAnchorsAndTimers : Prop :=
  (∀ (s : State) (m : Nat) (lol att : Bool), m < 16 →
      let x := modOf s true m
      (∃ t, exec (.lightInputChange m lol att) s = .next t ∧ (modOf t true m).lol = lol ∧ (modOf t true m).att = att
        ∧ (lol = true → att = false → (modOf t true m).light = (if x.light = .dark then .settling else x.light)
            ∧ (modOf t true m).egress = x.egress ∧ OthersKept s t true m ∧ t.ports.peers = s.ports.peers)
        ∧ (lol = false ∨ att = true → (modOf t true m).light = .dark
            ∧ (x.light ≠ .dark → (∀ e ∈ (modOf t true m).egress, e.grp < 3 ∨ 5 < e.grp)
                ∧ s.ports.lossDark + (x.egress.filter fun e => 3 ≤ e.grp ∧ e.grp ≤ 5).length ≤ t.ports.lossDark)))
      ∧ (x.light = .settling → ∃ t, exec (.attachSettled m) s = .next t ∧ modOf t true m = { x with light := .lit }
          ∧ OthersKept s t true m ∧ t = { s with ports := t.ports, obs := t.obs })
      ∧ (x.light ≠ .settling → exec (.attachSettled m) s = .next s))
  ∧ (∀ (s : State) (k m : Nat), k < 4096 →
      let p := smGet ({} : Peer) s.ports.peers k
      let t' (c : Instr) (f : State → Peer → Prop) : Prop := ∃ t, exec c s = .next t ∧ f t (smGet {} t.ports.peers k)
        ∧ t.mem = s.mem ∧ t.regs = s.regs ∧ t.str = s.str ∧ ∀ j, j ≠ k → smGet ({} : Peer) t.ports.peers j = smGet {} s.ports.peers j
      let sends (opc : Nat) (t : State) : Prop := ∃ e, (modOf t true m).egress = (modOf s true m).egress ++ [e]
        ∧ hOpc e.pkt.hdr = opc ∧ hDpeer e.pkt.hdr = p.id % 65536 ∧ hSpeer e.pkt.hdr = s.ports.peerId % 65536 ∧ e.peer = some k
      let hello (t : State) (q : Peer) : Prop := q = { p with sess := .helloSent, n := 1 } ∧ sends 0xA0 t
      p.enabled = true → anchorOf s p = some m →
      (p.sess = .closed → t' (.anchorGained k) hello)
      ∧ (p.sess = .unreachable ∨ p.sess = .refused → t' (.unreachableRetry k) hello)
      ∧ (p.sess = .helloSent → p.n < 8 → t' (.helloTimeout k) fun t q => q = { p with n := p.n + 1 } ∧ sends 0xA0 t)
      ∧ (p.sess = .helloSent → 8 ≤ p.n → t' (.helloTimeout k) fun _ q => q = { p with sess := .unreachable, unreach := true })
      ∧ (p.sess = .open → t' (.keepaliveIdle k) fun t q => q = p ∧ sends 0xA3 t)
      ∧ (p.sess ≠ .closed → exec (.anchorGained k) s = .next s)
      ∧ (p.sess ≠ .helloSent → exec (.helloTimeout k) s = .next s)
      ∧ (p.sess ≠ .unreachable → p.sess ≠ .refused → exec (.unreachableRetry k) s = .next s)
      ∧ (p.sess ≠ .open → exec (.keepaliveIdle k) s = .next s ∧ exec (.sessionExpiry k) s = .next s)
      ∧ (p.sess = .open → ∃ t, exec (.sessionExpiry k) s = .next t ∧ (smGet ({} : Peer) t.ports.peers k).sess = .helloSent
          ∧ (smGet ({} : Peer) t.ports.peers k).n = 1))
  ∧ ∀ s : State, ∃ t, exec .violPeriodBoundary s = .next t ∧ t = { s with ports := { s.ports with hp := t.ports.hp } }
      ∧ ∀ m, modOf t false m = { modOf s false m with viol := (modOf t false m).viol }
          ∧ (∀ k, k ≠ 8 → smGet ({} : Viol) (modOf t false m).viol k = smGet {} (modOf s false m).viol k)
          ∧ (smGet ({} : Viol) (modOf t false m).viol 8).valid = false

/-- HELLO and HELLO_ACK open a session that passes the checks, BYE ends it, PING is answered and PONG needs no answer. Rests
on spec/14_flue_port.md, Light and sessions. -/
def Obligations.SessionFrames : Prop :=
  (∀ (s : State) (m k : Nat) (h : BitVec 256) (ds : List Datum) (p : Peer) (ack : Bool),
      let v := (takeCred s true m ⟨h, ds⟩).getD s
      modCarries s true m = true → hOpc h = (if ack then 0xA1 else 0xA0) → (takeCred s true m ⟨h, ds⟩).isSome = true →
      frameForm h = true → ds.length = 1 → hDpeer h = s.ports.peerId → peerOf s (hSpeer h) = some (k, p) →
      smGet {} s.ports.peers k = p →
      let ok := helloCheck p h (dataBytes ds) = 0
      ∃ u, (ack = false → exec (.hello m h ds) s = .next (portsGo (freeCred u true m (pktCred true ⟨h, ds⟩))))
        ∧ (ack = true → exec (.helloAck m h ds) s = .next (portsGo (freeCred u true m (pktCred true ⟨h, ds⟩))))
        ∧ (let q := smGet ({} : Peer) u.ports.peers k
           (ok → p.sess = .helloSent ∨ (ack = false ∧ (p.sess = .closed ∨ p.sess = .unreachable)) →
              q.sess = .open ∧ q.boot = some (leAt (dataBytes ds) 8 4) ∧ q.rxSseq = [] ∧ q.txSseq = [] ∧ q.unreach = false
              ∧ q.id = p.id ∧ q.roles = p.roles)
           ∧ (p.sess = .refused ∨ (ok ∧ ack = true ∧ p.sess ≠ .helloSent) → u = v)
           ∧ (¬ ok → p.sess ≠ .refused → q.sess = .refused)))
  ∧ ∀ (s : State) (m k : Nat) (h : BitVec 256) (ds : List Datum) (p : Peer), FrameTaken s m h ds k p → k < 4096 →
      smGet {} s.ports.peers k = p →
      let v := frameSeen s m h ds k
      let done (u : State) : State := portsGo (freeCred u true m (pktCred true ⟨h, ds⟩))
      (hOpc h = 0xA3 → ∀ a, anchorOf v p = some a → ∃ u e, exec (.ping m h ds) s = .next (done u)
          ∧ (modOf u true a).egress = (modOf v true a).egress ++ [e] ∧ hOpc e.pkt.hdr = 0xA4
          ∧ hDpeer e.pkt.hdr = p.id % 65536)
      ∧ (hOpc h = 0xA4 → exec (.pong m h ds) s = .next (done v))
      ∧ (hOpc h = 0xA2 → ∃ u, exec (.bye m h ds) s = .next (done u) ∧ (smGet ({} : Peer) u.ports.peers k).sess ≠ .open)
      ∧ (∀ c, seqChan h = some c → smGet 0 (smGet ({} : Peer) v.ports.peers k).rxSseq c = (hSseq h + 1) % 65536)

/-- A receive stream begins, fills, completes, is made final, recanted or incomplete by the rows of R392. Rests on
spec/14_flue_port.md, Fan-out and recant; spec/15_twin_and_smoke.md, Smoke. -/
def Obligations.ReceiveStreams : Prop :=
  let finalOf (r : Rx) : Rx := { r with st := .final, lastFinal := r.epoch, validHalf := 1 - r.validHalf }
  (∀ (s : State) (m k : Nat) (h : BitVec 256) (ds : List Datum) (p : Peer), FrameTaken s m h ds k p → bitAt p.roles 3 = true →
      let v := frameSeen s m h ds k
      let e := hdrF h 128 32
      let i := hdrF h (if hOpc h = 0xC5 then 192 else 160) 8
      let enter (c : Instr) (f : State → Prop) : Prop :=
        ∃ u, exec c s = .next (portsGo (freeCred u true m (pktCred true ⟨h, ds⟩))) ∧ f u
      let becomes (c : Instr) (r' : Rx) : Prop := enter c fun u => smFind u.str.rxFan i = some r' ∧ u.mem = s.mem
        ∧ u = { v with str := { v.str with rxFan := u.str.rxFan } }
      let drops (c : Instr) : Prop := enter c fun u => u = violFlue v k 10 h
      let short (c : Instr) (r : Rx) : Prop := enter c fun u => u.mem = s.mem ∧ u.ports.lossRx = s.ports.lossRx + 1
        ∧ smFind u.str.rxFan i = some { r with st := .incomplete, want := none }
      ∀ r, rxFrom v false p i = some r →
      (hOpc h = 0xC0 →
        (((r.st = .idle ∨ r.st = .final) ∧ (e = r.lastFinal + 1 ∨ hdrF h 177 1 = 1))
            ∨ ((r.st = .recanted ∨ r.st = .incomplete) ∧ hdrF h 177 1 = 1) →
          becomes (.fanOpen m h ds) { r with
            st := .receiving
            epoch := e
            got := 0
            want := none
            wantFinal := false
            gap := false
            slice := 32 * hdrF h 178 30 })
        ∧ (r.st = .receiving ∨ r.st = .complete → drops (.fanOpen m h ds)))
      ∧ (hOpc h = 0xC1 →
          (r.st ≠ .receiving ∨ e ≠ r.epoch → drops (.fanData m h ds))
          ∧ (r.st = .receiving → e = r.epoch → r.want = none → ∀ g, rxRegion v r = some g →
              (hAddr h % 32 = 0 → hAddr h + 32 * ds.length ≤ r.half → enter (.fanData m h ds) fun u =>
                smFind u.str.rxFan i = some { r with got := r.got + ds.length }
                ∧ let to_ := g.base + (1 - r.validHalf) * r.half + hAddr h
                  u.mem = (engWrite (engNow v (engWrites v (hCls h) to_ (32 * ds.length))) to_ ds).mem)
              ∧ (hAddr h % 32 ≠ 0 ∨ r.half < hAddr h + 32 * ds.length → short (.fanData m h ds) r)))
      ∧ (hOpc h = 0xC2 → r.st = .receiving → e = r.epoch →
          (hdrF h 168 4 = 0 → hdrF h 176 32 ≤ r.got → becomes (.fanEnd m h ds)
            (let c := { r with st := .complete, complete := r.epoch, want := none, wantFinal := decide (hdrF h 172 1 = 1) }
             if hdrF h 172 1 = 1 then finalOf c else c))
          ∧ (hdrF h 168 4 = 0 → r.got < hdrF h 176 32 → becomes (.fanEnd m h ds)
              { r with want := some (hdrF h 176 32), wantFinal := decide (hdrF h 172 1 = 1) })
          ∧ (hdrF h 168 4 ≠ 0 → short (.fanEnd m h ds) r))
      ∧ (hOpc h = 0xC3 → (r.st = .complete ∧ e = r.epoch → becomes (.fanFinal m h ds) (finalOf r))
          ∧ (r.st ≠ .complete ∨ e ≠ r.epoch → drops (.fanFinal m h ds)))
      ∧ (hOpc h = 0xC4 → (r.st = .complete ∧ e = r.epoch → becomes (.recant m h ds) { r with st := .recanted })
          ∧ (r.st ≠ .complete ∨ e ≠ r.epoch → drops (.recant m h ds)))
      ∧ (hOpc h = 0xC5 → r.st = .complete →
          (hdrF h 200 1 = 1 → r.epoch = hdrF h 160 32 → becomes (.fanState m h ds) { r with st := .recanted })
          ∧ (hdrF h 200 1 = 0 → r.epoch = e → becomes (.fanState m h ds) (finalOf r))
          ∧ (hdrF h 200 1 = 0 → r.epoch ≠ e → becomes (.fanState m h ds) r)))
  ∧ (∀ (s : State) (m k : Nat) (h : BitVec 256) (ds : List Datum) (p : Peer), FrameTaken s m h ds k p →
      let v := frameSeen s m h ds k
      let e := hdrF h 128 32
      let i := hdrF h 160 8
      let enter (c : Instr) (f : State → Prop) : Prop :=
        ∃ u, exec c s = .next (portsGo (freeCred u true m (pktCred true ⟨h, ds⟩))) ∧ f u
      ∀ r, rxFrom v true p i = some r →
      (hOpc h = 0xD9 →
        (hdrF h 168 4 = 1 ∨ hdrF h 168 4 = 3 → enter (.smokeMark m h ds) fun u => u.mem = s.mem ∧
          smFind u.str.rxSmoke i = some { r with
            st := .receiving
            epoch := e
            got := 0
            want := none
            wantFinal := false
            gap := false
            slice := 0 })
        ∧ (hdrF h 168 4 = 2 → hdrF h 172 1 = 1 → enter (.smokeMark m h ds) fun u => u.mem = s.mem ∧
            smFind u.str.rxSmoke i = some { r with st := .incomplete, epoch := e, want := none, gap := true })
        ∧ ((hdrF h 168 4 = 2 ∧ hdrF h 172 1 = 0) ∨ hdrF h 168 4 = 4 → r.st = .receiving → e = r.epoch →
            hdrF h 176 32 ≤ r.got → enter (.smokeMark m h ds) fun u => u.mem = s.mem ∧
              smFind u.str.rxSmoke i
                = some (finalOf { r with st := .complete, complete := r.epoch, want := none, wantFinal := true })))
      ∧ (hOpc h = 0xD8 → r.st = .receiving → e = r.epoch → r.want = none → ∀ g, rxRegion v r = some g → hAddr h % 32 = 0 →
          hAddr h + 32 * ds.length ≤ r.half → enter (.smokeData m h ds) fun u =>
            smFind u.str.rxSmoke i = some { r with got := r.got + ds.length }
            ∧ let to_ := g.base + (1 - r.validHalf) * r.half + hAddr h
              u.mem = (engWrite (engNow v (engWrites v (hCls h) to_ (32 * ds.length))) to_ ds).mem))
  ∧ ∀ (s : State) (i : Nat), i < 256 →
      (∀ r, smFind s.str.rxFan i = some r →
        (r.st = .receiving → r.want ≠ none → ∃ t, exec (.streamEndWait i) s = .next t
          ∧ smFind t.str.rxFan i = some { r with st := .incomplete, want := none } ∧ t.ports.lossRx = s.ports.lossRx + 1
          ∧ t = { s with ports := t.ports, str := t.str })
        ∧ (r.st ≠ .receiving ∨ r.want = none → exec (.streamEndWait i) s = .next s))
      ∧ ∀ r, smFind s.str.rxSmoke i = some r → r.st = .receiving → r.want ≠ none → ∃ t,
          exec (.streamEndWait (256 + i)) s = .next t
          ∧ smFind t.str.rxSmoke i = some { r with st := .incomplete, want := none }

/-- Norm messages, twin headers, twin data and digests reach the step context and the mirror record they name. Rests on
spec/15_twin_and_smoke.md; spec/07_gradient_steps.md, Norm exchange and decision. -/
def Obligations.NormAndTwinFrames : Prop :=
  (∀ (s : State) (m k : Nat) (h : BitVec 256) (ds : List Datum) (p : Peer), FrameTaken s m h ds k p →
      let v := frameSeen s m h ds k
      let e := hdrF h 128 32
      let i := hdrF h 160 8
      let enter (c : Instr) (f : State → Prop) : Prop :=
        ∃ u, exec c s = .next (portsGo (freeCred u true m (pktCred true ⟨h, ds⟩))) ∧ u.regs = s.regs ∧ f u
      (hOpc h = 0xB0 → bitAt p.roles 2 = true → anyBad ds = false →
        let group := leAt (dataBytes ds) 8 4
        let n := hdrF h 160 12 + 1
        let o := hdrF h 172 12
        ((∀ c ∈ s.stp.ctxs, ¬ (c.2.group = group ∧ c.2.n = n)) → enter (.norm m h ds) fun u =>
          u = { v with stp := { v.stp with stray := v.stp.stray + 1 } })
        ∧ (∀ q c, s.stp.ctxs.find? (fun c => c.2.group == group && c.2.n == n) = some (q, c) →
            smFind s.stp.ctxs q = some c → o ≠ c.own → o < c.n → e = c.dec ∨ e = c.dec + 1 →
            (∀ x, epOf c c.dec = some x → x.st ≠ .deciding) →
            ((∀ z ∈ heldFor c e, z.idx ≠ o) → enter (.norm m h ds) fun u =>
              smFind u.stp.ctxs q = some { c with slots := c.slots
                ++ [⟨e, o, decide (hdrF h 184 1 = 1), BitVec.ofNat 64 (leAt (dataBytes ds) 0 8)⟩] })
            ∧ ((∃ z ∈ heldFor c e, z.idx = o) → enter (.norm m h ds) fun u =>
              smFind u.stp.ctxs q = some { c with discard := c.discard + 1 })))
      ∧ (bitAt p.roles 5 = true → ∀ t, smFind s.str.twins i = some t → t.peer = p.id → t.st ≠ .unpaired →
          (hOpc h = 0xD0 →
            (hdrF h 168 3 = 4 → t.st = .pairing → enter (.twinHdr m h ds) fun u =>
              (twinOf u i).st = (if pairAgrees t ds then .inStep else .unpaired) ∧ (twinOf u i).pick = none ∧ u.mem = s.mem)
            ∧ (t.replay = true → t.st = .inStep → e = t.next → hdrF h 168 3 = 1 → enter (.twinHdr m h ds) fun u =>
                twinOf u i = { t with next := e + 1, lastHdr := e, since := true, hdrs := t.hdrs ++ [(e, ds)] })
            ∧ (t.replay = true → t.st = .inStep → e = t.next → hdrF h 168 3 = 2 ∨ hdrF h 168 3 = 3 →
                enter (.twinHdr m h ds) fun u => twinOf u i = { t with next := e + 1, lastHdr := e, since := true })
            ∧ (t.st = .inStep → t.replay = false ∨ e ≠ t.next → 1 ≤ hdrF h 168 3 → hdrF h 168 3 ≤ 3 →
                enter (.twinHdr m h ds) fun u => u = violFlue v k 11 h))
          ∧ (hOpc h = 0xD1 → e = 0xFFFFFFFF → t.st = .resync → t.source = false → t.want = none →
              bitAt t.mask (hdrF h 168 3) = true → ∀ d pl, ds = [d] → twinPlace v t (hdrF h 168 3) 0 (hAddr h) = some pl →
              enter (.twinData m h ds) fun u =>
                u.mem = (writeGran (engNow v { cls := hCls h, places := [pl], rd := 0, wr := 1 }) pl.die pl.pos pl.loc d).mem
                ∧ twinOf u i = { t with written := t.written + 1 })
          ∧ (hOpc h = 0xD2 → t.st = .inStep → (hdrF h 168 1 = 1) = (t.replay = false) → hdrF h 169 3 ≠ 2 →
              let b := dataBytes ds
              let d : Digest := ⟨e, hdrF h 169 3, BitVec.ofNat 128 (leAt b 0 16), leAt b 16 8, leAt b 24 4, leAt b 28 2⟩
              ((∀ y ∈ t.own, y.epoch ≠ e) → enter (.twinDigest m h ds) fun u => d ∈ (twinOf u i).other)
              ∧ (∀ a, t.own.find? (fun y => y.epoch == e) = some a → (∀ y ∈ t.other, y.epoch ≠ e) → a.status ≠ 2 →
                  enter (.twinDigest m h ds) fun u =>
                    (twinOf u i).st = (if digestsMatch a d then .inStep else .diverged)
                    ∧ (digestsMatch a d = true → (twinOf u i).lastMatch = e)
                    ∧ (digestsMatch a d = false → bitAt u.fb.alertCause 4 = true)))))
  ∧ ∀ (s : State) (i : Nat) (t : Twin), smFind s.str.twins i = some t →
      (t.st ≠ .pairing → exec (.twinPairTimeout i) s = .next s)
      ∧ (t.st = .pairing → ∃ u, exec (.twinPairTimeout i) s = .next u ∧ (twinOf u i).st = .unpaired ∧ (twinOf u i).pick = none
          ∧ u.mem = s.mem ∧ u.regs = s.regs)
      ∧ (t.replay = true ∨ t.st ≠ .inStep ∨ t.own = [] → exec (.digestWaitTimeout i) s = .next s)
      ∧ (t.replay = false → t.st = .inStep → t.own ≠ [] → ∃ u, exec (.digestWaitTimeout i) s = .next u
          ∧ (twinOf u i).st = .degraded)
      ∧ (∀ e, t.replay = true → t.st = .inStep → shortEpoch s i t = some e → replayFiring s i = none →
          ∃ u, exec (.twinDataEndWait i) s = .next u ∧ (twinOf u i).st = .diverged ∧ bitAt u.fb.alertCause 4 = true
            ∧ u.mem = s.mem)
      ∧ (t.replay = true → t.st = .inStep → shortEpoch s i t = none → exec (.twinDataEndWait i) s = .next s)

/-- A replay is admitted from its header, its hobs pass their gates, and a stream's last bank read ends what it sends. Rests
on spec/15_twin_and_smoke.md; spec/14_flue_port.md, Fan-out and recant. -/
def Obligations.ReplaysAndStreamReads : Prop :=
  (∀ (s : State) (k e : Nat) (seg : List Datum) (rest : List (Nat × List Datum)),
      let t := twinOf s k
      let sp := splOf s t.spool
      let f := replayFire t ((findProg s t.prog).getD {}) e
      t.hdrs = (e, seg) :: rest →
      (t.replay = false ∨ t.st ≠ .inStep ∨ sp.st = .disabled ∨ freeSlots sp < unwritten s t.spool + sp.waitRec.length + 2 →
        exec (.replayLaunch k) s = .next s)
      ∧ (t.replay = true → t.st = .inStep → sp.st ≠ .disabled →
          unwritten s t.spool + sp.waitRec.length + 2 ≤ freeSlots sp →
          let v := setTwin s k { t with hdrs := rest }
          (launchChecks v t.owner f false ≠ 0 → ∃ u, exec (.replayLaunch k) s = .next u ∧ (twinOf u k).st = .diverged
            ∧ (twinOf u k).hdrs = rest ∧ u.fir = s.fir)
          ∧ (launchChecks v t.owner f false = 0 → curFiring s = none → ∃ u x, exec (.replayLaunch k) s = .next u
            ∧ smFind u.fir.all s.fir.next = some x ∧ x.f = f ∧ x.replay = some k ∧ x.pick = none ∧ x.part = t.owner
            ∧ x.seg = seg ∧ x.st = .queued ∧ x.cls = sp.cls ∧ twinOf u k = { t with hdrs := rest } ∧ u.mem = s.mem)))
  ∧ (∀ (s : State) (n q k : Nat) (x : Firing), curFiring s = some (q, x) → x.replay = some k → x.st = .running →
      inRect x.f n = true → (hobOf s n).st = .gated →
      (gateOpen (twinOf s k) x n (hobOf s n).passed = true →
        exec (.replayGatePass n) s = .next (afterHob s n { hobOf s n with st := .run }))
      ∧ (gateOpen (twinOf s k) x n (hobOf s n).passed = false → exec (.replayGatePass n) s = .next s))
  ∧ (∀ (s : State) (k : Nat), ((fanOf s k).ph ≠ .reading → exec (.nonspecFanoutReadDone k) s = .next s)
      ∧ ((fanOf s k).ph = .reading → (fanOf s k).wrote = [] → ∃ t, exec (.nonspecFanoutReadDone k) s = .next t
          ∧ fanOf t k = { fanOf s k with ph := .idle, lastSent := (fanOf s k).epoch, lastFinal := (fanOf s k).epoch }
          ∧ t.regs = s.regs))
  ∧ (∀ (s : State) (k : Nat), ((smkOf s k).snap ≠ 2 → exec (.snapshotReadDone k) s = .next s)
      ∧ ((smkOf s k).snap = 2 → snapAt (smkOf s k).snapFires (smkOf s k).snapPos = none → ∃ t,
          exec (.snapshotReadDone k) s = .next t
          ∧ smkOf t k = { smkOf s k with snap := 0, snapPick := none, snapFires := [], snapPos := 0 } ∧ t.regs = s.regs
          ∧ ∀ n x, (smkOf s k).snapPick = some n → smFind s.spl.picks n = some x → pickIsDone x = false →
              ∃ y, smFind t.spl.picks n = some y ∧ y.st = .done 0 0 []))
  ∧ ∀ (s : State) (k : Nat), ((twinOf s k).st ≠ .resync ∨ (twinOf s k).source = false →
        exec (.resyncReadDone k) s = .next s)
      ∧ ((twinOf s k).st = .resync → (twinOf s k).source = true →
          resyncAt (twinOf s k) (resyncOpds s (twinOf s k)) (twinOf s k).written = none → ∃ t,
          exec (.resyncReadDone k) s = .next t ∧ (twinOf t k).st = .inStep ∧ (twinOf t k).source = false
          ∧ (twinOf t k).next = resyncNext s (twinOf s k) ∧ t.regs = s.regs)

/-- A doorbell acts on a cached spool of its partition where the counters allow it, is counted stray otherwise, and waits for
an entry not cached. Rests on spec/16_spools.md, The creel and its cache; spec/16_spools.md, Doorbells. -/
def Obligations.DoorbellsActOnTheirSpools : Prop :=
  (∀ (s : State) (rq : Requester) (p k v : Nat), rqPart rq = some p → Accepted s rq → k < 2 ^ 20 → v < 2 ^ 32 →
    let u := accessCharge s rq
    let x := splOf s k
    (inSplRange s p k = false →
      exec (.push rq k v) s = .next (strayDb u p) ∧ exec (.consume rq k v) s = .next (strayDb u p)
      ∧ exec (.abort rq k v) s = .next (strayDb u p))
    ∧ (inSplRange s p k = true → (∀ e ∈ s.spl.dbs, e.spool ≠ k) →
      (s.spl.cache.contains k = true → CtlWord.creel k ∈ s.flt.ctl → ∃ t, exec (.push rq k v) s = .next t
          ∧ t.flt.ctlStop = true ∧ t.spl = s.spl)
      ∧ (s.spl.cache.contains k = true → CtlWord.creel k ∉ s.flt.ctl → x.owner ≠ p →
          exec (.push rq k v) s = .next (strayDb { u with spl := { u.spl with cache := s.spl.cache.filter (· != k) ++ [k] } } p))
      ∧ (s.spl.cache.contains k = true → CtlWord.creel k ∉ s.flt.ctl → x.owner = p →
        let w : State := { u with spl := { u.spl with cache := s.spl.cache.filter (· != k) ++ [k] } }
        let put (y : Spool) : State := { w with spl := { w.spl with creel := smSet s.spl.creel k y } }
        let mayPush : Prop := x.st = .active ∧ sub32 x.tail x.retired < sub32 v x.retired ∧ sub32 v x.retired ≤ 2 ^ x.pickLog
        let mayConsume : Prop := x.st ≠ .disabled ∧ 0 < sub32 v x.consumed
          ∧ sub32 v x.consumed ≤ sub32 x.written x.consumed
        (mayPush → exec (.push rq k v) s = .next (put { x with tail := v }))
        ∧ (¬ mayPush → exec (.push rq k v) s = .next (strayDb w p))
        ∧ (mayConsume → exec (.consume rq k v) s = .next (put { x with consumed := v }))
        ∧ (¬ mayConsume → exec (.consume rq k v) s = .next (strayDb w p))
        ∧ (x.st = .active → x.abort = none → 0 < sub32 x.tail v → sub32 x.tail v < 2 ^ x.pickLog →
            sub32 x.tail v ≤ sub32 x.tail x.head → exec (.abort rq k v) s = .next (put { x with abort := some v }))
        ∧ (x.st ≠ .active ∨ x.abort ≠ none → exec (.abort rq k v) s = .next (strayDb w p)))
      ∧ (s.spl.cache.contains k = false → ∃ t, exec (.push rq k v) s = .next t
          ∧ t.spl = { s.spl with dbs := s.spl.dbs ++ [⟨p, k, 0, v⟩], misses := s.spl.misses + 1 }
          ∧ t = { u with spl := t.spl, obs := t.obs })))
  ∧ ∀ (s : State) (k : Nat),
      let ready : Prop := engReady s (creelUse s k false) = true
      ((∀ e ∈ s.spl.dbs, e.spool ≠ k) ∨ ¬ ready → exec (.creelDescriptorRead k) s = .next s)
      ∧ ((∃ e ∈ s.spl.dbs, e.spool = k) → ready → s.spl.cache.contains k = false → 4096 ≤ s.spl.cache.length →
          (∀ c ∈ s.spl.cache, 0 < inFlight s c) →
          exec (.creelDescriptorRead k) s = .next { s with spl := { s.spl with cacheWait := s.spl.cacheWait + 1 } })
      ∧ ((∃ e ∈ s.spl.dbs, e.spool = k) → ready → s.spl.cache.contains k = false → s.spl.cache.length < 4096 →
          (creelLoad s k).1 = false → ∃ t, exec (.creelDescriptorRead k) s = .next t ∧ t.flt.ctlStop = true
            ∧ t.spl.dbs = s.spl.dbs ∧ t.spl.creel = s.spl.creel)
      ∧ (∀ p v, let x := splOf s k
          s.spl.dbs.filter (fun e => e.spool == k) = [⟨p, k, 0, v⟩] → ready → s.flt.ctlStop = false →
          s.spl.cache.contains k = false → s.spl.cache.length < 4096 → (creelLoad s k).1 = true → active s p = true →
          inSplRange s p k = true → x.owner = p → x.st = .active → sub32 x.tail x.retired < sub32 v x.retired →
          sub32 v x.retired ≤ 2 ^ x.pickLog → ∃ t, exec (.creelDescriptorRead k) s = .next t
            ∧ splOf t k = { x with tail := v } ∧ (∀ j, j ≠ k → splOf t j = splOf s j)
            ∧ t.spl.dbs = s.spl.dbs.filter (fun e => e.spool != k) ∧ t.spl.cache.contains k = true
            ∧ t = { s with
                spl := { s.spl with creel := t.spl.creel, cache := t.spl.cache, dbs := t.spl.dbs }
                sched := t.sched
                warp := t.warp
                flt := t.flt
                obs := t.obs })

/-- A fetch reads the next pick of the spool that the engine serves, and a completion record writes the 64 bytes of R433 and
advances the ring. Rests on spec/16_spools.md. -/
def Obligations.PicksAreFetchedAndRecorded : Prop :=
  (∀ (s : State) (k : Nat), fetchChoice s ≠ some k ∨ s.flt.ctlStop = true → exec (.pickFetch k) s = .next s)
  ∧ (∀ (s : State) (k : Nat), fetchChoice s = some k → s.flt.ctlStop = false →
      let x := splOf s k
      let at_ := x.ring + 128 * (x.head % 2 ^ x.pickLog)
      let ready : Prop := engReady s (engReads s x.cls at_ 128) = true
      (CtlWord.creel k ∈ s.flt.ctl → ∃ t, exec (.pickFetch k) s = .next t ∧ t.flt.ctlStop = true ∧ t.spl = s.spl)
      ∧ (CtlWord.creel k ∉ s.flt.ctl → ownedRange s x.owner at_ 128 = false → ∃ t, exec (.pickFetch k) s = .next t
        ∧ splOf t k = { x with st := .halted, haltCause := 1 } ∧ bitAt (part t x.owner).alert 1 = true
        ∧ (∀ j, j ≠ k → splOf t j = splOf s j) ∧ t.spl.picks = s.spl.picks ∧ t.mem = s.mem)
      ∧ (CtlWord.creel k ∉ s.flt.ctl → ownedRange s x.owner at_ 128 = true → ¬ ready → exec (.pickFetch k) s = .next s)
      ∧ (CtlWord.creel k ∉ s.flt.ctl → ownedRange s x.owner at_ 128 = true → ready → s.spl.cache.contains k = false →
          s.spl.cache.length < 4096 → (creelLoad s k).1 = true → (creelLoad s k).2.flt.ctlStop = false →
          holdsTokens (creelLoad s k).2 x.owner .hearth x.cls = true → ∃ t, exec (.pickFetch k) s = .next t
        ∧ t.spl.next = (creelLoad s k).2.spl.next + 1 ∧ (splOf t k).head = add32 x.head 1 ∧ t.spl.cache.contains k = true)
      ∧ (CtlWord.creel k ∉ s.flt.ctl → ownedRange s x.owner at_ 128 = true → ready → s.spl.cache.contains k = true →
          holdsTokens s x.owner .hearth x.cls = true → x.abort ≠ some x.head → ∃ t y, exec (.pickFetch k) s = .next t
        ∧ smFind t.spl.picks s.spl.next = some y ∧ t.spl.next = s.spl.next + 1
        ∧ (∀ j, j ≠ s.spl.next → smFind t.spl.picks j = smFind s.spl.picks j)
        ∧ (splOf t k).head = add32 x.head 1 ∧ (splOf t k).tail = x.tail ∧ (∀ j, j ≠ k → splOf t j = splOf s j)
        ∧ level (part t x.owner) .hearth = sat48 (level (part s x.owner) .hearth - 128)
        ∧ (part t x.owner).chHearth = ((part s x.owner).chHearth + 128) % 2 ^ 64
        ∧ t.mem = s.mem ∧ t.regs = s.regs ∧ t.regions = s.regions
        ∧ y.spool = k ∧ y.seq = x.head ∧ y.part = x.owner ∧ y.cls = x.cls
        ∧ (let ds := (engRead s (some x.owner) at_ 128).1
           let b := gransBytes ds 0 128
           (anyBad ds = false →
             y.bytes = b ∧ y.opc = leAt b 0 1 ∧ y.tag = leAt b 8 8 ∧ y.order = bitAt (leAt b 1 1) 0
             ∧ y.alert = bitAt (leAt b 1 1) 1
             ∧ y.st = (if 0x10 < y.opc then .done stBadOpcode 0 []
                else if leAt b 1 1 / 4 ≠ 0 ∨ leAt b 2 6 ≠ 0 then .done stBadField 0 [] else .fetched))
           ∧ (anyBad ds = true → y.st = .done stPickPoison 0 []))
        ∧ (y.opc = 9 → y.st = .fetched →
           let w := parseSample s s.spl.next y
           let found (st : Nat) : Prop := smFind t.smp.fetched s.spl.next = some (st, w)
           (smpFieldsOk y = false → found stBadField)
           ∧ (smpFieldsOk y = true → ctxPart s w.ctx ≠ some y.part → found stSamplerDenied)
           ∧ (smpFieldsOk y = true → ctxPart s w.ctx = some y.part → smpParamOk w = false → found stBadParam)
           ∧ (smpFieldsOk y = true → ctxPart s w.ctx = some y.part → smpParamOk w = true →
               ownedRange s y.part w.src (w.v * (if w.fmt = 0 then 2 else 4)) = false → found stSourceDenied)
           ∧ (smpFieldsOk y = true → ctxPart s w.ctx = some y.part → smpParamOk w = true →
               ownedRange s y.part w.src (w.v * (if w.fmt = 0 then 2 else 4)) = true → found stDone))))
  ∧ (∀ (s : State) (n : Nat) (x : PickR), smFind s.spl.picks n = some x →
      let k := x.spool
      let sp := splOf s k
      (pickIsDone x = false ∨ recordNext s k ≠ some n → exec (.completionRecord n) s = .next s)
      ∧ ∀ st rs res, x.st = .done st rs res → recordNext s k = some n →
        let body (ph : Nat) : List Byte := leBytes 8 x.tag ++ leBytes 4 x.seq ++ leBytes 4 x.ret ++ leBytes 1 x.opc
          ++ leBytes 1 0 ++ leBytes 1 st ++ leBytes 1 (2 * b2n x.alert + ph) ++ leBytes 1 rs ++ leBytes 3 0 ++ padTo 40 res
        (sp.st = .halted → x.abortSt = none → ∃ t, exec (.completionRecord n) s = .next t
            ∧ splOf t k = { sp with waitRec := sp.waitRec ++ [body 0] } ∧ smFind t.spl.picks n = none
            ∧ t.mem = s.mem ∧ t.parts = s.parts)
        ∧ (sp.st = .active → sp.die = false → engReady s (engWrites s sp.cls (sp.cq + 64 * (sp.written % 2 ^ sp.recLog)) 64) = false →
            exec (.completionRecord n) s = .next s)
        ∧ (sp.st = .active → sp.die = false →
            let slot (j : Nat) : Nat := sp.cq + 64 * (add32 sp.written j % 2 ^ sp.recLog)
            (∀ j, j < 2 → ownedRange s sp.owner (slot j) 64 = true) → sp.written < 2 ^ 32 →
            (∀ j, j < 2 → engReady s (engWrites s sp.cls (slot j) 64) = true) →
            (x.abortSt = none → ∃ t, exec (.completionRecord n) s = .next t
              ∧ (let w := engWriteBytes s (slot 0) (body (if sp.written / 2 ^ sp.recLog % 2 = 0 then 1 else 0))
                 t.mem = w.mem ∧ t.staging = w.staging)
              ∧ splOf t k = { sp with written := add32 sp.written 1 } ∧ (∀ j, j ≠ k → splOf t j = splOf s j)
              ∧ smFind t.spl.picks n = none ∧ n ∉ t.spl.doneQ
              ∧ (part t sp.owner).chHearth = ((part s sp.owner).chHearth + 64) % 2 ^ 64
              ∧ (x.alert = true → bitAt (part t sp.owner).alert 0 = true) ∧ t.regs = s.regs)
            ∧ (∀ a, x.abortSt = some a → ∃ t, exec (.completionRecord n) s = .next t
              ∧ splOf t k = { sp with written := add32 (add32 sp.written 1) 1, abort := none }
              ∧ smFind t.spl.picks n = none)))
  ∧ ∀ (s : State) (n : Nat) (x : PickR), smFind s.spl.picks n = some x →
      (x.opc ≠ 0 ∨ x.st ≠ .fetched ∨ orderMet s x = false → exec (.nopPick n) s = .next s)
      ∧ (x.opc = 0 → x.st = .fetched → orderMet s x = true → ∃ t y, exec (.nopPick n) s = .next t
          ∧ smFind t.spl.picks n = some y ∧ y = { x with st := .done (if pkZero x 0x10 0x80 then 0 else 3) 0 [], ret := y.ret }
          ∧ t.spl.doneQ = s.spl.doneQ ++ [n] ∧ (splOf t x.spool).retired = y.ret
          ∧ (∀ j, j ≠ x.spool → splOf t j = splOf s j)
          ∧ t = { s with spl := { s.spl with creel := t.spl.creel, picks := t.spl.picks, doneQ := t.spl.doneQ } })

/-- Enable, disable and resume answer the result code of R612, and act on the selected spool only where it is 0. Rests on
spec/16_spools.md, Allotment and configuration; spec/24_register_map_work.md. -/
def Obligations.SpoolConfigurationCommands : Prop :=
  ∀ (s : State) (rq : Requester) (p : Nat), Accepted s rq →
    let u := accessCharge s rq
    let k := selF s rq (pageBase p + 0x300) 0 20
    let x := splOf s k
    let done (n : Nat) (t : State) : State :=
      modPart t p fun y => { y with splResult := n, splCount := (y.splCount + 1) % 4096 }
    let put (y : Spool) : State := { u with spl := { u.spl with creel := smSet u.spl.creel k y } }
    let n : Spool := {
      st := .active
      cls := pageF s p 0x320 0 2
      owner := p
      pickLog := pageF s p 0x308 48 5
      recLog := pageF s p 0x318 0 5
      die := pageF s p 0x318 8 1 == 1
      src := pageF s p 0x318 16 8
      ring := pageF s p 0x308 0 48 / 128 * 128
      cq := pageF s p 0x310 0 64 / 64 * 64 }
    let pickOk (y : Spool) : Bool := ownedRange s p y.ring (128 * 2 ^ y.pickLog)
    let recOk (y : Spool) : Bool :=
      if y.die then (smGet ({} : Agent) s.ports.agents y.src).bound else ownedRange s p y.cq (64 * 2 ^ y.recLog)
    (1024 ≤ p ∨ mayPresent s rq p = false → ∀ c ∈ [Instr.enable rq p, .disable rq p, .resume rq p],
      exec c s = .next (strayPage u rq))
    ∧ (p < 1024 → mayPresent s rq p = true →
      (inSplRange s p k = false → ∀ c ∈ [Instr.enable rq p, .disable rq p, .resume rq p], exec c s = .next (done 1 u))
      ∧ (inSplRange s p k = true →
        (x.st ≠ .disabled → exec (.enable rq p) s = .next (done 1 u))
        ∧ (x.st = .disabled → pickOk n = false → exec (.enable rq p) s = .next (done 2 u))
        ∧ (x.st = .disabled → pickOk n = true → recOk n = false → exec (.enable rq p) s = .next (done 3 u))
        ∧ (x.st = .disabled → pickOk n = true → recOk n = true → n.cls = 0 → rightEmber s p = false →
            exec (.enable rq p) s = .next (done 4 u))
        ∧ (x.st = .disabled → pickOk n = true → recOk n = true → n.cls ≠ 0 ∨ rightEmber s p = true →
            exec (.enable rq p) s = .next (done 0 (creelSync (put n) k)))
        ∧ (x.st = .disabled → exec (.disable rq p) s = .next (done 7 u))
        ∧ (x.st ≠ .disabled → 0 < inFlight s k → exec (.disable rq p) s = .next (done 5 u))
        ∧ (x.st ≠ .disabled → inFlight s k = 0 → exec (.disable rq p) s = .next (done 0 (creelSync (put { x with st := .disabled }) k)))
        ∧ (x.st ≠ .halted → exec (.resume rq p) s = .next (done 6 u))
        ∧ (x.st = .halted → recOk x = false → exec (.resume rq p) s = .next (done 6 u))
        ∧ (x.st = .halted → x.haltCause = 1 → pickOk x = false → exec (.resume rq p) s = .next (done 6 u))
        ∧ (x.st = .halted → recOk x = true → x.haltCause ≠ 1 ∨ pickOk x = true → x.waitRec = [] →
            exec (.resume rq p) s = .next (done 0 (creelSync (put { x with st := .active, haltCause := 0 }) k)))))

/-- A region changes mode by the rows of R58: its pick, its doorbell, its timer and the end of its drain. Rests on
spec/02_stack_organisation.md, Changing mode. -/
def Obligations.RegionModeChanges : Prop :=
  (∀ (s : State) (n : Nat) (x : PickR),
    (Waits s n 2 x → exec (.regionMode n) s = .next s) ∧ (Waits s n 3 x → exec (.regionInit n) s = .next s)
    ∧ (Starts s n 2 x →
      let i := pkF x 0x10 2
      let toBanked : Bool := pkF x 0x12 1 == 1
      let only (st : Nat) : Prop := OnlyCompletes (.regionMode n) s n x st
      let turn (g : Region) (f : State → Prop) : Prop := ∃ t, exec (.regionMode n) s = .next t ∧ rgnAt t i = some g
        ∧ (∀ j, j ≠ i → rgnAt t j = rgnAt s j) ∧ t = { s with spl := t.spl, regions := t.regions } ∧ f t
      (0x2000 ≤ i ∨ 2 ≤ pkF x 0x12 1 ∨ pkZero x 0x13 0x80 = false ∨ rgnAt s i = none → only stBadField)
      ∧ (i < 0x2000 → pkF x 0x12 1 < 2 → pkZero x 0x13 0x80 = true → ∀ r, rgnAt s i = some r →
        (r.kind = .reserved ∨ r.block = true ∨ r.owner ≠ x.part → only stDenied)
        ∧ (r.kind = .striped → r.block = false → r.owner = x.part → only stBadField)
        ∧ (r.kind = .bankLocal → r.block = false → r.owner = x.part → CtlWord.region i ∈ s.flt.ctl → ∃ t,
            exec (.regionMode n) s = .next t ∧ t.flt.ctlStop = true ∧ t.regions = s.regions ∧ Started s t n x)
        ∧ (r.kind = .bankLocal → r.block = false → r.owner = x.part → CtlWord.region i ∉ s.flt.ctl →
          (r.st = .idle → r.banked = toBanked → only stDone)
          ∧ (r.st = .idle → r.banked = true → toBanked = false → rgnInUse s i = true → only stRegionInUse)
          ∧ (r.st = .idle → r.banked ≠ toBanked → r.banked = false ∨ rgnInUse s i = false →
              turn { r with st := .await toBanked, pick := some n } fun t => Started s t n x)
          ∧ (∀ b, r.st = .held b →
              (r.banked = toBanked → turn { r with st := .idle, drain := [] } fun t => Completes s t n x stDone 0 [])
              ∧ (r.banked = false → toBanked = true →
                  turn { r with st := .draining, pick := some n } fun t => Started s t n x)
              ∧ (r.banked = true → toBanked = false → rgnInUse s i = false →
                  turn { r with banked := false, st := .idle, pick := none, drain := [] } fun t => Completes s t n x stDone 0 [])
              ∧ (r.banked = true → toBanked = false → rgnInUse s i = true →
                  turn { r with st := .idle, drain := [] } fun t => Completes s t n x stRegionInUse 0 []))
          ∧ ((∃ b, r.st = .await b) ∨ r.st = .draining ∨ r.st = .awaitFirings → only stModeBusy))))
    ∧ (Starts s n 3 x →
      let i := pkF x 0x10 2
      (0x2000 ≤ i ∨ pkZero x 0x12 0x80 = false ∨ rgnAt s i = none → OnlyCompletes (.regionInit n) s n x stBadField)
      ∧ (i < 0x2000 → pkZero x 0x12 0x80 = true → ∀ r, rgnAt s i = some r →
        (r.kind = .reserved ∨ r.block = true ∨ r.owner ≠ x.part → OnlyCompletes (.regionInit n) s n x stDenied)
        ∧ (r.kind ≠ .reserved → r.block = false → r.owner = x.part → ∃ t, exec (.regionInit n) s = .next t
          ∧ rgnAt t i = some { r with init := true } ∧ (∀ j, j ≠ i → rgnAt t j = rgnAt s j)
          ∧ Completes s t n x stDone 0 [] ∧ t = { s with spl := t.spl, regions := t.regions }))))
  ∧ (∀ (s : State) (rq : Requester) (p i len : Nat), rqPart rq = some p → Accepted s rq →
      let u := accessCharge s rq
      let bell (f : State → Prop) : Prop := ∃ t, exec (.regionModeDoorbell rq i len) s = .next t ∧ f t
      (len ≠ 8 ∨ rgnAt s i = none → bell fun t => t = strayDb u p)
      ∧ (∀ r, len = 8 → rgnAt s i = some r →
        let now (g : Region) (t : State) : Prop := t = { u with regions := smSet s.regions i g }
        let w := writesOf s rq
        (r.kind ≠ .bankLocal ∨ r.owner ≠ p ∨ r.block = true → bell fun t => t = strayDb u p)
        ∧ (r.kind = .bankLocal → r.owner = p → r.block = false →
          (r.st = .idle → bell (now { r with st := .held r.banked, drain := w }))
          ∧ ((∃ b, r.st = .held b) → bell (now { r with drain := w }))
          ∧ (r.st = .await true → bell (now { r with st := .draining, drain := w }))
          ∧ (r.st = .await false → rgnInUse s i = true → bell (now { r with st := .awaitFirings }))
          ∧ (r.st = .await false → rgnInUse s i = false → ∀ n x, r.pick = some n → smFind s.spl.picks n = some x →
              pickIsDone x = false → bell fun t =>
                rgnAt t i = some { r with banked := false, st := .idle, pick := none, drain := [] }
                ∧ Completes s t n x stDone 0 [] ∧ t = { u with spl := t.spl, regions := t.regions })
          ∧ (r.st = .draining ∨ r.st = .awaitFirings → bell fun t => t = strayDb u p))))
  ∧ ∀ (s : State) (i : Nat) (r : Region), rgnAt s i = some r →
      ((∃ b, r.st = .held b) → exec (.modeTimerExpires i) s
        = .next (strayDb { s with regions := smSet s.regions i { r with st := .idle, drain := [] } } r.owner))
      ∧ (r.st = .idle ∨ r.st = .draining ∨ r.st = .awaitFirings → exec (.modeTimerExpires i) s = .next s)
      ∧ (r.st ≠ .draining ∨ (∃ k ∈ r.drain, (smFind s.ports.txns k).isSome = true) → exec (.modeDrainDone i) s = .next s)
      ∧ ∀ n x, r.pick = some n → smFind s.spl.picks n = some x → pickIsDone x = false →
          ((∃ b, r.st = .await b) → ∃ t, exec (.modeTimerExpires i) s = .next t
            ∧ rgnAt t i = some { r with st := .idle, pick := none, drain := [] } ∧ Completes s t n x stDoorbellTimeout 0 []
            ∧ t = { s with spl := t.spl, regions := t.regions })
          ∧ (r.st = .draining → (∀ k ∈ r.drain, smFind s.ports.txns k = none) → ∃ t, exec (.modeDrainDone i) s = .next t
            ∧ rgnAt t i = some { r with banked := true, st := .idle, pick := none, drain := [] }
            ∧ Completes s t n x stDone 0 [] ∧ t = { s with spl := t.spl, regions := t.regions })

/-- Registration, step-context and sample picks check in order, answer their status, and add or remove exactly what they name.
Rests on spec/06_update_firings.md; spec/07_gradient_steps.md; spec/09_heddle_and_sampler.md; spec/16_spools.md. -/
def Obligations.ProgramAndStepPicks : Prop :=
  (∀ (s : State) (n : Nat) (x : PickR), Starts s n 4 x →
      let a := pkF x 0x10 8
      let len := 0x40 + 8 * leAt (gransBytes (engRead s (some x.part) a 0x40).1 (a % 32) 0x40) 2 2
      let ds := (engRead s (some x.part) a len).1
      let b := gransBytes ds (a % 32) len
      let p := parseProg x.part b
      let ends (st rs : Nat) (res : List Byte) (ps : List Prog) : Prop := ∃ t, exec (.registerProgram n) s = .next t
        ∧ Completes s t n x st rs res ∧ t.fir = { s.fir with progs := ps } ∧ t.mem = s.mem ∧ t.regs = s.regs
      let q : Prog := { p with place := progPlace s, len := p.code.length, code := [] }
      let off (i : Nat) : Nat := progOff s (progPlace s) i
      let copy : List Datum :=
        (bytesGrans (padTo (32 * progGrans q) (p.code.flatMap fun w => leBytes 8 w.toNat))).map fun g => ⟨g, false⟩
      (pkZero x 0x18 0x80 = false → OnlyCompletes (.registerProgram n) s n x stBadField)
      ∧ (pkZero x 0x18 0x80 = true → rightRegister s x.part = false ∨ ownedRange s x.part a 0x40 = false →
          OnlyCompletes (.registerProgram n) s n x stDenied)
      ∧ (pkZero x 0x18 0x80 = true → rightRegister s x.part = true → ownedRange s x.part a 0x40 = true →
          ownedRange s x.part a len = true → Unqueued s (engPlaces s a len) →
        (anyBad ds = true → ends stPickPoison 0 [] s.fir.progs)
        ∧ (anyBad ds = false → progFieldsOk p b = false ∨ p.id < 0x8000 ∨ (findProg s p.id).isSome = true →
            ends stBadField 0 [] s.fir.progs)
        ∧ (anyBad ds = false → progFieldsOk p b = true → 0x8000 ≤ p.id → findProg s p.id = none →
          (1024 ≤ s.fir.progs.length ∨ 64 ≤ runCount s x.part → ends stRegistryFull 0 [] s.fir.progs)
          ∧ (s.fir.progs.length < 1024 → runCount s x.part < 64 →
              (loaderCode p ≠ 0 → ends stLoadRejected (loaderCode p) [] s.fir.progs)
              ∧ (loaderCode p = 0 → (∀ i, i < 2 → Unqueued s (resPlaces s (off i) copy.length)) →
                  ∃ t, exec (.registerProgram n) s = .next t ∧ Completes s t n x stDone 0 (leBytes 2 p.id)
                    ∧ t.fir = { s.fir with progs := s.fir.progs ++ [q] } ∧ t.mem = s.mem ∧ t.regs = s.regs
                    ∧ t.rmem = (resWriteN (resWriteN s (off 0) copy) (off 1) copy).rmem)))))
  ∧ (∀ (s : State) (n : Nat) (x : PickR), smFind s.spl.picks n = some x →
      let id := pkF x 0x10 2
      (x.opc ≠ 5 ∨ x.st ≠ .fetched → exec (.unregisterProgram n) s = .next s)
      ∧ (x.opc = 5 → x.st = .fetched →
        (pkZero x 0x12 0x80 = false → OnlyCompletes (.unregisterProgram n) s n x stBadField)
        ∧ (pkZero x 0x12 0x80 = true → (∀ p ∈ s.fir.progs, p.id = id → p.owner ≠ some x.part) →
            OnlyCompletes (.unregisterProgram n) s n x stNotFound)
        ∧ (pkZero x 0x12 0x80 = true → (∃ p ∈ s.fir.progs, p.id = id ∧ p.owner = some x.part) → ∃ t,
            exec (.unregisterProgram n) s = .next t ∧ Completes s t n x stDone 0 []
            ∧ t = { s with spl := t.spl, fir := { s.fir with progs := s.fir.progs.filter fun p => p.id != id } })))
  ∧ (∀ (s : State) (n : Nat) (x : PickR), Starts s n 6 x →
      let a := pkF x 0x10 8
      let len := 0x140 + 2 * leAt (gransBytes (engRead s (some x.part) a 0x40).1 (a % 32) 0x40) 0x14 2
      let ds := (engRead s (some x.part) a len).1
      let b := gransBytes ds (a % 32) len
      let c := parseStep x.part b
      let ends (st : Nat) (res : List Byte) (cs : SMap StepCtx) : Prop := ∃ t, exec (.stepConfig n) s = .next t
        ∧ Completes s t n x st 0 res ∧ t.stp = { s.stp with ctxs := cs } ∧ t.mem = s.mem ∧ t.regs = s.regs
      (pkZero x 0x18 0x80 = false → OnlyCompletes (.stepConfig n) s n x stBadField)
      ∧ (pkZero x 0x18 0x80 = true → rightStep s x.part = false ∨ ownedRange s x.part a 0x140 = false →
          OnlyCompletes (.stepConfig n) s n x stDenied)
      ∧ (pkZero x 0x18 0x80 = true → rightStep s x.part = true → ownedRange s x.part a 0x140 = true →
          ownedRange s x.part a len = true → Unqueued s (engPlaces s a len) →
        (anyBad ds = true → ends stPickPoison [] s.stp.ctxs)
        ∧ (anyBad ds = false → stepRanges s c b = false → ends stBadField [] s.stp.ctxs)
        ∧ (anyBad ds = false → stepRanges s c b = true → ownedRange s x.part c.ring (64 * 2 ^ c.ringLog) = false →
            ends stDenied [] s.stp.ctxs)
        ∧ (anyBad ds = false → stepRanges s c b = true → ownedRange s x.part c.ring (64 * 2 ^ c.ringLog) = true →
            ((∀ k, k < 64 → (smFind s.stp.ctxs k).isSome = true) → ends stContextFull [] s.stp.ctxs)
            ∧ ∀ k, k < 64 → smFind s.stp.ctxs k = none → (∀ j, j < k → (smFind s.stp.ctxs j).isSome = true) →
              let bound : Bool := c.rgns.all fun r => rgnBindable s x.part r.rgn
              let need := 2 * c.n + s.stp.ctxs.foldl (fun m kv => m + 2 * kv.2.n) 0
              (bound = false → ends stRegionBound [] s.stp.ctxs)
              ∧ (bound = true → s.staging.norm * 0x8000 < need → ends stNormFull [] s.stp.ctxs)
              ∧ (bound = true → need ≤ s.staging.norm * 0x8000 → ends stDone (leBytes 1 k) (smSet s.stp.ctxs k c)))))
  ∧ (∀ (s : State) (n : Nat) (x : PickR),
      (Waits s n 4 x → exec (.registerProgram n) s = .next s) ∧ (Waits s n 6 x → exec (.stepConfig n) s = .next s)
      ∧ (Waits s n 7 x → exec (.stepRetire n) s = .next s) ∧ (Waits s n 8 x → exec (.stepClose n) s = .next s)
      ∧ (Starts s n 7 x → pkZero x 0x11 0x80 = true → rightStep s x.part = true →
        (smFind s.stp.ctxs (pkF x 0x10 1) = none → OnlyCompletes (.stepRetire n) s n x stNotFound)
        ∧ ∀ c, smFind s.stp.ctxs (pkF x 0x10 1) = some c →
          let busy : Bool := c.eps.any fun e => e.st == .closed || e.st == .deciding || e.st == .updating
          (c.owner ≠ x.part → OnlyCompletes (.stepRetire n) s n x stNotFound)
          ∧ (c.owner = x.part → busy = true → OnlyCompletes (.stepRetire n) s n x stContextBusy)
          ∧ (c.owner = x.part → busy = false → ∃ t, exec (.stepRetire n) s = .next t ∧ Completes s t n x stDone 0 []
              ∧ t = { s with spl := t.spl, stp := { s.stp with ctxs := smDel s.stp.ctxs (pkF x 0x10 1) } }))
      ∧ (Starts s n 8 x → pkZero x 0x11 0x14 = true → pkZero x 0x18 0x80 = true → rightStep s x.part = true →
        ∀ c, smFind s.stp.ctxs (pkF x 0x10 1) = some c → c.owner = x.part →
          let e := pkF x 0x14 4
          (c.isOpen = false ∨ c.openEpoch ≠ e → OnlyCompletes (.stepClose n) s n x stBadState)
          ∧ (c.isOpen = true → c.openEpoch = e → ∃ t, exec (.stepClose n) s = .next t
              ∧ Completes s t n x stDone 0 (leBytes 4 e)
              ∧ t = { s with spl := t.spl, stp := { s.stp with ctxs := smSet s.stp.ctxs (pkF x 0x10 1) { c with
                  eps := c.eps.map fun y => if y.e = e ∧ y.cause = 0 then { y with cause := 3 } else y } } })))
  ∧ ∀ (s : State) (n : Nat) (x : PickR), smFind s.spl.picks n = some x →
      (x.opc ≠ 9 ∨ x.st ≠ .fetched ∨ smFind s.smp.fetched n = none → exec (.sample n) s = .next s)
      ∧ ∀ st w, x.opc = 9 → x.st = .fetched → smFind s.smp.fetched n = some (st, w) →
        (st ≠ stDone → ∃ t, exec (.sample n) s = .next t ∧ Completes s t n x st 0 []
          ∧ t.smp = { s.smp with fetched := smDel s.smp.fetched n } ∧ t = { s with spl := t.spl, smp := t.smp })
        ∧ (st = stDone → ∃ t, exec (.sample n) s = .next t ∧ Started s t n x
          ∧ t.smp = { s.smp with fetched := smDel s.smp.fetched n, wait := smpEnter w s.smp.wait, serve := t.smp.serve }
          ∧ t = { s with spl := t.spl, smp := t.smp, obs := t.obs })

/-- Picks that configure fan-out, receive and smoke streams and mirror records set or remove exactly the entry they name.
Rests on spec/14_flue_port.md, Fan-out and recant; spec/15_twin_and_smoke.md; spec/16_spools.md. -/
def Obligations.StreamAndRecordPicks : Prop :=
  (∀ (s : State) (n : Nat) (x : PickR),
      (Waits s n 0x0A x → exec (.fanConfig n) s = .next s) ∧ (Waits s n 0x0B x → exec (.rxConfig n) s = .next s)
      ∧ (Waits s n 0x0C x → exec (.twinPair n) s = .next s) ∧ (Waits s n 0x0D x → exec (.twinUnpair n) s = .next s)
      ∧ (Waits s n 0x0E x → exec (.twinResync n) s = .next s) ∧ (Waits s n 0x0F x → exec (.smokeConfig n) s = .next s)
      ∧ (Waits s n 0x10 x → exec (.smokeSnapshot n) s = .next s))
  ∧ (∀ (s : State) (n : Nat) (x : PickR), Starts s n 0x0A x →
      let cnt := pkF x 0x11 1
      let k := pkF x 0x12 1
      cnt ≤ 8 → pkF x 0x13 1 ≤ 1 → pkZero x 0x14 0x18 = true → destsOk s x cnt 4 = true →
      let sets (j : Nat) : Prop := ∃ t, exec (.fanConfig n) s = .next t ∧ Completes s t n x stDone 0 (leBytes 1 j)
        ∧ t = { s with spl := t.spl, str := { s.str with fans := smSet s.str.fans j { smGet {} s.str.fans j with
            ctx := pkF x 0x10 1
            owner := x.part
            dests := (List.range cnt).map fun i => { peer := pkF x (0x18 + 4 * i) 2, rx := pkF x (0x1A + 4 * i) 1 }
            spec := decide (pkF x 0x13 1 = 1) } } }
      (rightStep s x.part = false → OnlyCompletes (.fanConfig n) s n x stDenied)
      ∧ (rightStep s x.part = true →
        (cnt = 0 → ∀ f, smFind s.str.fans k = some f → f.owner = x.part →
          (f.ph ≠ .idle → OnlyCompletes (.fanConfig n) s n x stBadState)
          ∧ (f.ph = .idle → ∃ t, exec (.fanConfig n) s = .next t ∧ Completes s t n x stDone 0 (leBytes 1 k)
              ∧ t = { s with spl := t.spl, str := { s.str with fans := smDel s.str.fans k } }))
        ∧ (0 < cnt → holdsCtx s x.part (pkF x 0x10 1) = false → OnlyCompletes (.fanConfig n) s n x stNotFound)
        ∧ (0 < cnt → holdsCtx s x.part (pkF x 0x10 1) = true →
          (∀ f, k ≠ 0xFF → smFind s.str.fans k = some f → f.owner = x.part → sets k)
          ∧ (∀ j, k = 0xFF → j < 16 → smFind s.str.fans j = none → (∀ i, i < j → (smFind s.str.fans i).isSome = true) → sets j)
          ∧ (k = 0xFF → (∀ i, i < 16 → (smFind s.str.fans i).isSome = true) → OnlyCompletes (.fanConfig n) s n x stRecordFull)
          ∧ (k ≠ 0xFF → (∀ f, smFind s.str.fans k = some f → f.owner ≠ x.part) →
              OnlyCompletes (.fanConfig n) s n x stNotFound))))
  ∧ (∀ (s : State) (n : Nat) (x : PickR), Starts s n 0x0B x →
      let smoke : Bool := pkF x 0x10 1 == 1
      let k := pkF x 0x11 1
      let src := pkF x 0x12 2
      let half := pkF x 0x18 4
      let tab := if smoke then s.str.rxSmoke else s.str.rxFan
      let sets (m : SMap Rx) : Prop := ∃ t, exec (.rxConfig n) s = .next t ∧ Completes s t n x stDone 0 []
        ∧ t = { s with spl := t.spl, str := if smoke then { s.str with rxSmoke := m } else { s.str with rxFan := m } }
      pkF x 0x10 1 ≤ 1 → pkZero x 0x16 0x18 = true → pkZero x 0x1D 0x80 = true →
      (pkF x 0x1C 1 = 1 →
        (∀ r, smFind tab k = some r → r.owner = x.part → sets (smDel tab k))
        ∧ ((∀ r, smFind tab k = some r → r.owner ≠ x.part) → OnlyCompletes (.rxConfig n) s n x stNotFound))
      ∧ (pkF x 0x1C 1 = 0 → (if smoke then (peerOf s src).isSome else hasRole s src 3) = true →
        (openRgn s x.part (pkF x 0x14 2) = none → OnlyCompletes (.rxConfig n) s n x stDenied)
        ∧ ∀ g, openRgn s x.part (pkF x 0x14 2) = some g →
          (half = 0 ∨ half % 32 ≠ 0 ∨ rgnSize s g < 2 * half → OnlyCompletes (.rxConfig n) s n x stBadField)
          ∧ (0 < half → half % 32 = 0 → 2 * half ≤ rgnSize s g → (∀ r, smFind tab k = some r → r.owner = x.part) →
              sets (smSet tab k { src := src, rgn := pkF x 0x14 2, half := half, owner := x.part }))))
  ∧ (∀ (s : State) (n : Nat) (x : PickR), Starts s n 0x0C x → pkZero x 0x18 0x80 = true →
      let a := pkF x 0x10 8
      let ds := (engRead s (some x.part) a 0x70).1
      let b := gransBytes ds (a % 32) 0x70
      let t := parsePair x.part n b
      (rightStep s x.part = false ∨ ownedRange s x.part a 0x70 = false → OnlyCompletes (.twinPair n) s n x stDenied)
      ∧ (rightStep s x.part = true → ownedRange s x.part a 0x70 = true →
          Unqueued s (engPlaces s a 0x70) → anyBad ds = false →
          (t.replay = true → ownedRange s x.part t.ruleSrc (ruleBytes s t) = true) → pairOk s x.part t b = true →
          (t.replay = false → holdsCtx s x.part t.ctx = true) →
          let ends (st : Nat) : Prop := ∃ u, exec (.twinPair n) s = .next u ∧ Completes s u n x st 0 []
            ∧ u.str = s.str ∧ u.mem = s.mem ∧ u.regs = s.regs
          (openPeer s t.peer = none → ends stBadState)
          ∧ ((openPeer s t.peer).isSome = true → (∀ i, i < 64 → (smFind s.str.twins i).isSome = true) → ends stRecordFull)
          ∧ ∀ k, (openPeer s t.peer).isSome = true → k < 64 → smFind s.str.twins k = none →
              (∀ i, i < k → (smFind s.str.twins i).isSome = true) → ∃ u, exec (.twinPair n) s = .next u
                ∧ smFind u.str.twins k = some t ∧ t.st = .pairing ∧ t.pick = some n
                ∧ (∀ j, j ≠ k → smFind u.str.twins j = smFind s.str.twins j) ∧ Started s u n x ∧ u.mem = s.mem
                ∧ u.regs = s.regs))
  ∧ (∀ (s : State) (n : Nat) (x : PickR), pkZero x 0x11 0x80 = true →
      let k := pkF x 0x10 1
      (Starts s n 0x0D x →
        (rightStep s x.part = false → OnlyCompletes (.twinUnpair n) s n x stDenied)
        ∧ (rightStep s x.part = true → (∀ t, smFind s.str.twins k = some t → t.owner ≠ x.part) →
            OnlyCompletes (.twinUnpair n) s n x stNotFound)
        ∧ (∀ t, rightStep s x.part = true → smFind s.str.twins k = some t → t.owner = x.part → t.replay = true →
            t.pick = none → replayFiring s k = none → ∃ u, exec (.twinUnpair n) s = .next u ∧ Completes s u n x stDone 0 []
              ∧ smFind u.str.twins k = none ∧ (∀ j, j ≠ k → smFind u.str.twins j = smFind s.str.twins j)
              ∧ u.str.twinLog = s.str.twinLog.filter (fun e => e.who != k)
              ∧ u = { s with spl := u.spl, str := u.str }))
      ∧ (Starts s n 0x0E x →
        (rightStep s x.part = false → OnlyCompletes (.twinResync n) s n x stDenied)
        ∧ (∀ t, rightStep s x.part = true → smFind s.str.twins k = some t → t.owner = x.part →
            (t.st ≠ .diverged ∨ openPeer s t.peer = none → OnlyCompletes (.twinResync n) s n x stBadState)
            ∧ (t.st = .diverged → (openPeer s t.peer).isSome = true → ∃ u y, exec (.twinResync n) s = .next u
                ∧ smFind u.str.twins k = some y ∧ y.st = .resync ∧ y.source = true ∧ y.pick = some n ∧ y.written = 0
                ∧ y.peer = t.peer ∧ Started s u n x ∧ u.mem = s.mem ∧ u.regs = s.regs))))
  ∧ (∀ (s : State) (n : Nat) (x : PickR), Starts s n 0x0F x →
      let cnt := pkF x 0x11 1
      let k := pkF x 0x16 1
      let share := pkF x 0x14 2
      let others := ((s.str.smokes.filter fun kv => kv.1 != k).map fun kv => kv.2.share).foldl (· + ·) 0
      let mine (j : Nat) : Smoke := smGet {} s.str.smokes j
      cnt ≤ 4 → pkF x 0x17 1 = 0 → destsOk s x cnt 6 = true →
      let sets (j : Nat) : Prop := ∃ t, exec (.smokeConfig n) s = .next t ∧ Completes s t n x stDone 0 (leBytes 1 j)
        ∧ (∃ y, smFind t.str.smokes j = some y ∧ y = { mine j with
            ctx := pkF x 0x10 1
            owner := x.part
            sinks := (List.range cnt).map fun i => { peer := pkF x (0x18 + 4 * i) 2, rx := pkF x (0x1A + 4 * i) 1 }
            d := pkF x 0x12 2
            share := share
            log := []
            used := 0 })
        ∧ (∀ i, i ≠ j → smFind t.str.smokes i = smFind s.str.smokes i) ∧ t = { s with spl := t.spl, str := t.str }
      (rightStep s x.part = false → OnlyCompletes (.smokeConfig n) s n x stDenied)
      ∧ (rightStep s x.part = true →
        (0 < cnt → pkF x 0x12 2 = 0 ∨ share = 0 ∨ 512 < share ∨ s.boot.img.cfg.smokeLog < (others + share) * 0x100000 →
          OnlyCompletes (.smokeConfig n) s n x stBadField)
        ∧ (0 < cnt → 0 < pkF x 0x12 2 → 0 < share → share ≤ 512 → (others + share) * 0x100000 ≤ s.boot.img.cfg.smokeLog →
            holdsCtx s x.part (pkF x 0x10 1) = true →
            (∀ y, k ≠ 0xFF → smFind s.str.smokes k = some y → y.owner = x.part → y.active = false → sets k)
            ∧ (∀ j, k = 0xFF → j < 16 → smFind s.str.smokes j = none → (∀ i, i < j → (smFind s.str.smokes i).isSome = true) →
                sets j))
        ∧ (cnt = 0 → (∀ y, smFind s.str.smokes k = some y → y.owner ≠ x.part) →
            OnlyCompletes (.smokeConfig n) s n x stNotFound)))
  ∧ ∀ (s : State) (n : Nat) (x : PickR), Starts s n 0x10 x → pkZero x 0x11 0x14 = true → pkZero x 0x18 0x80 = true →
      let k := pkF x 0x10 1
      let e := pkF x 0x14 4
      (rightStep s x.part = false → OnlyCompletes (.smokeSnapshot n) s n x stDenied)
      ∧ (∀ y, rightStep s x.part = true → smFind s.str.smokes k = some y → y.owner = x.part →
          (y.snap ≠ 0 ∨ updateAhead (smGet {} s.stp.ctxs y.ctx) e = false → OnlyCompletes (.smokeSnapshot n) s n x stBadState)
          ∧ (y.snap = 0 → updateAhead (smGet {} s.stp.ctxs y.ctx) e = true → ∃ t, exec (.smokeSnapshot n) s = .next t
              ∧ t.str = { s.str with smokes := smSet s.str.smokes k { y with
                  snap := 1
                  snapEpoch := e
                  snapPick := some n
                  snapFires := []
                  snapPos := 0 } }
              ∧ Started s t n x ∧ t = { s with spl := t.spl, str := t.str }))

/-- A FIRE pick is checked and admitted, the block selects one firing, and its launch or restore loads every hob of its
rectangle. Rests on spec/05_firings.md; spec/16_spools.md. -/
def Obligations.FiringsAreAdmittedAndStarted : Prop :=
  (∀ (s : State) (n : Nat) (x : PickR), smFind s.spl.picks n = some x →
      let f := parseFire x
      let c := launchChecks s x.part f true
      (x.opc ≠ 1 ∨ x.st ≠ .fetched → exec (.fire n) s = .next s)
      ∧ (x.opc = 1 → x.st = .fetched →
        (fireFieldsOk x = false → OnlyCompletes (.fire n) s n x stBadField)
        ∧ (fireFieldsOk x = true → c ≠ 0 → ∃ t, exec (.fire n) s = .next t
            ∧ Completes s t n x stLaunchRejected c (fireResult { f := f } false) ∧ t = { s with spl := t.spl, obs := t.obs })
        ∧ (fireFieldsOk x = true → c = 0 → curFiring s = none →
            (f.update = true → ∀ e ∈ (smGet {} s.stp.ctxs f.ctx).eps, e.st ≠ .updating) → ∃ t, exec (.fire n) s = .next t
            ∧ t.fir = { s.fir with
                all := smSet s.fir.all s.fir.next {
                  f := f
                  pick := some n
                  part := x.part
                  cls := x.cls
                  spool := x.spool
                  seq := x.seq
                  st := if f.update then .held else .queued
                  code := (findProg s f.prog).getD {} }
                next := s.fir.next + 1 }
            ∧ Started s t n x ∧ t = { s with spl := t.spl, fir := t.fir, obs := t.obs })))
  ∧ (∀ s : State,
      (s.fir.cur.isSome = true ∨ tilesSleep s = true ∨ selectChoice s = none → exec .firingSelect s = .next s)
      ∧ ∀ n x, s.fir.cur = none → tilesSleep s = false → selectChoice s = some n → smFind s.fir.all n = some x →
        let cnt := progGrans x.code
        let copy (i : Nat) : List Datum := (resReadN s (progOff s x.code.place i) cnt).1.map (·.2)
        let words (ds : List Datum) : List W64 :=
          (List.range x.code.len).map fun i => BitVec.ofNat 64 (leAt (ds.flatMap fun d => granBytes d.bits) (8 * i) 8)
        let goes (ws : List W64) (rm : List Host.Cell) : Prop := ∃ t, exec .firingSelect s = .next t
          ∧ t.fir = { s.fir with
              cur := some n
              turn := smSet s.fir.turn x.cls x.part
              all := smSet s.fir.all n { x with
                code := { x.code with code := ws }
                preempted := false
                st := if x.st = .suspended then .restoring else .launching } }
          ∧ t.rmem = rm ∧ t = { s with
              fir := t.fir
              rmem := t.rmem
              sched := t.sched
              warp := t.warp
              flt := t.flt
              obs := t.obs }
        (CtlWord.stoker 0 ∈ s.flt.ctl → ∃ t, exec .firingSelect s = .next t ∧ t.flt.ctlStop = true ∧ t.fir = s.fir)
        ∧ (CtlWord.stoker 0 ∉ s.flt.ctl → (∀ i, i < 2 → Unqueued s (resPlaces s (progOff s x.code.place i) cnt)) →
          (anyBad (copy 0) = false → goes (words (copy 0)) s.rmem)
          ∧ (anyBad (copy 0) = true → anyBad (copy 1) = false →
              goes (words (copy 1)) (resWriteN s (progOff s x.code.place 0) (copy 1)).rmem)
          ∧ (∀ k y, anyBad (copy 0) = true → anyBad (copy 1) = true → x.st ≠ .suspended → x.saved = [] → x.launched = false →
              x.f.update = false → x.mirror = none → x.replay = none → x.pick = some k → smFind s.spl.picks k = some y →
              pickIsDone y = false → ∃ t z, exec .firingSelect s = .next t
            ∧ smFind t.fir.all n = none ∧ t.fir.cur = none
            ∧ t.fir.progs = s.fir.progs.filter (fun p => p.place != x.code.place)
            ∧ smFind t.spl.picks k = some z ∧ z.st = .done stProgramError 0 (fireResult x false) ∧ t.mem = s.mem)))
  ∧ ∀ (s : State),
      (curFiring s = none → exec .launchComplete s = .next s ∧ exec .restoreComplete s = .next s)
      ∧ ∀ k x, curFiring s = some (k, x) →
        let hs := rectHobs x.f
        let seg := (broadcastSeg s x).1
        let from_ : HobSt := if x.replay.isSome then .gated else .run
        let still : Prop := (0 < x.f.bsize → Unqueued s (engPlaces s x.f.bsrc (4096 * x.f.bsize)))
          ∧ scanIn s x.f (fun q => q.bound && decide (q.phase ≤ 1)) = false
        let record (q : Nat) (v : Nat × CtxKeep) : Hob × Bool :=
          ctxHob (ctxBadParts x v.1 ((resReadN s (ctxOff s q v.1) 40).1.map (·.2))) v.2
        (x.st ≠ .launching → exec .launchComplete s = .next s) ∧ (x.st ≠ .restoring → exec .restoreComplete s = .next s)
        ∧ (x.st = .launching → still → ∃ t, exec .launchComplete s = .next t ∧ t.mem = s.mem
          ∧ (firingOf t k).key = partKey s x.part ∧ (firingOf t k).launched = true
          ∧ ((firingOf t k).st = .running ∨ (firingOf t k).st = .stopping)
          ∧ (∀ n ∈ hs, let h := hobOf s n
              hobOf t n = {
                st := from_
                store := (List.range seg.length).zip (segBad x seg n) ++ h.store.filter (fun w => seg.length ≤ w.1)
                scr := h.scr
                imem := x.code.code
                imemUe := imemBad x n
                lp := launchParams s x.f n
                ce := h.ce
                halts := h.halts
                endSt := h.endSt
                firings := h.firings })
          ∧ ∀ n, n ∉ hs → hobOf t n = hobOf s n)
        ∧ (∀ q, x.st = .restoring → still → x.slot = some q → (x.saved.map (·.1)).Nodup →
            (∀ e ∈ x.ended, ∀ v ∈ x.saved, e.1 ≠ v.1) → (∀ v ∈ x.saved, Unqueued s (resPlaces s (ctxOff s q v.1) 40)) →
            (∀ v ∈ x.saved, (record q v).2 = true → ∃ t, exec .restoreComplete s = .next t ∧ (hobOf t v.1).st = .ended
              ∧ (hobOf t v.1).endSt = hobStateError)
          ∧ ((∀ v ∈ x.saved, (record q v).2 = false) → ∃ t, exec .restoreComplete s = .next t ∧ t.mem = s.mem
          ∧ (firingOf t k).saved = [] ∧ (firingOf t k).slot = none ∧ (firingOf t k).ended = x.ended
          ∧ ((firingOf t k).st = .running ∨ (firingOf t k).st = .stopping)
          ∧ (∀ v ∈ x.saved, let h := hobOf s v.1
              hobOf t v.1 = { raise (record q v).1 flCX with
                st := from_
                store := (List.range seg.length).zip (segBad x seg v.1)
                scr := (hobOf t v.1).scr
                imem := x.code.code
                imemUe := imemBad x v.1
                lp := launchParams s x.f v.1
                ce := h.ce
                halts := h.halts
                endSt := h.endSt
                firings := h.firings })
          ∧ (∀ e ∈ x.ended, (hobOf t e.1).st = .ended)))

/-- A stop is signalled when its cause is not held, saves the hobs that stopped, and a firing commits its reduction and its
status. Rests on spec/05_firings.md. -/
def Obligations.FiringsStopSaveAndCommit : Prop :=
  (∀ s : State, curFiring s = none →
      exec .heldStopSignal s = .next s ∧ exec .stopComplete s = .next s ∧ exec .stopWatchdogExpires s = .next s
      ∧ exec .quantumExpires s = .next s ∧ ∀ ns, exec (.saveComplete ns) s = .next s ∧ exec (.firingCommit ns) s = .next s)
  ∧ (∀ (s : State) (k : Nat) (x : Firing), curFiring s = some (k, x) →
      let hs := rectHobs x.f
      let stopped (n : Nat) : Bool := (hobOf s n).st == .stopped || (hobOf s n).st == .gated
      let moves (t : State) (y : Firing) : Prop := firingOf t k = y ∧ (∀ j, j ≠ k → firingOf t j = firingOf s j)
        ∧ t = { s with fir := { s.fir with all := t.fir.all }, obs := t.obs }
      let other : Bool := s.fir.all.any fun kv => kv.2.part != x.part && kv.2.cls ≤ x.cls && runnable s kv.2
      let standing := x.causes.filter (causeStands s x)
      (x.st ≠ .running → exec .heldStopSignal s = .next s)
      ∧ (x.st = .running → (∀ c ∈ standing, causeHeld s x c = true) → ∃ t, exec .heldStopSignal s = .next t
          ∧ moves t { x with causes := standing })
      ∧ (x.st = .running → (∃ c ∈ standing, causeHeld s x c = false) → s.fir.all.Pairwise (fun a b => a.1 < b.1) → ∃ t,
          exec .heldStopSignal s = .next t ∧ moves t { x with causes := standing, st := .stopping })
      ∧ (x.st ≠ .running ∨ other = false → exec .quantumExpires s = .next s)
      ∧ (x.st = .running → other = true → ∃ t y, exec .quantumExpires s = .next t ∧ moves t y
          ∧ y = { x with slice := true, causes := y.causes, st := y.st } ∧ .slice ∈ y.causes
          ∧ (y.st = .running ∨ y.st = .stopping) ∧ (s.fir.all.Pairwise (fun a b => a.1 < b.1) → x.red = false → 1 < slotsFree s → y.st = .stopping))
      ∧ (x.st ≠ .stopping ∨ (∃ n ∈ hs, stopped n = false ∧ (hobOf s n).st ≠ .ended) → exec .stopComplete s = .next s)
      ∧ (x.st = .stopping → (∀ n ∈ hs, (hobOf s n).st = .ended) → ∃ t, exec .stopComplete s = .next t
          ∧ moves t { x with causes := [], payer := none, st := .ending })
      ∧ (x.st = .stopping → (∀ n ∈ hs, stopped n = true ∨ (hobOf s n).st = .ended) → (∃ n ∈ hs, stopped n = true) →
          (freeSlot s = none → exec .stopComplete s = .next s)
          ∧ ∀ q, freeSlot s = some q → ∃ t, exec .stopComplete s = .next t
            ∧ moves t { x with
                saved := (hs.filter stopped).map fun n => (n, ⟨(hobOf s n).passed, (hobOf s n).digest, (hobOf s n).stored⟩)
                slot := some q
                badCtx := []
                st := .saving })
      ∧ (x.st ≠ .stopping ∨ (∀ n ∈ hs, (hobOf s n).st ≠ .run) → exec .stopWatchdogExpires s = .next s)
      ∧ (x.st = .stopping → (∃ n ∈ hs, (hobOf s n).st = .run) → ∃ t, exec .stopWatchdogExpires s = .next t
          ∧ (firingOf t k).st = .ending ∧ (firingOf t k).status = some stStopTimeout ∧ (firingOf t k).causes = []
          ∧ (∀ n ∈ hs, (hobOf t n).st = .ended) ∧ t.fir.cur = some k ∧ t.regs = s.regs)
      ∧ ∀ ns, let q := hs.length * ns
          let pays := x.payer.getD x.part
          let paid (t : State) : Prop := (part t pays).chHob = ((part s pays).chHob + q) % 2 ^ 64
            ∧ level (part t pays) .hob = sat48 (level (part s pays) .hob - q) ∧ t.fir.cur = none
            ∧ ∀ n ∈ hs, (hobOf t n).st = .idle
          (x.st ≠ .saving → exec (.saveComplete ns) s = .next s)
          ∧ (∀ b, x.st = .saving → x.slot = some b → (∀ v ∈ x.saved, Unqueued s (resPlaces s (ctxOff s b v.1) 40)) →
              ∃ t, exec (.saveComplete ns) s = .next t ∧ paid t ∧ t.mem = s.mem ∧ t.regs = s.regs
              ∧ t.rmem = (x.saved.foldl (fun u v =>
                  resWriteN u (ctxOff s b v.1) (ctxBadParts x v.1 (ctxGrans (hobOf s v.1)))) s).rmem
              ∧ (∀ j, j ≠ k → firingOf t j = firingOf s j)
              ∧ firingOf t k = { x with
                  hobTime := x.hobTime + q
                  preempted := x.causes.contains .ember
                  testWait := x.causes.contains .test
                  suspensions := x.suspensions + 1
                  brkHeld := causeBrk x.causes
                  causes := []
                  badCtx := []
                  slice := false
                  st := .suspended })
          ∧ (x.st ≠ .ending ∨ (∃ n ∈ hs, (hobOf s n).st ≠ .ended) → exec (.firingCommit ns) s = .next s)
          ∧ (∀ n y, x.st = .ending → commitReady s x = true → s.str.twinLog = [] → (∀ z ∈ s.str.smokes, z.2.log = []) →
              x.f.update = false → x.mirror = none → x.replay = none → x.pick = some n → smFind s.spl.picks n = some y →
              pickIsDone y = false →
              (0 < x.f.outLen → Unqueued s (engPlaces s x.f.out (32 * (reduction x).1.length))) →
              ∃ t z, exec (.firingCommit ns) s = .next t ∧ paid t ∧ smFind t.fir.all k = none
                ∧ smFind t.spl.picks n = some z
                ∧ (let fine : Bool := hs.all fun n => x.ended.any fun h => h.1 == n && h.2.1 == hobDone
                   let red := if x.f.outLen = 0 then ([], false) else reduction x
                   z.st = .done (x.status.getD (if fine then stDone else stHobFault)) 0
                     (fireResult { x with hobTime := x.hobTime + q } red.2)
                   ∧ t.mem = (engWrite s x.f.out red.1).mem)))
  ∧ ∀ s : State,
      (s.flt.scan = none → s.warp.migr = none → exec .testDeferralBound s = .next s)
      ∧ ∀ q, s.flt.scan = some q →
        (q.bound = true ∨ 2 ≤ q.phase → s.warp.migr = none → exec .testDeferralBound s = .next s)
        ∧ (q.bound = false → q.phase < 2 →
          let marked : State := { s with flt := { s.flt with scan := some { q with bound := true } } }
          (q.pos = none ∨ curFiring s = none → exec .testDeferralBound s = .next marked)
          ∧ ∀ p k x, q.pos = some p → curFiring s = some (k, x) →
            (inRect x.f (q.die * 32 + p) = false ∨ executing x = false → exec .testDeferralBound s = .next marked)
            ∧ (∀ n y, executing x = true → inRect x.f (q.die * 32 + p) = true → x.f.update = false → x.mirror = none → x.launched = true →
                x.f.tapFan = false → x.f.tapSmoke = false → x.replay = none → x.pick = some n → smFind s.spl.picks n = some y →
                pickIsDone y = false → ∃ t z res, exec .testDeferralBound s = .next t ∧ smFind t.fir.all k = none
                  ∧ t.fir.cur = none ∧ t.flt.scan = some { q with bound := true }
                  ∧ smFind t.spl.picks n = some z ∧ z.st = .done stTestPreempted 0 res))

/-- ACCWs are applied once and in order, fences are counted, an epoch closes, its tags are swept, its sums are collected and
its decision is taken. Rests on spec/07_gradient_steps.md. -/
def Obligations.StepEvents : Prop :=
  (∀ (s : State) (n : Nat) (a : AccReq), smFind s.stp.acc n = some a →
      let earlier : Prop := ∃ e ∈ s.stp.acc, e.1 < n ∧ e.2.chan = a.chan
      let r := (rgnAt s a.rgn).getD {}
      let half := r.first * unitBytes + a.epoch % 2 * (sliceBytes r / 2)
      let u := (a.loc - half) / 2080
      let b := (a.loc - half) % 2080 / 128
      let base := half + 2080 * u
      let tags := memGet s.mem (locAddr s a.die a.pos (base + 2048))
      let x := bitsAt tags.2.bits.toNat (16 * b) 8
      let fresh : Bool := bitsAt tags.2.bits.toNat (16 * b + 8) 8 != a.epoch % 256
      let rd := (List.range 4).map fun g => memGet s.mem (locAddr s a.die a.pos (base + 128 * b + 32 * g))
      let old := rd.map (·.2)
      let pay := a.data.flatMap fun d => (accElems a.fmt d.bits).map fun v => if d.poison then none else some v
      let out := accBlock a.key a.epoch a.stream a.rtag (a.pbase + u * 1024 + 64 * b) ((a.loc - half) % 2080 % 128 / 2)
        (f32 a.w) pay fresh x (old.flatMap fun d => elems 2 d.bits)
      let grans := out.grans ++ if fresh then [] else accFixed rd out.grans
      let w := grans.foldl (fun t g => writeGran t a.die a.pos (base + 128 * b + 32 * g.1) g.2) s
      let granted : Bool := accGranted (pairAt s a.die a.pos) n
      let told (st : Nat) (t : State) : Prop := ∀ m h, a.from_ = some (false, m, h) → hPosted h = false →
        ∃ e, (modOf t false m).egress = (modOf s false m).egress ++ [e] ∧ hStatus e.pkt.hdr = st ∧ hTag e.pkt.hdr = hTag h
      (earlier ∨ granted = false → exec (.accwApply n) s = .next s)
      ∧ (¬ earlier → granted = true → locReserved s (base + 2048) = false → locReserved s (base + 128 * b) = false →
          locReserved s (base + 128 * b + 96) = false → ∃ t, exec (.accwApply n) s = .next t
          ∧ t.stp.acc = smDel s.stp.acc n ∧ t.regs = s.regs
          ∧ (∀ j f, smFind s.stp.fences j = some f → smFind t.stp.fences j = some { f with wait := f.wait.filter (· != n) })
          ∧ (tags.2.poison = true ∨ (fresh = false ∧ anyBad old = true) → t.mem = s.mem ∧ told 7 t)
          ∧ (tags.2.poison = false → fresh = true ∨ anyBad old = false →
            told 0 t ∧ (∃ nb : BitVec 256, bitsAt nb.toNat (16 * b) 8 = out.scale ∧ bitsAt nb.toNat (16 * b + 8) 8 = a.epoch % 256
              ∧ (∀ j, j < 16 → j ≠ b → bitsAt nb.toNat (16 * j) 16 = bitsAt tags.2.bits.toNat (16 * j) 16)
              ∧ (nb ≠ tags.2.bits ∨ tags.1 = .correctable →
                  t.mem = (writeGran w a.die a.pos (base + 2048) ⟨nb, false⟩).mem)
              ∧ (nb = tags.2.bits → tags.1 ≠ .correctable → t.mem = w.mem))
            ∧ ∀ c, smFind s.stp.ctxs a.ctx = some c →
                smFind t.stp.ctxs a.ctx = some (modBook (addSquares c (a.die * 32 + a.pos) (a.epoch % 2) out.dss out.ovf) a.epoch
                  fun k => { k with app := k.app + 1 }))))
  ∧ (∀ (s : State) (n : Nat) (f : FenceReq), smFind s.stp.fences n = some f →
      (f.wait ≠ [] → exec (.fenceCounted n) s = .next s)
      ∧ (f.wait = [] →
        let gone : Step := { s.stp with fences := smDel s.stp.fences n }
        let answers (st : Nat) (p : Step) : Prop :=
          exec (.fenceCounted n) s = .next (reply { s with stp := p } f.mute f.flue f.module f.hdr st [])
        (smFind s.stp.ctxs f.ctx = none → answers 5 gone)
        ∧ ∀ c, smFind s.stp.ctxs f.ctx = some c →
          let put (d : StepCtx) : Step := { gone with ctxs := smSet s.stp.ctxs f.ctx d }
          let book (d : StepCtx) (g : Book → Book) : StepCtx := modBook d f.epoch g
          (c.openEpoch < f.epoch ∨ (c.isOpen = false ∧ c.openEpoch = f.epoch) →
            answers 5 (put (book c fun b => { b with ref := b.ref + 1 })))
          ∧ (f.epoch + 1 < c.openEpoch → answers 0 (put (ashDrop c f.contrib f.epoch 0)))
          ∧ ∀ x, c.isOpen = true → f.epoch = c.openEpoch → epOf c c.openEpoch = some x →
            (f.contrib ∈ x.fences → answers 0 (put (book { c with dupFence := c.dupFence + 1 } fun b => { b with rep := b.rep + 1 })))
            ∧ (f.contrib ∉ x.fences → answers 0 (put { c with eps := c.eps.map fun y =>
                if y.e = x.e then { x with
                  fences := x.fences ++ [f.contrib]
                  deadline := true
                  cause := (if x.cause = 0 ∧ c.expect ≤ x.fences.length + 1 then 1 else x.cause) } else y }))))
  ∧ (∀ (s : State) (k : Nat) (c : StepCtx), smFind s.stp.ctxs k = some c →
      (∀ x, epOf c c.openEpoch = some x → c.isOpen = true → x.deadline = true → exec (.closeDeadlineExpires k) s
        = .next { s with stp := { s.stp with ctxs := smSet s.stp.ctxs k { c with eps := c.eps.map fun y =>
            if y.e = c.openEpoch ∧ y.cause = 0 then { y with cause := 2 } else y } } })
      ∧ (∀ x, epOf c c.openEpoch = some x → c.isOpen = false ∨ x.cause = 0 ∨ c.retag ≠ none ∨ c.drains ≠ [] →
          exec (.closePoint k) s = .next s)
      ∧ (∀ x, epOf c c.openEpoch = some x → c.isOpen = true → x.cause ≠ 0 → c.retag = none → c.drains = [] → ∃ t d,
          exec (.closePoint k) s = .next t ∧ smFind t.stp.ctxs k = some d ∧ d.retag = some x.e ∧ d.openEpoch = x.e + 1
          ∧ epOf d x.e = some { x with st := .closed, gtc := s.clk.gtc.toNat, deadline := false }
          ∧ d.ash = c.ash.filter (fun r => r.epoch + 1 != x.e)
          ∧ (d.isOpen = true ↔ (c.first + 2 ≤ x.e + 1 → epDone c (x.e - 1) = true))
          ∧ t = { s with stp := { s.stp with ctxs := t.stp.ctxs }, obs := t.obs })
      ∧ (c.retag = none → exec (.retagSweepDone k) s = .next s)
      ∧ (∀ e, c.retag = some e →
          let use : EngUse := { cls := 1, places := retagPlaces s c e, rd := (retagPlaces s c e).length, wr := 0 }
          (engReady s use = false → exec (.retagSweepDone k) s = .next s)
          ∧ (engReady s use = true → ∃ t, exec (.retagSweepDone k) s = .next t ∧ smFind t.stp.ctxs k = some { c with retag := none }
          ∧ (∀ j, j ≠ k → smFind t.stp.ctxs j = smFind s.stp.ctxs j) ∧ t.regs = s.regs ∧ t.staging = s.staging
          ∧ (c.rgns = [] → t.mem = s.mem)))
      ∧ (let decided (i : Instr) (x : Epoch) : Prop :=
          let c1 := { c with eps := c.eps.map fun y => if y.e = x.e then x else y }
          (decideRow c1 x = none → ∃ t, exec i s = .next t ∧ smFind t.stp.ctxs k = some c1 ∧ t.mem = s.mem)
          ∧ ∀ d, decideRow c1 x = some d → ∃ t d2 y, exec i s = .next t ∧ smFind t.stp.ctxs k = some d2
              ∧ d2.last = x.e ∧ d2.dec = x.e + 1 ∧ epOf d2 x.e = some y ∧ y.decision = d
              ∧ (d = 1 → y.st = .updating ∧ y.cf = clipFactor c1 c.scaleNext (normTotal c1 x) ∧ y.scale = c.scaleNext)
              ∧ (d ≠ 1 → y.st = .done ∧ y.cf = 0 ∧ bitAt (part t c.owner).alert 4 = true)
         let last (x : Epoch) : Prop := x.e = c.dec ∧ c.openEpoch ≤ x.e + 2 ∧ epOf c (x.e + 1) = none
         (∀ x, c.eps.find? (fun y => y.st == .closed) = some x → last x → epOf c x.e = some x →
            (∀ y ∈ s.stp.acc, y.2.ctx = k → y.2.epoch ≠ x.e) → (∀ n ∈ ctxHobs s c, weftFree s (n / 32) 2 = true) →
            let bad := (ctxHobs s c).filter fun n => c.ovf.contains (n * 2 + x.e % 2)
            decided (.sumsCollected k) { x with
              st := .deciding
              tEnd := s.clk.gtc.toNat + 1000 * c.tnt
              part := ownPartial s c (x.e % 2)
              ovf := decide (bad ≠ [])
              ovfHobs := bad.length })
         ∧ (∀ x, normFirst c = some x → last x → epOf c x.e = some x →
            decided (.normTimeout k) { x with timedOut := true })
         ∧ ((∀ x ∈ c.eps, x.st ≠ .closed) ∨ (∃ n ∈ ctxHobs s c, weftFree s (n / 32) 2 = false) →
              exec (.sumsCollected k) s = .next s)
         ∧ ((∀ x ∈ c.eps, x.st = .deciding → x.timedOut = true) → exec (.normTimeout k) s = .next s))
      ∧ (c.drains = [] → exec (.ashDrainRecord k) s = .next s)
      ∧ (∀ d ds, c.drains = d :: ds →
        let mine (q : AshRec) : Bool := q.contrib == d.contrib && q.epoch == d.epoch
        (c.ash.find? mine = none → exec (.ashDrainRecord k) s
          = .next { s with stp := { s.stp with ctxs := smSet s.stp.ctxs k { c with drains := ds } } })
        ∧ (∀ r, c.ash.find? mine = some r →
            let rd := resReadN s (ashOff s r.slot) 3
            let left : List Drain := if (c.ash.erase r).any mine then c.drains else ds
            let may (a : Option AccReq) : Bool := (engTurn rd.2 (drainUse s r.slot a)).isSome
            (ashRead rd.1 = none →
              (may none = false → exec (.ashDrainRecord k) s = .next s)
              ∧ (may none = true → ∃ t d2, exec (.ashDrainRecord k) s = .next t ∧ smFind t.stp.ctxs k = some d2
                  ∧ d2.ash = c.ash.erase r ∧ d2.drains = left ∧ d2.dropped = c.dropped + 1 ∧ t.mem = s.mem))
            ∧ ∀ v, ashRead rd.1 = some v →
              let a := drainAcc s k c d v
              (may a = false → exec (.ashDrainRecord k) s = .next s)
              ∧ (may a = true → holdsTokens s c.owner .hearth 1 = true → ∃ t d2, exec (.ashDrainRecord k) s = .next t
                ∧ smFind t.stp.ctxs k = some d2 ∧ d2.ash = c.ash.erase r ∧ d2.drains = left
                ∧ (part t c.owner).chHearth = ((part s c.owner).chHearth + 96 + 4 * (if v.2.1 = 2 then 16 else 32)) % 2 ^ 64))))

/-- A transposed read takes its room and answers its tile, the sampler runs its pick, and the 1 µs boundary refills the
dampers. Rests on spec/08_decode_and_transpose.md; spec/09_heddle_and_sampler.md; spec/17_partitions_and_dampers.md,
Dampers. -/
def Obligations.TilesTokensAndTheTick : Prop :=
  (∀ (s : State) (k : Nat), smFind s.treads k = none → exec (.treadBufferAllocated k) s = .next s ∧ exec (.treadResponse k) s = .next s)
  ∧ (∀ (s : State) (k : Nat) (r : Tread), smFind s.treads k = some r →
      let need := treadBytes (tType r.hdr)
      let full : Prop := s.staging.tpose * 0x100000 < s.tposeUsed + need
      (r.alloc = true ∨ (r.stalled = true ∧ full) → exec (.treadBufferAllocated k) s = .next s)
      ∧ (r.alloc = false → r.stalled = false → full → exec (.treadBufferAllocated k) s
          = .next { s with
              treads := smSet s.treads k { r with stalled := true }
              ports := { s.ports with tposeStalls := s.ports.tposeStalls + 1 } })
      ∧ (r.alloc = false → ¬ full → ∃ t n x, exec (.treadBufferAllocated k) s = .next t
          ∧ t.treads = smSet s.treads k { r with alloc := true, txn := n } ∧ t.tposeUsed = s.tposeUsed + need
          ∧ smFind t.ports.txns n = some x ∧ x.hdr = r.hdr ∧ x.data = [] ∧ t.mem = s.mem ∧ t.regs = s.regs
          ∧ x.left = ((srcBursts ((srcGrans r.hdr).map (hAddr r.hdr + ·))).filter fun b => (addrPlace s b.1).isSome).length)
      ∧ (r.alloc = false → exec (.treadResponse k) s = .next s)
      ∧ ∀ x, r.alloc = true → smFind s.ports.txns r.txn = some x →
        (x.left ≠ 0 → exec (.treadResponse k) s = .next s)
        ∧ (x.left = 0 → r.mute = false → x.mute = false → ∃ u e, exec (.treadResponse k) s = .next (portsGo u)
            ∧ u.treads = smDel s.treads k ∧ smFind u.ports.txns r.txn = none ∧ u.mem = s.mem
            ∧ (modOf u false r.module).egress = (modOf s false r.module).egress ++ [e] ∧ hOpc e.pkt.hdr = 0x83
            ∧ hTag e.pkt.hdr = hTag r.hdr ∧ e.pkt.data = (List.range (need / 32)).map (tileGran r.hdr x.data)))
  ∧ (∀ (h : BitVec 256) (data : List (Nat × Datum)) (e : Nat), tType h < 6 → tType h ≠ 4 → e < 4096 →
      let w := tElBits (tType h)
      let a := srcBit h (e % 64) (e / 64)
      let g := tileGran h data (e * w / 256)
      a % 256 + w ≤ 256 → g.poison = false →
        bitsAt g.bits.toNat (e * w % 256) w = bitsAt (tGran h data (a / 256)).bits.toNat (a % 256) w)
  ∧ (∀ (s : State) (k : Nat),
      (s.smp.run.isSome = true ∨ smpChoice s = none ∨ tilesSleep s = true → exec (.samplerStart k) s = .next s)
      ∧ ∀ w, s.smp.run = none → smpChoice s = some w →
        (w.ctx ≠ k → exec (.samplerStart k) s = .next s)
        ∧ (w.ctx = k → tilesSleep s = false → holdsTokens s w.part .hearth w.cls = true → CtlWord.sampler k ∈ s.flt.ctl → ∃ t,
            exec (.samplerStart k) s = .next t ∧ t.flt.ctlStop = true ∧ t.smp = s.smp)
        ∧ (w.ctx = k → tilesSleep s = false → holdsTokens s w.part .hearth w.cls = true → CtlWord.sampler k ∉ s.flt.ctl → ∃ t,
            exec (.samplerStart k) s = .next t
            ∧ t.smp = { s.smp with
                wait := s.smp.wait.filter (fun q => q.pick != w.pick)
                run := some w
                serve := t.smp.serve }
            ∧ (part t w.part).chHearth = ((part s w.part).chHearth + w.v * (if w.fmt = 0 then 2 else 4)) % 2 ^ 64
            ∧ t = { s with parts := t.parts, smp := t.smp, obs := t.obs }))
  ∧ (∀ s : State, (s.smp.run = none → exec .samplerDone s = .next s)
      ∧ ∀ w x, s.smp.run = some w → smFind s.spl.picks w.pick = some x → pickIsDone x = false → w.v ≤ 2 ^ 24 →
        let n := w.v * (if w.fmt = 0 then 2 else 4)
        let ds := (engRead s (some w.part) w.src n).1
        let l := logitAt w.fmt (gransBytes ds (w.src % 32) n)
        let ready : Bool := engReady s (engReads s w.cls w.src n)
        (ready = false → exec .samplerDone s = .next s)
        ∧ (ready = true → CtlWord.sampler w.ctx ∈ s.flt.ctl → ∃ t, exec .samplerDone s = .next t ∧ t.flt.ctlStop = true
            ∧ t.smp = s.smp)
        ∧ (ready = true → CtlWord.sampler w.ctx ∉ s.flt.ctl → ∃ t st res, exec .samplerDone s = .next t
          ∧ t.smp.run = none ∧ t.smp.wait = s.smp.wait
          ∧ t.smp.picks = s.smp.picks + 1 ∧ t.smp.lastCtx = w.ctx ∧ Completes s t w.pick x st 0 res ∧ t.mem = s.mem
          ∧ t.regs = s.regs
          ∧ (anyBad ds = true → st = stPoison ∧ res = [])
          ∧ (anyBad ds = false → (∀ i, i < w.v → l i = .inf true) → st = stNoCandidate)
          ∧ (anyBad ds = false → w.t = 0 → (∃ i, i < w.v ∧ l i ≠ .inf true) → st = stDone
              ∧ leAt res 8 4 = 0x3F800000 ∧ leAt res 12 2 = 1
              ∧ ∃ i, i < w.v ∧ leAt res 0 4 = i ∧ (∀ j, j < w.v → fvBelow (l i) (l j) = false)
                ∧ ∀ j, j < i → fvBelow (l j) (l i) = true)))
  ∧ ∀ s : State,
      (gtcRuns s = false → exec .damperTick s = .next s)
      ∧ (gtcRuns s = true → s.boot.st = .service → ∃ u, exec .damperTick s = .next (portsGo u)
          ∧ u.clk.gtc = s.clk.gtc + 1000 ∧ u.obs.ofs = s.obs.ofs + BitVec.ofInt 64 (2 * s.obs.slew)
          ∧ u.sched.embIn = 0 ∧ u.sched.embFl = 0 ∧ u.sched.embEg = 0 ∧ u.sched.embTsv = []
          ∧ u.mem = s.mem ∧ u.regs = s.regs
          ∧ (s.parts.Pairwise (fun a b => a.1 < b.1) → ∀ p, (smFind s.parts p).isSome = true →
              level (part u p) .hearth
                = min (sat48 (level (part s p) .hearth + (64 * pageF s p 0x100 0 16 : Nat))) (64 * pageF s p 0x108 0 20 : Nat)
              ∧ level (part u p) .flue
                = min (sat48 (level (part s p) .flue + (64 * pageF s p 0x100 16 16 : Nat))) (64 * pageF s p 0x108 32 20 : Nat))
          ∧ ∀ k x, curFiring s = some (k, x) → executing x = true →
              let q := (rectHobs x.f).length * 1000
              (firingOf u k).hobTime = x.hobTime + q
              ∧ (part u (x.payer.getD x.part)).chHob = ((part s (x.payer.getD x.part)).chHob + q) % 2 ^ 64)

/-- A mailbox is copied at GO, checked by the six checks in order, and its command takes its counter and is refused, busy or
carried out. Rests on spec/18_fireback.md, Authenticated commands; spec/18_fireback.md, Authenticated commands. -/
def Obligations.MailboxesAreCheckedInOrder : Prop :=
  (∀ (s : State) (rq : Requester) (n : Nat), Accepted s rq →
      let u := accessCharge s rq
      let m := mboxOf s n
      (mboxAllowed s rq n = true →
        (m.st = .idle ∨ m.st = .done → ∃ t, exec (.fbMboxGo rq n) s = .next t
          ∧ mboxOf t n = { m with
              st := .pending
              copy := (List.range 0xF0).map fun i => smGet 0 m.bytes i
              status := 0
              detail := 0
              counter := 0
              counted := false }
          ∧ (∀ j, j ≠ n → mboxOf t j = mboxOf s j) ∧ t = { u with fb := { s.fb with mbox := t.fb.mbox }, obs := t.obs })
        ∧ (m.st ≠ .idle → m.st ≠ .done → exec (.fbMboxGo rq n) s = .next { u with fb := { s.fb with
            mbox := smSet s.fb.mbox n { m with ignored := satAdd 5 m.ignored 1 } } }))
      ∧ (mboxAllowed s rq n = false → ∃ t, exec (.fbMboxGo rq n) s = .next t ∧ t.fb = s.fb ∧ t = { u with flt := t.flt }))
  ∧ (∀ s : State,
      (fbRuns s = false ∨ (∃ m ∈ s.fb.mbox, m.2.st = .evaluating) ∨ (∀ m ∈ s.fb.mbox, m.2.st ≠ .pending) →
        exec .mailboxEvaluation s = .next s)
      ∧ ∀ n, fbRuns s = true → (∀ m ∈ s.fb.mbox, m.2.st ≠ .evaluating) → mboxNext s = some n →
        let m := mboxOf s n
        let c := m.copy
        let ends (st : Nat) : Prop := ∃ t, exec .mailboxEvaluation s = .next t ∧ t.fb.ctr = s.fb.ctr
          ∧ mboxOf t n = { m with st := .done, status := st, counter := cmCounter c % 2 ^ 32, opcode := cmOpcode c }
          ∧ ∀ j, j ≠ n → mboxOf t j = mboxOf s j
        let tagged : Prop := ∃ k, (if cmSlot c = 0 then s.fb.key0 else s.fb.key1) = some k
          ∧ (c.drop 0xD0).take 16
            = (hmac (keyBytes k) (leBytes 8 Config.fusedUid.toNat ++ c.take (0x10 + leAt c 4 2))).take 16
        (m.locked = true → ends 1)
        ∧ (m.locked = false → formatGood c = false → ends 2)
        ∧ (m.locked = false → formatGood c = true →
          (cmSlot c ≠ slotFor c → ends 3)
          ∧ (cmSlot c = slotFor c → ¬ tagged → ∃ t, exec .mailboxEvaluation s = .next t ∧ (mboxOf t n).st = .done
              ∧ (mboxOf t n).status = 4 ∧ t.fb.ctr = s.fb.ctr
              ∧ (m.badTags = [] → (mboxOf t n).badTags = [s.fb.uptime] ∧ (mboxOf t n).locked = false))
          ∧ (cmSlot c = slotFor c → tagged →
            (cmCounter c ≤ s.fb.ctr → ends 5)
            ∧ (s.fb.ctr < cmCounter c → s.fb.resv < cmCounter c → ends 6)
            ∧ (s.fb.ctr < cmCounter c → cmCounter c ≤ s.fb.resv → ∃ t, exec .mailboxEvaluation s = .next t
                ∧ mboxOf t n = { m with
                    st := .evaluating
                    status := 0
                    counter := cmCounter c % 2 ^ 32
                    opcode := cmOpcode c
                    counted := true }
                ∧ t.fb.ctr = s.fb.ctr ∧ ∀ j, j ≠ n → mboxOf t j = mboxOf s j))))
  ∧ (∀ (s : State) (n : Nat), exec (.lockoutEnd n) s
      = .next { s with fb := { s.fb with mbox := smSet s.fb.mbox n { mboxOf s n with locked := false, badTags := [] } } })
  ∧ (∀ (s : State) (ok : Bool),
      (s.fb.resvWrite = none ∨ s.boot.op.isSome = true ∨ fbRuns s = false →
        exec (.counterReservationWrite ok) s = .next s)
      ∧ ∀ v, s.fb.resvWrite = some v → s.boot.op = none → fbRuns s = true →
        (ok = true → exec (.counterReservationWrite ok) s = .next { s with fb := { s.fb with
            resvPrev := s.fb.resv
            resv := v
            flResv := v
            resvWrite := none
            resvFail := false } })
        ∧ (ok = false → ∃ t, exec (.counterReservationWrite ok) s = .next t ∧ t.fb.resv = s.fb.resv
            ∧ t.fb.resvWrite = none ∧ t.fb.resvFail = true ∧ bitAt t.fb.alertCause 7 = true))
  ∧ ∀ (s : State) (n : Nat),
      ∀ c ∈ [(1, Instr.rwfWrite n), (2, .partReinit n), (3, .regionAssign n), (4, .sparePair n), (5, .tsvRetrain n),
          (6, .govLimit n), (7, .calSet n), (8, .faultClear n), (9, .recover n), (10, .testNow n), (11, .pkeySet n),
          (12, .keySet n), (13, .versionOverride n)],
        ((mboxOf s n).st ≠ .evaluating ∨ (mboxOf s n).opcode ≠ c.1 ∨ fbRuns s = false → exec c.2 s = .next s)
        ∧ (c.1 = 4 → Judged s n 4 → (payloadOf s n).length = 2 → leAt (payloadOf s n) 0 1 < s.boot.dies →
            leAt (payloadOf s n) 1 1 < 32 → (∃ m ∈ s.fb.mbox, m.2.st = .running ∧ m.2.opcode = 4) →
            exec c.2 s = .next (setMbox (ctrTake s (cmCounter (mboxOf s n).copy)) n
              { mboxOf s n with st := .done, status := 8 }))

/-- Each of the thirteen fireback commands checks its payload, and where it is good has the effect of its rule. Rests on
spec/18_fireback.md; spec/22_faults_and_recovery.md, The recovery ladder; spec/17_partitions_and_dampers.md. -/
def Obligations.FirebackCommandsAct : Prop :=
  (∀ (s : State) (n : Nat), Judged s n 1 → Lone s 1 →
      let p := payloadOf s n
      let es := rwfEntries p
      (p.length % 16 ≠ 0 → ∃ t, exec (.rwfWrite n) s = .next t ∧ (mboxOf t n).st = .done ∧ (mboxOf t n).status = 7
        ∧ (mboxOf t n).detail = 481 ∧ t.regs = s.regs)
      ∧ (p.length % 16 = 0 → p.length ≤ 192 → rwfAligned p = true → rwfRefusal s (es.foldl rwfApply s) es = none →
          (∀ e ∈ es, e.off ≠ 0x60018 ∧ e.off ≠ 0x50028 ∧ e.off ≠ 0x50010 ∧ e.off ≠ 0x50008) → ∃ t,
          exec (.rwfWrite n) s = .next t ∧ CarriedOut s t n false ∧ t.mem = s.mem
          ∧ t.regs = (es.foldl (fun u e =>
              regSet u e.off (applyFields .rwf (fieldsAt e.off) (regRd u e.off) e.mask e.val)) s).regs
          ∧ t.fb.accepted = s.fb.accepted ++ rwfReplayed es))
  ∧ (∀ (s : State) (n : Nat),
      let p := payloadOf s n
      let begins (c : Instr) (q : Nat) : Prop := ∃ t, exec c s = .next t ∧ (part t q).st = .reinit
        ∧ (part t q).reinitBy = some n ∧ (part t q).reinitStep = 1 ∧ CarriedOut s t n true
        ∧ (∀ x ∈ t.spl.picks, x.2.part ≠ q) ∧ (∀ x ∈ t.stp.ctxs, x.2.owner ≠ q) ∧ (∀ x ∈ t.fir.progs, x.owner ≠ some q)
      (Judged s n 2 → Lone s 2 →
        (p.length ≠ 2 → Refuses (.partReinit n) s n 481)
        ∧ (p.length = 2 → s.flt.halted = false → rung3Runs s = false → active s (leAt p 0 2) = false →
            Refuses (.partReinit n) s n 464)
        ∧ (p.length = 2 → s.flt.halted = false → rung3Runs s = false → active s (leAt p 0 2) = true →
            begins (.partReinit n) (leAt p 0 2)))
      ∧ (Judged s n 9 → Lone s 9 →
        (p.length ≠ 1 → p.length ≠ 3 → Refuses (.recover n) s n 481)
        ∧ (p.length = 3 → leAt p 0 1 % 128 = 2 → s.flt.halted = false → rung3Runs s = false →
            active s (leAt p 1 2) = true → begins (.recover n) (leAt p 1 2))
        ∧ ((p.length = 1 ∨ p.length = 3) → leAt p 0 1 % 128 = 3 → s.flt.halted = false → rung3Runs s = false → ∃ t,
            exec (.recover n) s = .next t ∧ t.boot.st = .stack ∧ t.boot.cold = false ∧ t.mem = s.mem ∧ t.spl = {}
            ∧ t.regions = [] ∧ t.parts = [] ∧ t.fb.ctr = cmCounter (mboxOf s n).copy ∧ t.flt.rung3 = s.flt.rung3 + 1
            ∧ t.warp.map = s.warp.map ∧ ∀ off, 0xF00000 ≤ off → off < 0x1000000 → regRd t off = regRd s off)
        ∧ ((p.length = 1 ∨ p.length = 3) → leAt p 0 1 % 128 = 4 → s.flt.halted = false → ∃ t,
            exec (.recover n) s = .next t ∧ t.flt.halted = true ∧ t.mem = [] ∧ t.sched = {} ∧ t.flt.rung4 = s.flt.rung4 + 1)))
  ∧ (∀ (s : State) (n : Nat),
      let p := payloadOf s n
      (Judged s n 3 → Lone s 3 →
        let i := leAt p 0 2
        let q := leAt p 2 2
        (p.length ≠ 4 → Refuses (.regionAssign n) s n 481)
        ∧ (p.length = 4 → rgnAt s i = none → Refuses (.regionAssign n) s n 451)
        ∧ ∀ r, p.length = 4 → rgnAt s i = some r →
          let good : Prop := r.block = false ∧ r.kind ≠ .reserved ∧ active s q = true ∧ rgnFree s i r = true
          (¬ good → Refuses (.regionAssign n) s n 451)
          ∧ (good → ∃ t, exec (.regionAssign n) s = .next t ∧ CarriedOut s t n false
              ∧ rgnAt t i = some { r with
                  init := false
                  banked := r.imgBanked
                  st := .idle
                  pick := none
                  drain := []
                  reassign := false
                  owner := q }
              ∧ (∀ j, j ≠ i → rgnAt t j = rgnAt s j)
              ∧ ∀ dp ∈ rgnPairs s r, ∀ loc, dp.1 < 16 → physPair s dp.1 dp.2 < 64 → r.first + r.count ≤ 64 → r.first * unitBytes ≤ loc → loc < (r.first + r.count) * unitBytes →
                  memGet t.mem (locAddr s dp.1 dp.2 loc) = (.poison, ⟨0, true⟩)))
      ∧ (Judged s n 4 → Lone s 4 →
        (p.length ≠ 2 → Refuses (.sparePair n) s n 481)
        ∧ (p.length = 2 → s.boot.dies ≤ leAt p 0 1 ∨ 32 ≤ leAt p 1 1 → Refuses (.sparePair n) s n 317)
        ∧ ∀ sp, p.length = 2 → leAt p 0 1 < s.boot.dies → leAt p 1 1 < 32 → s.warp.migr = none →
            findSpare s (leAt p 0 1) = some sp → ∃ t, exec (.sparePair n) s = .next t ∧ CarriedOut s t n true
              ∧ t.mem = s.mem ∧ t.warp = { s.warp with
                  migr := some {
                    die := leAt p 0 1
                    pos := leAt p 1 1
                    spare := sp
                    mark := 0
                    switching := false
                    raw := false
                    mbox := some n }
                  tilePower := smSet s.warp.tilePower (leAt p 0 1 * 34 + sp) true })
      ∧ (Judged s n 5 → Lone s 5 →
        (p.length ≠ 2 → Refuses (.tsvRetrain n) s n 481)
        ∧ (p.length = 2 → s.boot.dies ≤ leAt p 0 1 ∨ 34 ≤ leAt p 1 1 → Refuses (.tsvRetrain n) s n 293)
        ∧ (p.length = 2 → leAt p 0 1 < s.boot.dies → leAt p 1 1 < 34 → (tsvDie s (leAt p 0 1)).busy = none →
            (tsvDie s (leAt p 0 1)).spacing = false → ∃ t, exec (.tsvRetrain n) s = .next t ∧ CarriedOut s t n false
              ∧ tsvDie t (leAt p 0 1) = { tsvDie s (leAt p 0 1) with busy := some (leAt p 1 1), spacing := true }))
      ∧ (Judged s n 10 → Lone s 10 →
        (p.length ≠ 2 → Refuses (.testNow n) s n 481)
        ∧ (p.length = 2 → s.boot.dies ≤ leAt p 0 1 ∨ 34 ≤ leAt p 1 1 → Refuses (.testNow n) s n 575)
        ∧ (p.length = 2 → leAt p 0 1 < s.boot.dies → leAt p 1 1 < 34 → ∃ t, exec (.testNow n) s = .next t
            ∧ CarriedOut s t n false ∧ (leAt p 0 1 * 34 + leAt p 1 1) ∈ t.flt.scanDue)))
  ∧ ∀ (s : State) (n : Nat),
      let p := payloadOf s n
      let sets (c : Instr) (f : State → Prop) : Prop := ∃ t, exec c s = .next t ∧ CarriedOut s t n false
        ∧ t.mem = s.mem ∧ t.regs = s.regs ∧ f t
      (Judged s n 6 → Lone s 6 →
        (p.length ≠ 4 ∨ govValue (BitVec.ofNat 32 (leAt p 0 4)) = none → Refuses (.govLimit n) s n 481)
        ∧ ∀ v, p.length = 4 → govValue (BitVec.ofNat 32 (leAt p 0 4)) = some v → sets (.govLimit n) fun t => t.fb.govExt = v)
      ∧ (Judged s n 7 → Lone s 7 → s.boot.st ≠ .haltVersion →
        (p.length ≠ 8 → Refuses (.calSet n) s n 481)
        ∧ (p.length = 8 → calParse (BitVec.ofNat 64 (leAt p 0 8)) = none → ∃ t, exec (.calSet n) s = .next t
            ∧ (mboxOf t n).status = 7 ∧ (mboxOf t n).detail = 485 ∧ t.fb.calBad = true ∧ t.fb.cal = s.fb.cal)
        ∧ ∀ v, p.length = 8 → calParse (BitVec.ofNat 64 (leAt p 0 8)) = some v → sets (.calSet n) fun t =>
            t.fb.cal = v ∧ t.fb.calValid = true ∧ t.fb.calEnd = false ∧ t.fb.calBad = false)
      ∧ (Judged s n 8 → Lone s 8 →
        (p.length ≠ 8 → Refuses (.faultClear n) s n 481)
        ∧ (p.length = 8 → s.flt.fallback = false → s.flt.haltCauses < 2 ^ 32 →
            sets (.faultClear n) fun t => ∀ k, k < 32 →
              (bitAt t.fb.alertCause k = (bitAt s.fb.alertCause k && !(bitAt (leAt p 4 4) k && !(bitAt (alertStanding s) k))))
              ∧ bitAt t.fb.faultCause k = (bitAt s.fb.faultCause k && !(bitAt (leAt p 0 4) k && !(bitAt (faultStanding s) k)))))
      ∧ (Judged s n 11 → Lone s 11 →
        (p.length ≠ 18 → Refuses (.pkeySet n) s n 481)
        ∧ (p.length = 18 → 1024 ≤ leAt p 0 2 ∨ pkeyUnwrap s (p.drop 2) = none → Refuses (.pkeySet n) s n 472)
        ∧ ∀ k, p.length = 18 → leAt p 0 2 < 1024 → pkeyUnwrap s (p.drop 2) = some k → sets (.pkeySet n) fun t =>
            t.fb.pkeys = smSet s.fb.pkeys (leAt p 0 2) k)
      ∧ (Judged s n 12 → Lone s 12 →
        (p.length ≠ 41 → Refuses (.keySet n) s n 481)
        ∧ ∀ k, p.length = 41 → keyUnwrap s (leAt p 0 1) (p.drop 1) = some k →
          (leAt p 0 1 = 0 → sets (.keySet n) fun t => t.fb.key0 = some k ∧ t.fb.flKey0 = some k ∧ t.fb.key1 = s.fb.key1)
          ∧ (leAt p 0 1 = 1 → sets (.keySet n) fun t => t.fb.key1 = some k ∧ t.fb.flKey1 = some k ∧ t.fb.key0 = s.fb.key0)
          ∧ (leAt p 0 1 = 2 → sets (.keySet n) fun t => t.fb.kek = some k ∧ t.fb.flKek = some k)
          ∧ (leAt p 0 1 = 3 → sets (.keySet n) fun t => t.fb.imgDigest = some k ∧ t.fb.flDigest = some k))
      ∧ (Judged s n 13 → Lone s 13 → s.boot.st ≠ .haltVersion →
        let o := overrideOf p
        let rest := s.fb.overrides.filter fun x => !(x.fw == o.fw && x.lib == o.lib && x.release == o.release)
        (p.length ≠ 10 → Refuses (.versionOverride n) s n 481)
        ∧ (p.length = 10 → o.expiry = 0 → sets (.versionOverride n) fun t => t.fb.overrides = rest ∧ t.fb.flOverrides = rest)
        ∧ (p.length = 10 → o.expiry ≠ 0 → rest.length < 16 → sets (.versionOverride n) fun t =>
            t.fb.overrides = rest ++ [o] ∧ t.fb.flOverrides = rest ++ [o]))

/-- The governor sets its limit from the highest temperature, the calendar advances, errors of the fireback reset or halt, and
a re-initialisation ends ACTIVE. Rests on spec/18_fireback.md; spec/22_faults_and_recovery.md, The recovery ladder;
spec/17_partitions_and_dampers.md, Re-initialising a partition. -/
def Obligations.HeatTimeAndReinitialisation : Prop :=
  (∀ s : State, ∃ t, exec .calendarTick s = .next t ∧ t.fb.uptime = s.fb.uptime + 1
      ∧ (s.fb.calEnd = false → s.fb.cal < calLast → t.fb.cal = s.fb.cal + 1
          ∧ t.fb.calEnd = decide (s.fb.cal + 1 = calLast))
      ∧ (s.fb.calEnd = false → s.fb.cal = calLast → t.fb.cal = calLast ∧ t.fb.calEnd = true)
      ∧ (s.fb.calEnd = true → t.fb.cal = s.fb.cal) ∧ t = { s with fb := t.fb, flt := t.flt })
  ∧ (∀ s : State,
      let deg (lo : Nat) : Int := (16 * regF s 0xF00030 lo 7 : Nat)
      let T := govTemp (sensorsAge s)
      let g := s.fb.gov
      let ext := if s.fb.govExt = 0 then 280 else min 280 s.fb.govExt
      (fbRuns s = false → exec .governorStep s = .next s ∧ exec .thermalHoldEnd s = .next s ∧ exec .firebackSramUe s = .next s)
      ∧ (fbRuns s = true →
        (s.fb.hold = false → ∃ t, exec .governorStep s = .next t ∧ t.fb.temp = T ∧ t.mem = s.mem ∧ t.regs = s.regs
          ∧ t.fb.gov = (if deg 40 ≤ T then 0 else if deg 32 ≤ T then 40 else if deg 24 ≤ T then max (g - 4) 40
              else if deg 16 ≤ T then min g ext else if T ≤ deg 24 - 48 then min (g + 1) ext else min g ext)
          ∧ (t.fb.hold = true ↔ deg 40 ≤ T) ∧ (deg 40 ≤ T → bitAt t.fb.faultCause 4 = true)
          ∧ (T < deg 40 → deg 32 ≤ T → bitAt t.fb.faultCause 3 = true)
          ∧ (T < deg 32 → T < deg 40 → deg 16 ≤ T → bitAt t.fb.alertCause 5 = true)
          ∧ (t.fb.gov < g → t.sched.noBallast = true)
          ∧ ∀ d, d < s.boot.dies → (tsvDie t d).tsAge = min 100 ((tsvDie s d).tsAge + 1))
        ∧ (s.fb.hold = true → s.fb.holdSteps + 1 < 100000 * regF s 0xF10080 32 10 → ∃ t, exec .governorStep s = .next t
          ∧ t.fb.gov = g ∧ t.fb.hold = true ∧ t.fb.temp = T ∧ t.mem = s.mem)
        ∧ (s.fb.hold = true → s.fb.inCrit = false → ∃ t, exec .thermalHoldEnd s = .next t ∧ t.fb.hold = false
          ∧ t.fb.gov = 40 ∧ t.mem = s.mem)
        ∧ (s.fb.hold = false ∨ s.fb.inCrit = true → exec .thermalHoldEnd s = .next s)
        ∧ (s.flt.halted = false → rung3Runs s = false → (recentResets s).length < regF s 0xF10080 8 4 → ∃ t,
            exec .firebackSramUe s = .next t ∧ t.boot.st = .stack ∧ t.mem = s.mem ∧ t.spl = {} ∧ t.regions = []
            ∧ bitAt t.fb.faultCause 2 = true
            ∧ ∀ n, (mboxOf s n).st = .evaluating ∨ (mboxOf s n).st = .running →
                (mboxOf t n).st = .done ∧ (mboxOf t n).status = 9)))
  ∧ (∀ s : State, (s.fb.lockstep = true → exec .lockstepMismatch s = .next s)
      ∧ (s.fb.lockstep = false → s.flt.halted = false → ∃ t, exec .lockstepMismatch s = .next t ∧ t.fb.lockstep = true
          ∧ t.flt.halted = true ∧ t.mem = [] ∧ bitAt t.fb.faultCause 8 = true ∧ faultNLow t = true))
  ∧ ∀ (s : State) (p : Nat),
      let x := part s p
      (x.st ≠ .reinit ∨ x.reinitStep ≠ 1 ∨ unsettled s p = true → exec (.reinitRequestsSettled p) s = .next s)
      ∧ (x.st = .reinit → x.reinitStep = 1 → unsettled s p = false → ∃ t, exec (.reinitRequestsSettled p) s = .next t
          ∧ part t p = { x with reinitStep := 2, reinitWait := [], lvlHob := (pageF s p 0x110 0 32 : Nat) }
          ∧ (∀ q, q ≠ p → part t q = part s q) ∧ t = { s with parts := t.parts, fir := t.fir, obs := t.obs }
          ∧ (∀ n, n < s.fir.next → smFind t.fir.all n = smFind s.fir.all n)
          ∧ (∀ i r, (i, r) ∈ s.regions → r.owner = p → r.block = false → ∃ n y, s.fir.next ≤ n ∧ smFind t.fir.all n = some y
              ∧ y.fill = true ∧ y.part = p ∧ y.cls = 3 ∧ y.st = .queued ∧ y.pick = none ∧ y.f.prog = 0xF0
              ∧ (opWord y.f 0).rgn = i ∧ y.f.c0 = r.c0 ∧ y.f.c1 = r.c1 ∧ y.f.r0 = r.r0 ∧ y.f.r1 = r.r1))
      ∧ (x.st ≠ .reinit ∨ x.reinitStep ≠ 2 ∨ fillRuns s p = true → exec (.reinitFillDone p) s = .next s)
      ∧ (x.st = .reinit → x.reinitStep = 2 → fillRuns s p = false → ∃ t, exec (.reinitFillDone p) s = .next t
          ∧ (part t p).st = .active ∧ (part t p).lvlHearth = (64 * pageF s p 0x108 0 20 : Nat)
          ∧ (part t p).lvlFlue = (64 * pageF s p 0x108 32 20 : Nat) ∧ (part t p).lvlHob = x.lvlHob
          ∧ (part t p).refused = [] ∧ (part t p).strayPage = 0 ∧ (part t p).strayDb = 0 ∧ (part t p).reinitBy = none
          ∧ (part t p).alert = 64 ∧ (part t p).chHob = x.chHob ∧ (part t p).chHearth = x.chHearth
          ∧ (∀ q, q ≠ p → part t q = part s q)
          ∧ (∀ q, p ≠ q → p < 1024 → q < 1024 → regRd t (pageBase q + 0x200) = regRd s (pageBase q + 0x200))
          ∧ (∀ i r, s.regions.Pairwise (fun a b => a.1 < b.1) → rgnAt s i = some r → r.owner = p → r.block = false →
              rgnAt t i = some { r with
                init := false
                banked := r.imgBanked
                st := .idle
                pick := none
                drain := []
                reassign := false }
              ∧ ∀ dp ∈ rgnPairs s r, ∀ loc, dp.1 < 16 → physPair s dp.1 dp.2 < 64 → r.first + r.count ≤ 64 →
                  r.first * unitBytes ≤ loc → loc < (r.first + r.count) * unitBytes →
                  memGet t.mem (locAddr s dp.1 dp.2 loc) = (.poison, ⟨0, true⟩))
          ∧ (∀ n, x.reinitBy = some n → (mboxOf s n).st = .running →
              (mboxOf t n).st = .done ∧ (mboxOf t n).status = 0))

/-- REFCLK is judged in windows, the root PLL coasts on the events of R497, and FOSC is trimmed toward its reference. Rests on
spec/19_clocks_and_power.md, Coasting; spec/19_clocks_and_power.md, Judging the sources. -/
def Obligations.ClocksAreJudgedAndCoast : Prop :=
  ∀ s : State,
    let k := s.clk
    let sel := regF s 0x50010 0 2
    let follows (t : State) : Prop := t.clk.refActive = (if sel = 0 then (if t.clk.refReady then 1 else if s.ports.markLost then 3 else 2)
      else if sel = 1 then 1 else if sel = 2 then 2 else 3)
    exec .rootRelockAttempt s = .next s
    ∧ (monRuns s = false → exec .refclkMissing s = .next s ∧ exec .rootPllUnlock s = .next s ∧ exec .rootPllLock s = .next s
        ∧ ∀ n g, exec (.refclkWindow n g) s = .next s ∧ exec (.foscTrimWindow n) s = .next s)
    ∧ (monRuns s = true → ∀ (n : Nat) (gap : Bool),
        let d := ((n : Int) - 4096).natAbs
        let good : Bool := (if k.trimmed then d ≤ 4 else d ≤ 163) && !gap
        (good = true → ∃ t, exec (.refclkWindow n gap) s = .next t ∧ follows t
          ∧ t.clk = { k with
              goodWin := min 16 (k.goodWin + 1)
              badWin := 0
              refReady := (k.refReady || decide (15 ≤ k.goodWin))
              refActive := t.clk.refActive }
          ∧ t = { s with clk := t.clk })
        ∧ (good = false → d ≤ 163 ∨ k.rootReady = false ∨ k.foscFault = true →
            (k.badWin ≠ 1 → ∃ t, exec (.refclkWindow n gap) s = .next t ∧ follows t
              ∧ t.clk = { k with
                  goodWin := 0
                  badWin := k.badWin + 1
                  refReady := false
                  refActive := t.clk.refActive }
              ∧ t = { s with clk := t.clk })
            ∧ (k.badWin = 1 → k.rootReady = true → ∃ t, exec (.refclkWindow n gap) s = .next t ∧ Coasts s t
                ∧ t.clk.refReady = false ∧ t.clk.badWin = 2 ∧ t.clk.goodWin = 0 ∧ follows t))
        ∧ (163 < d → k.rootReady = true → k.foscFault = false → s.ports.markLost = true → ∃ t,
            exec (.refclkWindow n gap) s = .next t ∧ t.clk.foscFault = true ∧ t.clk.refReady = false ∧ t.clk.badWin = 0
            ∧ t.clk.rootReady = true ∧ (k.coast = false → t.clk.fbMclk = true)
            ∧ (fbRuns s = true → bitAt t.fb.faultCause 5 = true) ∧ t.mem = s.mem ∧ t.ports = s.ports))
    ∧ (monRuns s = true →
        (k.rootReady = true → ∃ t, exec .refclkMissing s = .next t ∧ Coasts s t ∧ t.clk.refReady = false ∧ follows t)
        ∧ (k.rootReady = true → k.refReady = true → ∃ t, exec .rootPllUnlock s = .next t ∧ Coasts s t ∧ t.clk.refReady = true)
        ∧ (k.refReady = false ∨ k.rootReady = false ∧ k.coast = true → exec .rootPllUnlock s = .next s)
        ∧ (k.refReady = false ∨ k.rootReady = true → exec .rootPllLock s = .next s)
        ∧ (k.refReady = true → k.rootReady = false → ∃ t, exec .rootPllLock s = .next t
          ∧ t.clk = { k with
              rootReady := true
              coast := false
              hpLock := true
              flLock := true }
          ∧ (k.coast = false → t.ports = s.ports)
          ∧ (k.coast = true → ∀ fl m, m < 16 → (modOf t fl m).st =
              if (modOf s fl m).st = .down ∨ (modOf s fl m).st = .failed then (if s.boot.st = .service then .train else .down)
              else (modOf s fl m).st)
          ∧ t = { s with
              clk := t.clk
              ports := t.ports
              obs := t.obs
              boot := { s.boot with st := if s.boot.st = .clocks ∧ s.fb.ready = true ∧ k.testMode = false ∧ s.flt.halted = false
                                          then .stack else s.boot.st } }))
    ∧ (∀ fl : Bool,
        let lock : Bool := if fl then k.flLock else k.hpLock
        (lock = false → exec (.portPllUnlock fl) s = .next s)
        ∧ (lock = true → ∃ t, exec (.portPllUnlock fl) s = .next t ∧ Retrained s t fl
          ∧ (fbRuns s = true → bitAt t.fb.faultCause 5 = true) ∧ t.mem = s.mem ∧ t.fir = s.fir ∧ t.boot = s.boot
          ∧ (∀ m, modOf t (!fl) m = modOf s (!fl) m)
          ∧ t.clk = { k with
              flLock := (k.flLock && !fl)
              hpLock := (k.hpLock && fl) }))
    ∧ ∀ n : Nat,
        (k.refActive = 3 → exec (.foscTrimWindow n) s = .next s)
        ∧ (monRuns s = true → k.refActive ≠ 3 →
          let cs := (k.counts ++ [n]).drop (k.counts.length + 1 - 16)
          ∃ t, exec (.foscTrimWindow n) s = .next t
            ∧ t.clk = { k with
                counts := cs
                ratio := cs.sum * 65536 / cs.length % 2 ^ 32
                trimmed := true
                trim := t.clk.trim }
            ∧ (k.trimmed = true → t.clk.trim = if n < 50000 then min 511 (k.trim + 1) else if 50000 < n then k.trim - 1 else k.trim)
            ∧ (k.trimmed = false → t.clk.trim < 512)
            ∧ t = { s with
                clk := t.clk
                freeCtr := t.freeCtr })

/-- A cold reset leaves only what the flash persists, a supply that falls has its effect, and the power states follow their
table. Rests on spec/19_clocks_and_power.md, Resets; spec/19_clocks_and_power.md, Power states; spec/18_fireback.md, What
the fireback owns and how it is fenced. -/
def Obligations.SuppliesResetsAndPowerStates : Prop :=
  ∀ s : State,
    let k := s.clk
    let boots : BootSt := if s.boot.st = .clocks ∧ s.flt.halted = false then .stack else s.boot.st
    (∀ a tm, ∃ t, exec (.coldReset true a tm) s = .next t ∧ ColdAfter s t ∧ t.clk.coldLow = true ∧ PinsIdle t)
    ∧ (∀ a tm, (k.coldLow = false → exec (.coldReset false a tm) s = .next s)
        ∧ (k.coldLow = true → exec (.coldReset false a tm) s = .next { s with clk := { k with
            coldLow := false
            mgAddr := a % 8
            testMode := tm } }))
    ∧ (∃ t, exec (.powerGoodFall .fb) s = .next t ∧ ColdAfter s t ∧ t.clk.pgFb = false ∧ t.clk.pgBase = k.pgBase
        ∧ PinsIdle t)
    ∧ (∃ t, exec (.powerGoodFall .base) s = .next t ∧ ColdAfter s t ∧ t.clk.pgBase = false ∧ t.clk.pgFb = k.pgFb
        ∧ PinsIdle t)
    ∧ (k.pgIo = false → exec (.powerGoodFall .io) s = .next s)
    ∧ (k.pgIo = true → ∃ t, exec (.powerGoodFall .io) s = .next t ∧ t.clk.pgIo = false
        ∧ (∀ fl m, m < 16 → (modOf t fl m).st = .down) ∧ (fbRuns s = true → bitAt t.fb.faultCause 5 = true))
    ∧ (∀ d, (bitAt k.pgTile d = false → exec (.powerGoodFall (.tile d)) s = .next s)
        ∧ (bitAt k.pgTile d = true → s.boot.dies ≤ d → exec (.powerGoodFall (.tile d)) s = .next { s with clk := { k with
            pgTile := k.pgTile - 2 ^ d
            fellTile := k.fellTile ||| 2 ^ d } })
        ∧ (bitAt k.pgTile d = true → d < s.boot.dies → fbRuns s = true → s.flt.halted = false → rung3Runs s = false →
            (recentResets s).length < regF s 0xF10080 8 4 → ∃ t, exec (.powerGoodFall (.tile d)) s = .next t
              ∧ t.boot.st = .stack ∧ t.boot.cold = false ∧ t.mem = s.mem ∧ t.spl = {} ∧ t.regions = []
              ∧ t.clk.pgTile = k.pgTile - 2 ^ d ∧ bitAt t.clk.fellTile d = true ∧ bitAt t.fb.faultCause 5 = true
              ∧ t.flt.rung3 = s.flt.rung3 + 1))
    ∧ exec (.powerGoodRise .fb) s = .next { s with clk := { k with pgFb := true } }
    ∧ exec (.powerGoodRise .base) s = .next { s with
        clk := { k with pgBase := true }
        boot := { s.boot with st := if k.rootReady = true ∧ s.fb.ready = true ∧ k.testMode = false then boots else s.boot.st } }
    ∧ (k.pgIo = true → exec (.powerGoodRise .io) s = .next s)
    ∧ (k.pgIo = false → s.boot.st = .service → ∃ t, exec (.powerGoodRise .io) s = .next t
        ∧ t.clk = { k with pgIo := true } ∧ t.mem = s.mem
        ∧ ∀ fl m, m < 16 → (modOf t fl m).st =
            if (modOf s fl m).st = .down ∨ (modOf s fl m).st = .failed then .train else (modOf s fl m).st)
    ∧ (∀ d, d < 16 → exec (.powerGoodRise (.tile d)) s = .next (if bitAt k.pgTile d then s
        else { s with clk := { k with pgTile := k.pgTile + 2 ^ d } }))
    ∧ (monRuns s = false ∨ s.fb.ready = true ∨ s.fb.lockstep = true → exec .selfCheckPassed s = .next s)
    ∧ (monRuns s = true → s.fb.ready = false → s.fb.lockstep = false → ∃ t, exec .selfCheckPassed s = .next t
        ∧ t.fb.ready = true ∧ t.fb.ctr = s.fb.flResv ∧ t.fb.resv = s.fb.flResv ∧ t.fb.key0 = s.fb.flKey0 ∧ t.fb.key1 = s.fb.flKey1
        ∧ t.fb.kek = s.fb.flKek ∧ t.fb.overrides = s.fb.flOverrides ∧ t.fb.secFloor = s.fb.flFloor
        ∧ t.fb.coldBoots = (s.fb.flBoots + 1) % 2 ^ 32 ∧ t.fb.flBoots = (s.fb.flBoots + 1) % 2 ^ 32
        ∧ t.flt.pairs = s.flt.histPairs ∧ t.flt.tiles = s.flt.histTiles
        ∧ t.boot = { s.boot with st := if k.rootReady = true ∧ k.testMode = false then boots else s.boot.st }
        ∧ (s.boot.flashOk = false → s.flt.fallback = false → t.flt.fallback = true ∧ bitAt t.fb.faultCause 6 = true)
        ∧ (s.boot.flashOk = true → t = { s with
            fb := t.fb
            flt := t.flt
            boot := t.boot }))
    ∧ exec .retainRequest s = .next { regSetF s 0x50028 0 1 1 with clk := { k with
        pst := if k.pst = .service then .retainEntry else k.pst
        reqLater := (k.reqLater || decide (k.pst = .retainExit)) } }
    ∧ exec .serviceRequest s = .next { regSetF s 0x50028 0 1 0 with clk := { k with
        pst := match k.pst with
          | .retainEntry => .service
          | .retain => .retainExit
          | a => a
        reqLater := (k.reqLater && decide (k.pst ≠ .retainExit)) } }
    ∧ (k.pst ≠ .retainEntry → exec .retainEnter s = .next s ∧ exec .retainEntryTimeout s = .next s)
    ∧ (k.pst = .retainEntry → exec .retainEntryTimeout s = .next { regSetF s 0x50028 0 1 0 with clk := { k with
        pst := .service
        psRefused := true } })
    ∧ (k.pst = .retainEntry → retainOk s = false → exec .retainEnter s = .next s)
    ∧ (k.pst = .retainEntry → retainOk s = true → ∃ t, exec .retainEnter s = .next t ∧ t.clk = { k with pst := .retain }
        ∧ t.fir.all = s.fir.all ∧ t.fir.progs = s.fir.progs
        ∧ (∀ n, (hobOf t n).ce = (hobOf s n).ce ∧ (hobOf t n).halts = (hobOf s n).halts ∧ (hobOf t n).firings = (hobOf s n).firings)
        ∧ t = { s with
            clk := t.clk
            fir := t.fir
            freeCtr := t.freeCtr })
    ∧ (k.pst ≠ .retainExit → exec .tilesReady s = .next s)
    ∧ (k.pst = .retainExit → ∃ u, exec .tilesReady s = .next (portsGo u) ∧ u.sched.lastP = 0 ∧ u.sched.energy = 0
        ∧ u.sched.draught = regRd s 0x30060 ∧ u.sched.ramp = regRd s 0x30068 ∧ u.mem = s.mem ∧ u.fir = s.fir
        ∧ u.clk = { k with
            pst := if k.reqLater then .retainEntry else .service
            reqLater := false })

/-- Each boot state ends as R523 says: the stack, the flash probe, the candidate's checks, the load, the arrays and the
tables. Rests on spec/20_boot_and_firmware.md, From reset to service; spec/20_boot_and_firmware.md, Slots;
spec/20_boot_and_firmware.md, The hearth image. -/
def Obligations.BootGoesThroughItsStates : Prop :=
  ∀ s : State,
    let b := s.boot
    let x := b.trying
    let h := b.signed
    (b.st ≠ .stack ∨ s.flt.halted = true → ∀ a rel ok, exec (.stackTrained a rel ok) s = .next s)
    ∧ (b.st = .stack → s.flt.halted = false → ∀ (a : Nat) (rel : List (Nat × Nat)) (ok : Bool), (b.hubScan = true → ok = true) →
        (∀ n ∈ ([8, 12, 16] : List Nat), a = 2 ^ n - 1 → (∀ d, d < n → bitAt s.clk.pgTile d = true) → (∀ e ∈ rel, e.2 = 0x201) →
          exec (.stackTrained a rel ok) s = .next { s with
            boot := { b with
              st := .flash
              dies := n
              hubScan := false }
            warp := { s.warp with map := if b.cold then s.warp.mapFlash else s.warp.map } })
        ∧ ((∀ n ∈ ([8, 12, 16] : List Nat), a = 2 ^ n - 1 → (∃ d, d < n ∧ bitAt s.clk.pgTile d = false) ∨ ∃ e ∈ rel, e.2 ≠ 0x201) →
          ∃ t, exec (.stackTrained a rel ok) s = .next t ∧ t.boot.st = .haltStack ∧ t.mem = s.mem
            ∧ (b.hubScan = false ∨ (∃ e ∈ rel, e.2 ≠ 0x201) → BootTells s t 0x0401 1)
            ∧ (b.hubScan = true → (∀ e ∈ rel, e.2 = 0x201) → bitAt t.fb.faultCause 7 = true)))
    ∧ (b.st = .stack → s.flt.halted = false → b.hubScan = true → ∀ a rel, ∃ t, exec (.stackTrained a rel false) s = .next t
        ∧ t.flt.halted = true ∧ t.mem = [] ∧ bitAt t.fb.faultCause 7 = true)
    ∧ (b.st ≠ .flash → ∀ ok, exec (.flashProbe ok) s = .next s)
    ∧ (b.st = .flash →
        let d := dirLatest s
        let open_ (y : Bool) : Bool := !(if y then b.failedB else b.failedA)
          && (slotSt d y == .valid || (slotSt d y == .trial && !slotAtt d y))
        let worn (t : State) (y : Bool) : Prop := (if y then b.failedB else b.failedA) = false → slotSt d y = .trial →
          slotAtt d y = true → slotSt (dirLatest t) y = .bad
        (open_ d.prefB = true → exec (.flashProbe true) s = .next { s with boot := { b with
            flashOk := true
            st := .read
            trying := d.prefB
            signed := [] } })
        ∧ (open_ d.prefB = false → open_ (!d.prefB) = true → ∃ t, exec (.flashProbe true) s = .next t ∧ t.boot.st = .read
            ∧ t.boot.trying = (!d.prefB) ∧ worn t d.prefB ∧ t = { s with boot := t.boot })
        ∧ (open_ d.prefB = false → open_ (!d.prefB) = false → ∃ t, exec (.flashProbe true) s = .next t
            ∧ t.boot.st = .haltImage ∧ worn t d.prefB ∧ worn t (!d.prefB) ∧ BootTells s t 0x0401 1 ∧ t.mem = s.mem)
        ∧ ∃ t, exec (.flashProbe false) s = .next t ∧ t.boot.st = .haltFlash ∧ t.boot.flashOk = false
            ∧ BootTells s t 0x0401 1 ∧ t.mem = s.mem)
    ∧ exec .signedPartRead s = .next (if b.st = .read then { s with boot := { b with
        st := .check
        signed := slotBytes s x 0 (max 0x300 (min 0x2800000 (leAt (slotBytes s x 0x10 4) 0 4))) } } else s)
    ∧ (b.st ≠ .check → ∀ img, exec (.imageChecks img) s = .next s)
    ∧ (b.st = .check → ∀ img : ImageIn,
        let ov := overrideFor s 0x201 img.fw.version img.lib.version
        let fails (r : Nat) : Prop := ∃ t, exec (.imageChecks img) s = .next t ∧ SlotFails s t r
        (signedOk s h img.sigOk = false → fails 517)
        ∧ (signedOk s h img.sigOk = true → (formatOk s h = false → fails 515)
          ∧ (formatOk s h = true → ((img.fw.sigOk && img.lib.sigOk) = false → fails 528)
            ∧ (img.fw.sigOk = true → img.lib.sigOk = true →
              (tripleTested img.fw img.lib = false → ov = none → ∃ t, exec (.imageChecks img) s = .next t ∧ LeftSlot s t x
                ∧ t.boot.refusal = 532 ∧ t.boot.verRefused = true ∧ slotSt (dirLatest t) x = slotSt (dirLatest s) x
                ∧ BootTells s t 0x0402 2)
              ∧ (tripleTested img.fw img.lib = true ∨ ov ≠ none →
                (∀ r, cfgRefusal b.dies img.cfg = some r → fails r)
                ∧ (cfgRefusal b.dies img.cfg = none → (leAt h 0x24 2 ≠ b.dies → fails 37)
                  ∧ (leAt h 0x24 2 = b.dies → ∃ t, exec (.imageChecks img) s = .next t ∧ t.boot = { b with
                        st := .load
                        img := img
                        overridden := (b.overridden || !(tripleTested img.fw img.lib)) }
                      ∧ (tripleTested img.fw img.lib = true → t.flt = s.flt)
                      ∧ (tripleTested img.fw img.lib = false → BootTells s t 0x0403 0)
                      ∧ t = { s with
                          boot := t.boot
                          flt := t.flt })))))))
    ∧ (b.st ≠ .load → exec .stokersReady s = .next s ∧ exec .stokerLoadTimeout s = .next s)
    ∧ (b.st = .load → (∃ t, exec .stokerLoadTimeout s = .next t ∧ SlotFails s t 523)
        ∧ (b.img.fw.fits = false → ∃ t, exec .stokersReady s = .next t ∧ SlotFails s t 527)
        ∧ (b.img.fw.fits = true → ∃ t, exec .stokersReady s = .next t ∧ t.boot.st = .arrays ∧ t.boot.slotB = x
            ∧ t.boot.fallback = (x != (dirLatest s).prefB) ∧ t.boot.imageId = BitVec.ofNat 64 (leAt h 0x18 8)
            ∧ t.boot.fwVer = b.img.fw.version ∧ t.boot.libVer = b.img.lib.version ∧ t.boot.cfg = b.img.cfg
            ∧ t.fb.secFloor = max s.fb.secFloor (leAt h 0x0C 4) ∧ t.fb.flFloor = t.fb.secFloor
            ∧ t.boot.secFloorReg = t.fb.secFloor
            ∧ (slotSt (dirLatest s) x = .trial → slotAtt (dirLatest t) x = true)
            ∧ (slotSt (dirLatest s) x ≠ .trial → t.boot.opQ = b.opQ)
            ∧ t = { s with
                boot := t.boot
                fb := t.fb }))
    ∧ (b.st ≠ .arrays → exec .arrayInitDone s = .next s)
    ∧ (b.st = .arrays → ∃ t, exec .arrayInitDone s = .next t ∧ t.boot = { b with st := .tables }
        ∧ (b.cold = true → t.mem = [])
        ∧ ((b.cfg.regions.map fun e => e.1).Nodup → ∀ e ∈ b.cfg.regions,
            (b.cold = true → rgnAt t e.1 = some (rgnOfImg b.dies e.2))
            ∧ ∀ o, b.cold = false → smFind b.prevRegions e.1 = some o → rgnFell s (rgnOfImg b.dies e.2) = false →
                rgnFresh o = rgnOfImg b.dies e.2 →
                rgnAt t e.1 = some { rgnOfImg b.dies e.2 with
                  banked := o.banked
                  init := o.init }
                ∧ ∀ a, keyInRgns s [rgnOfImg b.dies e.2] a = true → smFind t.mem a = smFind s.mem a)
        ∧ (∀ a, (∀ e ∈ b.cfg.regions, (rgnBoot s e.1 e.2).2 = true → keyInRgns s [(rgnBoot s e.1 e.2).1] a = false) →
            smFind t.mem a = none)
        ∧ t = { s with
            boot := t.boot
            mem := t.mem
            rmem := []
            warp := { s.warp with tilePower := mapPower s.warp.map }
            regions := t.regions })
    ∧ (b.st ≠ .tables ∨ (∃ d, d < b.dies ∧ bitAt s.clk.pgTile d = false) → exec .tablesLoaded s = .next s)
    ∧ (b.st = .tables → (∀ d, d < b.dies → bitAt s.clk.pgTile d = true) → (∀ d q, (pairAt s d q).q = []) → ∃ t, exec .tablesLoaded s = .next t
        ∧ t.boot.st = .service ∧ t.boot.prevRegions = [] ∧ t.clk.fellTile = 0 ∧ t.mem = s.mem ∧ t.regions = s.regions
        ∧ t.sched.lastP = 0 ∧ t.fir.slots = b.cfg.slots
        ∧ (t.fir.progs.map fun y => (y.id, y.len, y.owner))
            = ((imageProgs b.img).take 1024).map (fun y => (y.id, y.code.length, y.owner))
        ∧ t.ports.peerId = b.cfg.peerId
        ∧ t.staging = { general := b.cfg.general, soot := b.cfg.soot, tpose := b.cfg.tpose, sampler := b.cfg.sampler,
                        norm := b.cfg.norm }
        ∧ (∀ fl m, m < 16 → (modOf s fl m).st = .down → (modOf t fl m).st = .train)
        ∧ ((b.cfg.parts.map fun y => y.p).Nodup → ∀ y ∈ b.cfg.parts, (part t y.p).st = .active)
        ∧ (s.fb.accepted = [] → (∀ e ∈ cfgWords b.cfg, regRd t e.1 = e.2)
          ∧ ((b.cfg.parts.map fun y => y.p).Nodup → ∀ y ∈ b.cfg.parts, ∀ e ∈ partWords y, regRd t e.1 = e.2)))

/-- A slot is written by the armed writer alone, one operation at a time, and the library is replaced whole at one edge.
Rests on spec/20_boot_and_firmware.md, The boot flash; spec/20_boot_and_firmware.md, Live update of the firing library;
spec/20_boot_and_firmware.md, Slots. -/
def Obligations.FlashSlotsAndTheLibrary : Prop :=
  (∀ (s : State) (rq : Requester), Accepted s rq →
      let u := accessCharge s rq
      let x := regF u 0x60020 1 1 == 1
      let may : Prop := regF u 0x60020 0 1 = 1
        ∧ (rq = .mgmt ∨ regF u 0x60020 2 1 = 0 ∧ rqPart rq = some (regF u 0x60020 12 10))
        ∧ (u.boot.st = .service → x ≠ u.boot.slotB ∧ u.boot.libOther = false)
      let busy : Boot := { u.boot with flSt := 1 }
      let src := regF u 0x60030 0 48
      let fits (off : Nat) : Prop := src % 64 = 0 ∧ stgWin ≤ src ∧ (off + 1) * 0x10000 ≤ (dirOf u).slotSize
        ∧ (rq = .mgmt → src - stgWin + 0x10000 ≤ stgSootBase u.staging)
        ∧ ∀ p, rqPart rq = some p → inGrant u p (src - stgWin) 0x10000 = true
      (u.boot.flSt = 1 → exec (.erase rq) s = .next u ∧ exec (.markTrial rq) s = .next u ∧ ∀ off, exec (.program rq off) s = .next u)
      ∧ (u.boot.flSt ≠ 1 →
        let no (n : Nat) : State := { u with boot := { u.boot with
          flSt := 3
          flCmd := n } }
        (¬may → exec (.erase rq) s = .next (no 1) ∧ exec (.markTrial rq) s = .next (no 3))
        ∧ (∀ off, ¬may ∨ ¬fits off → exec (.program rq off) s = .next (no 2))
        ∧ (may → exec (.erase rq) s = .next { u with boot := { busy with
              flCmd := 1
              opQ := u.boot.opQ ++ [.erase x] } }
          ∧ (∀ off, fits off → exec (.program rq off) s = .next { u with boot := { busy with
              flCmd := 2
              opQ := u.boot.opQ ++ [.program x (off * 0x10000) (stgBytes u.staging (src - stgWin) 0x10000)] } })
          ∧ exec (.markTrial rq) s = .next { regSetF u 0x60020 0 1 0 with boot := { busy with
              flCmd := 3
              opQ := u.boot.opQ ++ [.dirWrite { setSlotAtt (setSlotSt (dirLatest u) x .trial) x false with
                prefB := x
                good := true
                seq := ((dirLatest u).seq + 1) % 2 ^ 32 }] } })))
  ∧ (∀ s : State, exec .flashArmExpires s = .next (regSetF s 0x60020 0 1 0)
      ∧ (flashFirst s = none → ∀ ok, exec (.flashOperationDone ok) s = .next s)
      ∧ (∀ o, s.boot.op = some o →
          let b := s.boot
          let begun (t : State) : Prop := t.boot.op = b.opQ.head? ∧ t.boot.opQ = b.opQ.tail ∧ t.mem = s.mem ∧ t.regs = s.regs
          (o ≠ .histWrite → ∃ t, exec (.flashOperationDone false) s = .next t ∧ begun t ∧ t.boot.slotAData = b.slotAData
            ∧ t.boot.slotBData = b.slotBData ∧ t.boot.dir0 = b.dir0 ∧ t.boot.dir1 = b.dir1
            ∧ t.boot.flSt = if b.flSt = 1 then 4 else b.flSt)
          ∧ (∀ x, o = .erase x → ∃ t, exec (.flashOperationDone true) s = .next t ∧ begun t ∧ slotData t.boot x = []
            ∧ slotData t.boot (!x) = slotData b (!x) ∧ t.boot.flSt = 2
            ∧ t.boot.st = if b.st = .haltImage ∨ b.st = .haltFlash then .flash else b.st)
          ∧ (∀ x at_ ds, o = .program x at_ ds → ∃ t, exec (.flashOperationDone true) s = .next t ∧ begun t
            ∧ slotData t.boot (!x) = slotData b (!x) ∧ t.boot.flSt = 2
            ∧ ∀ i, cellGet flashDefault (slotData t.boot x) i =
                if at_ ≤ i ∧ i < at_ + ds.length then cellGet flashDefault (slotData b x) i &&& byteAt ds (i - at_)
                else cellGet flashDefault (slotData b x) i)
          ∧ (∀ d, o = .dirWrite d → ∃ t, exec (.flashOperationDone true) s = .next t ∧ begun t
            ∧ t.boot.slotAData = b.slotAData ∧ t.boot.slotBData = b.slotBData
            ∧ (t.boot.dir0, t.boot.dir1) = (if b.dir0.good = true ∧ (b.dir1.good = false ∨ b.dir1.seq ≤ b.dir0.seq)
                then (b.dir0, d) else (d, b.dir1)) ∧ t.boot.flSt = if b.flSt = 1 ∧ b.flCmd = 3 then 2 else b.flSt))
      ∧ (s.boot.op = none → s.flt.histDue = true → s.flt.fallback = false →
          (∃ t, exec (.flashOperationDone true) s = .next t ∧ t.flt.histPairs = s.flt.pairs ∧ t.flt.histTiles = s.flt.tiles
            ∧ t.flt.histDue = false ∧ t.warp.mapFlash = s.warp.map ∧ t.mem = s.mem)
          ∧ ∃ t, exec (.flashOperationDone false) s = .next t ∧ t.flt.fallback = true ∧ t.flt.histDue = false
            ∧ bitAt t.fb.faultCause 6 = true ∧ t.warp = s.warp ∧ t.mem = s.mem))
  ∧ ∀ s : State,
      let b := s.boot
      let d := dirLatest s
      let writes (t : State) (e : FlashDir) : State := { t with boot := { b with opQ := b.opQ ++ [.dirWrite { e with
        good := true
        seq := (d.seq + 1) % 2 ^ 32 }] } }
      exec .confirm s = .next (if b.st = .service ∧ slotSt d b.slotB = .trial
        then writes s (setSlotAtt (setSlotSt d b.slotB .valid) b.slotB false) else s)
      ∧ (∀ x, exec (.nextSlot x) s = .next (if slotSt d x = .valid ∨ slotSt d x = .trial
        then writes (regSetF s 0x60018 8 1 (b2n x)) { d with prefB := x } else s))
      ∧ exec .libLoad s = .next (if b.st = .service ∧ b.libLoad ≠ 1 then { s with boot := { b with
        libLoad := 1
        libFail := 0 } } else s)
      ∧ (b.libLoad ≠ 1 → ∀ img, exec (.libLoadEdge img) s = .next s)
      ∧ (b.libLoad = 1 → ∀ img : ImageIn,
          let h := slotBytes s (!b.slotB) 0 0x300
          let ok1 : Bool := formatOk s h && signedOk s h img.sigOk && img.fw.sigOk && img.lib.sigOk
          let ok3 : Bool := tripleTested img.fw img.lib || (overrideFor s 0x201 img.fw.version img.lib.version).isSome
          let ok4 : Bool := (imageProgs img).length + (runProgs s).length ≤ 1024
          let ok5 : Bool := (s.str.twins.all fun kv => kv.2.st == .unpaired) || img.lib.version / 256 == b.libVer / 256
          let fails (n r : Nat) : State := { s with boot := { b with
            libLoad := 3
            libFail := n
            refusal := r } }
          (ok1 = false → exec (.libLoadEdge img) s = .next (fails 1 536))
          ∧ (ok1 = true → img.fw.version ≠ b.fwVer → exec (.libLoadEdge img) s = .next (fails 2 536))
          ∧ (ok1 = true → img.fw.version = b.fwVer → ok3 = false → ∃ t, exec (.libLoadEdge img) s = .next t
              ∧ BootTells s t 0x0402 2 ∧ t = { fails 3 532 with flt := t.flt })
          ∧ (ok1 = true → img.fw.version = b.fwVer → ok3 = true → ok4 = false → exec (.libLoadEdge img) s = .next (fails 4 536))
          ∧ (ok1 = true → img.fw.version = b.fwVer → ok3 = true → ok4 = true → ok5 = false →
              exec (.libLoadEdge img) s = .next (fails 5 536))
          ∧ (ok1 = true → img.fw.version = b.fwVer → ok3 = true → ok4 = true → ok5 = true →
              (∀ d q, (pairAt s d q).q = []) → ∃ t ps, exec (.libLoadEdge img) s = .next t ∧ t.fir.progs = runProgs s ++ ps
              ∧ (ps.map fun y => (y.id, y.len, y.owner)) = (imageProgs img).map (fun y => (y.id, y.code.length, y.owner))
              ∧ t.boot = { b with
                libLoad := 2
                libVer := img.lib.version
                libOther := true
                overridden := (b.overridden || !(tripleTested img.fw img.lib)) }
              ∧ t = { s with
                  fir := { s.fir with progs := t.fir.progs }
                  boot := t.boot
                  flt := t.flt
                  rmem := t.rmem
                  sched := t.sched }))

/-- Events become records, causes and rungs; records reach the flash log or fall back; the in-field test runs its phases.
Rests on spec/22_faults_and_recovery.md, Fault records; spec/22_faults_and_recovery.md, The fault log and its fallback;
spec/22_faults_and_recovery.md, In-field structural scan. -/
def Obligations.FaultsAreRecordedAndTilesTested : Prop :=
  ∀ s : State,
    let f := s.flt
    (∀ ch, smGet [] f.chans ch = [] ∨ fbRuns s = false → exec (.faultEventReport ch) s = .next s)
    ∧ (∀ ch e q, smGet [] f.chans ch = e :: q → fbRuns s = true → ∃ t, exec (.faultEventReport ch) s = .next t
        ∧ smGet [] t.flt.chans ch = q
        ∧ (e.cls = .info ∨ e.cls = .corrected ∨ e.cls = .data →
          t.fb.faultCause = s.fb.faultCause ||| e.causes ∧ t.fb.alertCause = s.fb.alertCause ||| e.alerts
          ∧ t.mem = s.mem ∧ t.boot = s.boot ∧ t.fir = s.fir
          ∧ (isSuppressed s e = true → t.flt.seq = f.seq ∧ t.flt.recent = f.recent ∧ t.flt.chanLost = f.chanLost)
          ∧ (isSuppressed s e = false → t.flt.seq = f.seq + 1 ∧ smGet 0 t.flt.chanLost ch = 0
            ∧ ∃ r, t.flt.recent.head? = some r ∧ r.ev = e ∧ r.id = s.fb.coldBoots * 2 ^ 32 + f.seq
              ∧ r.rung = (if e.cls = .corrected then 1 else 0)
              ∧ r.suppressed = (match smFind f.rate (rateKey e) with
                  | some x => x.suppressed
                  | none => 0) + smGet 0 f.chanLost ch))
        ∧ (e.cls = .block → f.halted = false → rung3Runs s = false → (recentResets s).length < regF s 0xF10080 8 4 →
            t.boot.st = .stack ∧ t.boot.cold = false ∧ t.mem = s.mem ∧ t.regions = [] ∧ t.flt.rung3 = f.rung3 + 1)
        ∧ (e.cls = .stack → f.halted = false → t.flt.halted = true ∧ t.flt.powerCycle = true ∧ t.mem = []
            ∧ t.flt.rung4 = f.rung4 + 1))
    ∧ (f.commitQ = [] ∨ s.boot.op ≠ none ∨ fbRuns s = false → ∀ ok, exec (.faultRecordCommit ok) s = .next s
        ∧ exec (.fallbackRetry ok) s = .next s)
    ∧ (f.fallback = true → ∀ ok, exec (.faultRecordCommit ok) s = .next s)
    ∧ (f.fallback = false → ∀ ok, exec (.fallbackRetry ok) s = .next s)
    ∧ (∀ r q, f.commitQ = r :: q → s.boot.op = none → fbRuns s = true → f.fallback = false →
        (∃ t, exec (.faultRecordCommit true) s = .next t ∧ t.flt.commitQ = q ∧ t.flt.committed = max f.committed r.id
          ∧ t.flt.logPos = (f.logPos + 1) % 60416
          ∧ (∀ j, smFind t.flt.log j = if j = f.logPos then some ⟨r, true⟩
              else if f.logPos % 256 = 0 ∧ j / 256 = f.logPos / 256 then none else smFind f.log j)
          ∧ t = { s with flt := t.flt })
        ∧ ∃ t e, exec (.faultRecordCommit false) s = .next t ∧ t.flt.fallback = true ∧ t.flt.flashOk = false
          ∧ bitAt t.fb.faultCause 6 = true ∧ smFind t.flt.ring 0 = some e ∧ e.ev.code = 0x901 ∧ t.flt.log = f.log
          ∧ t.flt.commitQ = (if f.commitQ.length < 256 then f.commitQ ++ [e] else f.commitQ.drop 1 ++ [e]) ∧ t.mem = s.mem)
    ∧ (f.fallback = true → f.commitQ ≠ [] → s.boot.op = none → fbRuns s = true →
        (∃ t, exec (.fallbackRetry true) s = .next t ∧ t.flt.commitQ = [] ∧ t.flt.flashOk = true ∧ t.flt.fallback = true
          ∧ t.flt.histPairs = f.pairs ∧ t.flt.histTiles = f.tiles ∧ t.warp = { s.warp with mapFlash := s.warp.map }
          ∧ t = { s with
              flt := t.flt
              warp := t.warp })
        ∧ exec (.fallbackRetry false) s = .next { s with flt := { f with flash := 2 } })
    ∧ exec .historyHourlyWrite s = .next (if f.fallback = true ∨ fbRuns s = false then s
        else { s with flt := { f with histDue := true } })
    ∧ (s.boot.st ≠ .service ∨ s.boot.dies = 0 → exec .scanTestDue s = .next s)
    ∧ (s.boot.st = .service → f.scan ≠ none → s.boot.dies ≠ 0 →
        let at_ := f.scanNext % (34 * s.boot.dies)
        exec .scanTestDue s = .next { s with flt := { f with
          scanDue := f.scanDue ++ [at_ % s.boot.dies * 34 + at_ / s.boot.dies]
          scanNext := (at_ + 1) % (34 * s.boot.dies) } })
    ∧ (s.boot.st = .service → f.scan = none → s.boot.dies ≠ 0 →
        let at_ := f.scanNext % (34 * s.boot.dies)
        let n := match f.scanDue with
          | k :: _ => k
          | [] => at_ % s.boot.dies * 34 + at_ / s.boot.dies
        ∃ t, exec .scanTestDue s = .next t ∧ t.flt.scan = some { die := n / 34, pair := n % 34, pos := servedPos s (n / 34) (n % 34),
                                                                 phase := if f.patReady then 1 else 0, segs := 0 }
          ∧ t.flt.patReady = false
          ∧ t.flt.scanDue = f.scanDue.tail
          ∧ t.flt.scanNext = (if f.scanDue = [] then (at_ + 1) % (34 * s.boot.dies) else f.scanNext)
          ∧ (smGet {} t.flt.tiles n).st = (if (smGet {} f.tiles n).st = 2 then 2 else 1)
          ∧ t.clk = { s.clk with pst := if s.clk.pst = .retain then .retainExit else s.clk.pst } ∧ t.mem = s.mem
          ∧ ∀ k x p, curFiring s = some (k, x) → x.st = .running → servedPos s (n / 34) (n % 34) = some p →
              inRect x.f (n / 34 * 32 + p) = true → StopCause.test ∈ (firingOf t k).causes)
    ∧ (∀ ok, (f.scan = none ∧ (s.boot.st ≠ .service ∨ s.boot.dies = 0 ∨ f.patReady = true) ∨ ∃ y, f.scan = some y ∧ y.phase ≠ 0) →
        exec (.scanPatternRead ok) s = .next s)
    ∧ (f.scan = none → s.boot.st = .service → s.boot.dies ≠ 0 → f.patReady = false →
        exec (.scanPatternRead true) s = .next { s with flt := { f with patReady := true } }
        ∧ ∃ t, exec (.scanPatternRead false) s = .next t ∧ t.flt.scan = none ∧ t.flt.patReady = false
          ∧ t.flt.notRun = f.notRun + 1 ∧ t.mem = s.mem
          ∧ t.flt.scanDue = (match f.scanDue with
              | k :: q => q ++ [k]
              | [] => let at_ := f.scanNext % (34 * s.boot.dies)
                [at_ % s.boot.dies * 34 + at_ / s.boot.dies]))
    ∧ (f.scan = none → exec .scanTestStart s = .next s ∧ exec .scanSegmentDone s = .next s
        ∧ ∀ m c us, exec (.scanTestDone m c us) s = .next s)
    ∧ ∀ y, f.scan = some y →
        let k := y.die * 34 + y.pair
        let full (t : State) (p : Nat) : Prop := ∀ g, g < 4 → -8 ≤ debtOf (pairAt s y.die p) g → debtOf (pairAt t y.die p) g = -8
        (y.phase = 0 → exec (.scanPatternRead true) s = .next { s with flt := { f with scan := some { y with phase := 1 } } }
          ∧ ∃ t, exec (.scanPatternRead false) s = .next t ∧ t.flt.scan = none ∧ t.flt.notRun = f.notRun + 1
            ∧ t.flt.scanDue = f.scanDue ++ [k] ∧ t.mem = s.mem
            ∧ (curFiring s = none → t = { s with flt := t.flt }))
        ∧ ((y.phase ≠ 1 ∨ ∃ p j x, y.pos = some p ∧ curFiring s = some (j, x) ∧ inRect x.f (y.die * 32 + p) = true)
            ∨ tileBusy s y = true → exec .scanTestStart s = .next s)
        ∧ (y.phase = 1 → (∀ p j x, y.pos = some p → curFiring s = some (j, x) → inRect x.f (y.die * 32 + p) = false) →
            tileBusy s y = false → ∃ t, exec .scanTestStart s = .next t
            ∧ (y.pos = none → t = { s with flt := { f with scan := some { y with
                phase := 2
                saved := (0, 0, 0) } } })
            ∧ (∀ p, y.pos = some p → (pairAt t y.die p).test = true ∧ full t p
                ∧ t.flt = { f with scan := some { y with
                    phase := 2
                    saved := ((hobOf s (y.die * 32 + p)).ce, (hobOf s (y.die * 32 + p)).halts, (hobOf s (y.die * 32 + p)).firings) } })
            ∧ t = { s with
                flt := t.flt
                sched := t.sched })
        ∧ (weftFree s y.die 4 = false → exec .scanSegmentDone s = .next s)
        ∧ (y.phase ≠ 2 → exec .scanSegmentDone s = .next s ∧ ∀ m c us, exec (.scanTestDone m c us) s = .next s)
        ∧ (y.phase = 2 → (weftFree s y.die 4 = true → ∃ t, exec .scanSegmentDone s = .next t
              ∧ t.flt = { f with scan := some { y with segs := y.segs + 1 } } ∧ (∀ p, y.pos = some p → full t p)
              ∧ t = { s with
                  flt := t.flt
                  sched := t.sched })
          ∧ ∀ m c us, ∃ t, exec (.scanTestDone m c us) s = .next t ∧ t.flt.scan = none ∧ t.flt.lastUs = us % 2 ^ 32 ∧ t.mem = s.mem
            ∧ (∀ p, y.pos = some p → (pairAt t y.die p).test = false
              ∧ hobOf t (y.die * 32 + p) = { scr := s.freeCtr, ce := y.saved.1, halts := y.saved.2.1, firings := y.saved.2.2 })
            ∧ (m = 0 → smGet {} t.flt.tiles k = { smGet {} f.tiles k with
                st := 0
                mask := 0
                lastPass := s.fb.cal
                passed := satAdd 32 (smGet {} f.tiles k).passed 1 }
              ∧ t.warp = s.warp)
            ∧ (m ≠ 0 → smGet {} t.flt.tiles k = { smGet {} f.tiles k with
                  st := 2
                  mask := m
                  failed := satAdd 32 (smGet {} f.tiles k).failed 1 }
              ∧ (y.pos = none → (histOf t k).st = .spareUnusable ∧ t.flt.histDue = true ∧ t.warp = s.warp)
              ∧ (∀ p g, y.pos = some p → s.warp.migr = some g →
                  t.warp.queue = { die := y.die, pos := p, mbox := none, raw := true } :: s.warp.queue)
              ∧ ∀ p sp, y.pos = some p → y.pair < 32 → s.warp.migr = none → findSpare s y.die = some sp →
                  t.warp.migr = some { die := y.die, pos := p, spare := sp, mark := 0, switching := false, raw := true, mbox := none }
                  ∧ ((histOf s k).st = .active ∨ (histOf s k).st = .watch → (histOf t k).st = .spareDue)))

/-- The management port performs register accesses and the common commands of its bus, and the TAP selects its registers.
Rests on spec/25_integration.md, Management port; spec/25_integration.md, Test access. -/
def Obligations.ManagementPortAndTap : Prop :=
  (∀ s : State, s.clk.coldLow = true ∨ s.clk.pgFb = false →
    ∀ c : Instr, (c = .rstdaa ∨ c = .enec ∨ c = .disec ∨ c = .getstatus ∨ c = .alertResponse ∨ (∃ a, c = .setdasa a)
      ∨ (∃ a, c = .entdaa a) ∨ ∃ o a v, c = .mgmtAccess o a v) → exec c s = .next s)
  ∧ (∀ s : State, s.clk.coldLow = false → s.clk.pgFb = true →
      let m := s.mgmt
      (∀ (o : Byte) (a : Nat) (v : W64),
        let len := if o = 0x10 ∨ o = 0x20 then 4 else 8
        let answers (st : Nat) : State := { s with mgmt := { m with
          out := [BitVec.ofNat 8 st]
          status := st } }
        let rd := regRead s .mgmt a len
        let wr := regWrite s .mgmt a len v
        let known : Prop := o = 0x10 ∨ o = 0x11 ∨ o = 0x20 ∨ o = 0x21
        (¬known → exec (.mgmtAccess o a v) s = .next (answers 6))
        ∧ (known → 0x2000000 ≤ a → exec (.mgmtAccess o a v) s = .next (answers 1))
        ∧ (known → a < 0x2000000 → a % len ≠ 0 → exec (.mgmtAccess o a v) s = .next (answers 8))
        ∧ (o = 0x10 ∨ o = 0x11 → a < 0x2000000 → a % len = 0 → exec (.mgmtAccess o a v) s = .next { rd.2 with
            mgmt := { rd.2.mgmt with
              out := leBytes len rd.1 ++ [0]
              status := 0 }
            pending := s.pending })
        ∧ (o = 0x20 ∨ o = 0x21 → a < 0x2000000 → a % len = 0 → exec (.mgmtAccess o a v) s = .next { wr with
            mgmt := { wr.mgmt with
              out := [0]
              status := 0 }
            pending := s.pending }))
      ∧ (∀ a, ∀ c ∈ ([.setdasa a, .entdaa a] : List Instr), exec c s = .next (if m.dyn = none ∧ a < 128
          then { s with mgmt := { m with dyn := some a } } else s))
      ∧ exec .rstdaa s = .next { s with mgmt := { m with dyn := none } }
      ∧ exec .enec s = .next { s with mgmt := { m with ibi := true } }
      ∧ exec .disec s = .next { s with mgmt := { m with ibi := false } }
      ∧ exec .getstatus s = .next { s with mgmt := { m with
          out := [0, BitVec.ofNat 8 (b2n m.ibiPend.isSome)]
          status := 0
          ibiPend := none } }
      ∧ exec .alertResponse s = .next (if m.dyn = none ∧ m.alertLow = true then { s with mgmt := { m with
          out := [BitVec.ofNat 8 (2 * (0x58 + s.clk.mgAddr))]
          status := 0 } } else s))
  ∧ ∀ s : State,
      exec .bypass s = .next { s with mgmt := { s.mgmt with
        tapIr := 0
        tapDr := 0 } }
      ∧ exec .idcode s = .next { s with mgmt := { s.mgmt with
        tapIr := 1
        tapDr := 0x2D5A0B43 } }
      ∧ ∀ v, ∃ t, exec (.samplePreload v) s = .next t ∧ t.mgmt = { s.mgmt with
          tapIr := 2
          boundary := v
          tapDr := t.mgmt.tapDr }
        ∧ t = { s with
            mgmt := t.mgmt
            freeCtr := s.freeCtr + 1 }
end

