-- ==== Sys2Proof/Laws/SMap.lean ====
section
/-! SUPPORT. Laws of the sparse maps and of the position updates of a list. -/

namespace Sys2Proof.Laws

open Sys2Proof.Machine

variable {α : Type}

@[simp] theorem smGet_nil (d : α) (k : Nat) : smGet d [] k = d := rfl

@[simp] theorem smFind_nil (k : Nat) : smFind ([] : SMap α) k = none := rfl

/-- A map read at the key just written gives the value written. -/
@[simp] theorem smGet_smSet_same (d : α) (m : SMap α) (k : Nat) (v : α) : smGet d (smSet m k v) k = v := by
  induction m with
  | nil => simp [smSet, smGet]
  | cons kv m ih =>
    obtain ⟨k', v'⟩ := kv
    by_cases h1 : k < k'
    · simp [smSet, h1, smGet]
    · by_cases h2 : k = k'
      · simp [smSet, h2, smGet]
      · simp [smSet, h1, h2, smGet, ih, Ne.symm h2]

/-- A write at one key leaves the value read at every other key. -/
theorem smGet_smSet_other (d : α) (m : SMap α) {k j : Nat} (v : α) (h : j ≠ k) :
    smGet d (smSet m k v) j = smGet d m j := by
  induction m with
  | nil => simp [smSet, smGet, Ne.symm h]
  | cons kv m ih =>
    obtain ⟨k', v'⟩ := kv
    by_cases h1 : k < k'
    · simp [smSet, h1, smGet, Ne.symm h]
    · by_cases h2 : k = k'
      · subst h2; simp [smSet, smGet, Ne.symm h]
      · simp [smSet, h1, h2, smGet, ih]

@[simp] theorem smFind_smSet_same (m : SMap α) (k : Nat) (v : α) : smFind (smSet m k v) k = some v := by
  induction m with
  | nil => simp [smSet, smFind]
  | cons kv m ih =>
    obtain ⟨k', v'⟩ := kv
    by_cases h1 : k < k'
    · simp [smSet, h1, smFind]
    · by_cases h2 : k = k'
      · simp [smSet, h2, smFind]
      · simp [smSet, h1, h2, smFind, ih, Ne.symm h2]

theorem smFind_smSet_other (m : SMap α) {k j : Nat} (v : α) (h : j ≠ k) :
    smFind (smSet m k v) j = smFind m j := by
  induction m with
  | nil => simp [smSet, smFind, Ne.symm h]
  | cons kv m ih =>
    obtain ⟨k', v'⟩ := kv
    by_cases h1 : k < k'
    · simp [smSet, h1, smFind, Ne.symm h]
    · by_cases h2 : k = k'
      · subst h2; simp [smSet, smFind, Ne.symm h]
      · simp [smSet, h1, h2, smFind, ih]

@[simp] theorem smFind_smDel_same (m : SMap α) (k : Nat) : smFind (smDel m k) k = none := by
  induction m with
  | nil => rfl
  | cons kv m ih =>
    obtain ⟨k', v'⟩ := kv
    by_cases h : k = k'
    · simp [smDel, h]; simpa [h] using ih
    · simp [smDel, h, smFind, ih, Ne.symm h]

theorem smFind_smDel_other (m : SMap α) {k j : Nat} (h : j ≠ k) : smFind (smDel m k) j = smFind m j := by
  induction m with
  | nil => rfl
  | cons kv m ih =>
    obtain ⟨k', v'⟩ := kv
    by_cases h1 : k = k'
    · subst h1; simp [smDel, smFind, ih, Ne.symm h]
    · simp [smDel, h1, smFind, ih]

@[simp] theorem smGet_smDel_same (d : α) (m : SMap α) (k : Nat) : smGet d (smDel m k) k = d := by
  induction m with
  | nil => rfl
  | cons kv m ih =>
    obtain ⟨k', v'⟩ := kv
    by_cases h : k = k'
    · simp [smDel, h]; simpa [h] using ih
    · simp [smDel, h, smGet, ih, Ne.symm h]

theorem smGet_smDel_other (d : α) (m : SMap α) {k j : Nat} (h : j ≠ k) : smGet d (smDel m k) j = smGet d m j := by
  induction m with
  | nil => rfl
  | cons kv m ih =>
    obtain ⟨k', v'⟩ := kv
    by_cases h1 : k = k'
    · subst h1; simp [smDel, smGet, ih, Ne.symm h]
    · simp [smDel, h1, smGet, ih]

@[simp] theorem smGet_smMod_same (d : α) (m : SMap α) (k : Nat) (f : α → α) :
    smGet d (smMod d m k f) k = f (smGet d m k) := by
  simp [smMod]

theorem smGet_smMod_other (d d' : α) (m : SMap α) {k j : Nat} (f : α → α) (h : j ≠ k) :
    smGet d (smMod d' m k f) j = smGet d m j := by
  simp [smMod, smGet_smSet_other _ _ _ h]

/-- A map read through its option gives the listed value, or the default. -/
theorem smGet_eq_smFind (d : α) (m : SMap α) (k : Nat) : smGet d m k = (smFind m k).getD d := by
  induction m with
  | nil => rfl
  | cons kv m ih =>
    obtain ⟨k', v'⟩ := kv
    by_cases h : k' = k
    · simp [smGet, smFind, h]
    · simp [smGet, smFind, h, ih]

@[simp] theorem listSet_length (l : List α) (i : Nat) (v : α) : (listSet l i v).length = l.length := by
  induction l generalizing i with
  | nil => rfl
  | cons x xs ih => cases i <;> simp [listSet, ih]

theorem listSet_get_same (l : List α) (i : Nat) (v : α) (h : i < l.length) : (listSet l i v)[i]? = some v := by
  induction l generalizing i with
  | nil => simp at h
  | cons x xs ih =>
    cases i with
    | zero => simp [listSet]
    | succ n => simp [listSet, ih n (by simpa using h)]

/-- Of two values set at one key the later one stays. -/
@[simp] theorem smSet_smSet_same {α : Type} (m : SMap α) (k : Nat) (v w : α) : smSet (smSet m k v) k w = smSet m k w := by
  induction m with
  | nil => simp [smSet]
  | cons kv m ih =>
    obtain ⟨k', v'⟩ := kv
    simp only [smSet]
    split
    · simp [smSet]
    · split
      · simp [smSet]
      · rename_i h1 h2
        simp [smSet, h1, h2, ih]

end Sys2Proof.Laws
end

