-- ==== Sys2Proof/Laws/Lane.lean ====
section
/-! SUPPORT. What the packing of elements into vector registers and the write of a lane instruction's results do. -/

namespace Sys2Proof.Laws

open Sys2Proof.Machine

theorem testBit_packFold (b : Nat) (l : List (Nat × Nat)) (g j : Nat) :
    (l.foldl (fun g e => g ||| (e.2 % 2 ^ b) <<< (e.1 * b)) g).testBit j =
      (g.testBit j || l.any fun e => decide (e.1 * b ≤ j) && (decide (j - e.1 * b < b) && e.2.testBit (j - e.1 * b))) := by
  induction l generalizing g with
  | nil => simp
  | cons e l ih =>
    simp only [List.foldl_cons, List.any_cons, ih, Nat.testBit_or, Nat.testBit_shiftLeft, Nat.testBit_mod_two_pow, ge_iff_le,
      Bool.or_assoc]

/-- The bits of the place of element `k` come from element `k` alone. -/
theorem any_zip_range (b : Nat) (xs : List Nat) (k m : Nat) (hm : m < b) (hk : k < xs.length) :
    (((List.range xs.length).zip xs).any fun e =>
      decide (e.1 * b ≤ k * b + m) && (decide (k * b + m - e.1 * b < b) && e.2.testBit (k * b + m - e.1 * b)))
      = xs[k].testBit m := by
  rw [Bool.eq_iff_iff, List.any_eq_true]
  constructor
  · rintro ⟨⟨i, x⟩, hmem, h⟩
    simp only [Bool.and_eq_true, decide_eq_true_eq] at h
    obtain ⟨h1, h2, h3⟩ := h
    have hik : i = k := by
      rcases Nat.lt_trichotomy i k with hlt | heq | hgt
      · exfalso
        have : (i + 1) * b ≤ k * b := Nat.mul_le_mul_right b hlt
        rw [Nat.add_mul, Nat.one_mul] at this; omega
      · exact heq
      · exfalso
        have : (k + 1) * b ≤ i * b := Nat.mul_le_mul_right b hgt
        rw [Nat.add_mul, Nat.one_mul] at this; omega
    subst hik
    rw [List.mem_iff_getElem] at hmem
    obtain ⟨j, hj, he⟩ := hmem
    simp only [List.getElem_zip, List.getElem_range, Prod.mk.injEq] at he
    obtain ⟨rfl, rfl⟩ := he
    simpa using h3
  · intro h
    refine ⟨(k, xs[k]), ?_, ?_⟩
    · rw [List.mem_iff_getElem]
      exact ⟨k, by simp [hk], by simp⟩
    · simp [hm, h]

/-- An element packed into a register reads back, cut to the format's width. -/
theorem bitsAt_packEls (c : Nat) (xs : List Nat) (k : Nat) (hk : k < xs.length) (hn : xs.length * elBits c ≤ 256) :
    bitsAt (packEls c xs).toNat (k * elBits c) (elBits c) = xs[k] % 2 ^ elBits c := by
  apply Nat.eq_of_testBit_eq
  intro m
  simp only [bitsAt, Nat.testBit_mod_two_pow, Nat.testBit_shiftRight, packEls, BitVec.toNat_ofNat]
  by_cases hm : m < elBits c
  · have h1 : (k + 1) * elBits c ≤ xs.length * elBits c := Nat.mul_le_mul_right _ hk
    rw [Nat.add_mul, Nat.one_mul] at h1
    have h2 : k * elBits c + m < 256 := by omega
    simp only [hm, h2, decide_true, Bool.true_and, testBit_packFold, Nat.zero_testBit, Bool.false_or]
    exact any_zip_range _ xs k m hm hk
  · simp [hm]

/-- The register that `writeEls` leaves in place `i` of the group from `r`. -/
def wrote (h : Hob) (c r i : Nat) (f : Nat → Option Nat) : Datum :=
  if ((List.range (elsPer c)).any fun k => (f (i * elsPer c + k)).isNone) && (vReg h (r + i)).poison then ⟨0, true⟩
  else ⟨packEls c (((List.range (elsPer c)).zip (elems c (vReg h (r + i)).bits)).map fun e =>
    (f (i * elsPer c + e.1)).getD e.2), false⟩

theorem writeEls_eq (h : Hob) (c r n : Nat) (f : Nat → Option Nat) :
    writeEls h c r n f = (List.range n).foldl (fun g i => setVReg g (r + i) (wrote h c r i f)) h := by
  unfold writeEls wrote
  congr 1
  funext g i
  by_cases hk : (((List.range (elsPer c)).any fun k => (f (i * elsPer c + k)).isNone) && (vReg h (r + i)).poison) = true
  · simp only [hk, if_true]
  · simp only [hk, Bool.false_eq_true, if_false]

@[simp] theorem vReg_setVReg_same (h : Hob) (r : Nat) (d : Datum) : vReg (setVReg h r d) r = d := by
  simp [vReg, setVReg]

theorem vReg_setVReg_other (h : Hob) {r q : Nat} (d : Datum) (hq : q ≠ r) : vReg (setVReg h r d) q = vReg h q := by
  simp [vReg, setVReg, smGet_smSet_other _ _ _ hq]

/-- Writes of a run of registers leave what was written in each, and every other register as it was. -/
theorem vReg_writes (D : Nat → Datum) (h : Hob) (r n q : Nat) :
    vReg ((List.range n).foldl (fun g i => setVReg g (r + i) (D i)) h) q
      = if r ≤ q ∧ q < r + n then D (q - r) else vReg h q := by
  induction n with
  | zero => simp
  | succ n ih =>
    rw [List.range_succ, List.foldl_append, List.foldl_cons, List.foldl_nil]
    by_cases hq : q = r + n
    · subst hq; simp
    · rw [vReg_setVReg_other _ _ hq, ih]
      by_cases h1 : r ≤ q ∧ q < r + n
      · rw [if_pos h1, if_pos (by omega)]
      · rw [if_neg h1, if_neg (by omega)]

/-- Writes of registers change nothing of a hob but its vector registers. -/
theorem writes_frame (D : Nat → Datum) (h : Hob) (r n : Nat) :
    ∃ vr, (List.range n).foldl (fun g i => setVReg g (r + i) (D i)) h = { h with vr := vr } := by
  induction n with
  | zero => exact ⟨h.vr, rfl⟩
  | succ n ih =>
    obtain ⟨vr, hv⟩ := ih
    rw [List.range_succ, List.foldl_append, List.foldl_cons, List.foldl_nil, hv]
    exact ⟨_, rfl⟩

/-- The registers after the results of a lane instruction are written. -/
theorem vReg_writeEls (h : Hob) (c r n q : Nat) (f : Nat → Option Nat) :
    vReg (writeEls h c r n f) q = if r ≤ q ∧ q < r + n then wrote h c r (q - r) f else vReg h q := by
  rw [writeEls_eq]; exact vReg_writes _ h r n q

theorem writeEls_frame (h : Hob) (c r n : Nat) (f : Nat → Option Nat) :
    ∃ vr, writeEls h c r n f = { h with vr := vr } := by
  rw [writeEls_eq]; exact writes_frame _ h r n

/-- The registers after a poisoned source: each of the group is zero with poison. -/
theorem vReg_poisonOut (h : Hob) (r n q : Nat) :
    vReg (poisonOut h r n) q = if r ≤ q ∧ q < r + n then ⟨0, true⟩ else vReg h q := by
  have : vReg (poisonOut h r n) q = vReg ((List.range n).foldl (fun g i => setVReg g (r + i) ⟨0, true⟩) h) q := by
    simp [poisonOut, raise, rangeFrom, vReg, List.foldl_map]
  rw [this]; exact vReg_writes (fun _ => ⟨0, true⟩) h r n q

/-- Element `j` of a register written: the lane's result, or the element as it was; zero where a poisoned register keeps
an element. -/
theorem bitsAt_wrote (h : Hob) (c r i j : Nat) (f : Nat → Option Nat) (hj : j < elsPer c)
    (hc : elsPer c * elBits c ≤ 256)
    (hp : (((List.range (elsPer c)).any fun k => (f (i * elsPer c + k)).isNone) && (vReg h (r + i)).poison) = false) :
    bitsAt (wrote h c r i f).bits.toNat (j * elBits c) (elBits c)
      = ((f (i * elsPer c + j)).getD (bitsAt (vReg h (r + i)).bits.toNat (j * elBits c) (elBits c))) % 2 ^ elBits c := by
  rw [wrote, hp]
  simp only [Bool.false_eq_true, if_false]
  rw [bitsAt_packEls _ _ j (by simpa [elems] using hj) (by simpa [elems] using hc)]
  simp [elems]

end Sys2Proof.Laws
end

