-- ==== Sys2Proof/Laws/State.lean ====
section
/-! SUPPORT. What each update of one part of the state leaves in every field. -/

namespace Sys2Proof.Laws

open Sys2Proof.Machine

@[simp] theorem modSched_pending (s : State) (f : Sched → Sched) : (modSched s f).pending = s.pending := rfl
@[simp] theorem modSched_freeCtr (s : State) (f : Sched → Sched) : (modSched s f).freeCtr = s.freeCtr := rfl
@[simp] theorem modSched_mem (s : State) (f : Sched → Sched) : (modSched s f).mem = s.mem := rfl
@[simp] theorem modSched_rmem (s : State) (f : Sched → Sched) : (modSched s f).rmem = s.rmem := rfl
@[simp] theorem modSched_staging (s : State) (f : Sched → Sched) : (modSched s f).staging = s.staging := rfl
@[simp] theorem modSched_regions (s : State) (f : Sched → Sched) : (modSched s f).regions = s.regions := rfl
@[simp] theorem modSched_parts (s : State) (f : Sched → Sched) : (modSched s f).parts = s.parts := rfl
@[simp] theorem modSched_poolHearth (s : State) (f : Sched → Sched) : (modSched s f).poolHearth = s.poolHearth := rfl
@[simp] theorem modSched_poolHob (s : State) (f : Sched → Sched) : (modSched s f).poolHob = s.poolHob := rfl
@[simp] theorem modSched_poolFlue (s : State) (f : Sched → Sched) : (modSched s f).poolFlue = s.poolFlue := rfl
@[simp] theorem modSched_sched (s : State) (f : Sched → Sched) : (modSched s f).sched = f s.sched := rfl
@[simp] theorem modSched_warp (s : State) (f : Sched → Sched) : (modSched s f).warp = s.warp := rfl
@[simp] theorem modSched_ports (s : State) (f : Sched → Sched) : (modSched s f).ports = s.ports := rfl
@[simp] theorem modSched_fir (s : State) (f : Sched → Sched) : (modSched s f).fir = s.fir := rfl
@[simp] theorem modSched_spl (s : State) (f : Sched → Sched) : (modSched s f).spl = s.spl := rfl
@[simp] theorem modSched_stp (s : State) (f : Sched → Sched) : (modSched s f).stp = s.stp := rfl
@[simp] theorem modSched_treads (s : State) (f : Sched → Sched) : (modSched s f).treads = s.treads := rfl
@[simp] theorem modSched_tposeUsed (s : State) (f : Sched → Sched) : (modSched s f).tposeUsed = s.tposeUsed := rfl
@[simp] theorem modSched_smp (s : State) (f : Sched → Sched) : (modSched s f).smp = s.smp := rfl
@[simp] theorem modSched_str (s : State) (f : Sched → Sched) : (modSched s f).str = s.str := rfl
@[simp] theorem modSched_obs (s : State) (f : Sched → Sched) : (modSched s f).obs = s.obs := rfl
@[simp] theorem modSched_flt (s : State) (f : Sched → Sched) : (modSched s f).flt = s.flt := rfl
@[simp] theorem modSched_fb (s : State) (f : Sched → Sched) : (modSched s f).fb = s.fb := rfl
@[simp] theorem modSched_clk (s : State) (f : Sched → Sched) : (modSched s f).clk = s.clk := rfl
@[simp] theorem modSched_boot (s : State) (f : Sched → Sched) : (modSched s f).boot = s.boot := rfl
@[simp] theorem modSched_mgmt (s : State) (f : Sched → Sched) : (modSched s f).mgmt = s.mgmt := rfl
@[simp] theorem modSched_regs (s : State) (f : Sched → Sched) : (modSched s f).regs = s.regs := rfl
@[simp] theorem modSched_sel (s : State) (f : Sched → Sched) : (modSched s f).sel = s.sel := rfl
@[simp] theorem modSched_shadow (s : State) (f : Sched → Sched) : (modSched s f).shadow = s.shadow := rfl
@[simp] theorem modSched_capt (s : State) (f : Sched → Sched) : (modSched s f).capt = s.capt := rfl
@[simp] theorem modSched_strm (s : State) (f : Sched → Sched) : (modSched s f).strm = s.strm := rfl
@[simp] theorem modSched_rdata (s : State) (f : Sched → Sched) : (modSched s f).rdata = s.rdata := rfl

@[simp] theorem modWarp_pending (s : State) (f : Warp → Warp) : (modWarp s f).pending = s.pending := rfl
@[simp] theorem modWarp_freeCtr (s : State) (f : Warp → Warp) : (modWarp s f).freeCtr = s.freeCtr := rfl
@[simp] theorem modWarp_mem (s : State) (f : Warp → Warp) : (modWarp s f).mem = s.mem := rfl
@[simp] theorem modWarp_rmem (s : State) (f : Warp → Warp) : (modWarp s f).rmem = s.rmem := rfl
@[simp] theorem modWarp_staging (s : State) (f : Warp → Warp) : (modWarp s f).staging = s.staging := rfl
@[simp] theorem modWarp_regions (s : State) (f : Warp → Warp) : (modWarp s f).regions = s.regions := rfl
@[simp] theorem modWarp_parts (s : State) (f : Warp → Warp) : (modWarp s f).parts = s.parts := rfl
@[simp] theorem modWarp_poolHearth (s : State) (f : Warp → Warp) : (modWarp s f).poolHearth = s.poolHearth := rfl
@[simp] theorem modWarp_poolHob (s : State) (f : Warp → Warp) : (modWarp s f).poolHob = s.poolHob := rfl
@[simp] theorem modWarp_poolFlue (s : State) (f : Warp → Warp) : (modWarp s f).poolFlue = s.poolFlue := rfl
@[simp] theorem modWarp_sched (s : State) (f : Warp → Warp) : (modWarp s f).sched = s.sched := rfl
@[simp] theorem modWarp_warp (s : State) (f : Warp → Warp) : (modWarp s f).warp = f s.warp := rfl
@[simp] theorem modWarp_ports (s : State) (f : Warp → Warp) : (modWarp s f).ports = s.ports := rfl
@[simp] theorem modWarp_fir (s : State) (f : Warp → Warp) : (modWarp s f).fir = s.fir := rfl
@[simp] theorem modWarp_spl (s : State) (f : Warp → Warp) : (modWarp s f).spl = s.spl := rfl
@[simp] theorem modWarp_stp (s : State) (f : Warp → Warp) : (modWarp s f).stp = s.stp := rfl
@[simp] theorem modWarp_treads (s : State) (f : Warp → Warp) : (modWarp s f).treads = s.treads := rfl
@[simp] theorem modWarp_tposeUsed (s : State) (f : Warp → Warp) : (modWarp s f).tposeUsed = s.tposeUsed := rfl
@[simp] theorem modWarp_smp (s : State) (f : Warp → Warp) : (modWarp s f).smp = s.smp := rfl
@[simp] theorem modWarp_str (s : State) (f : Warp → Warp) : (modWarp s f).str = s.str := rfl
@[simp] theorem modWarp_obs (s : State) (f : Warp → Warp) : (modWarp s f).obs = s.obs := rfl
@[simp] theorem modWarp_flt (s : State) (f : Warp → Warp) : (modWarp s f).flt = s.flt := rfl
@[simp] theorem modWarp_fb (s : State) (f : Warp → Warp) : (modWarp s f).fb = s.fb := rfl
@[simp] theorem modWarp_clk (s : State) (f : Warp → Warp) : (modWarp s f).clk = s.clk := rfl
@[simp] theorem modWarp_boot (s : State) (f : Warp → Warp) : (modWarp s f).boot = s.boot := rfl
@[simp] theorem modWarp_mgmt (s : State) (f : Warp → Warp) : (modWarp s f).mgmt = s.mgmt := rfl
@[simp] theorem modWarp_regs (s : State) (f : Warp → Warp) : (modWarp s f).regs = s.regs := rfl
@[simp] theorem modWarp_sel (s : State) (f : Warp → Warp) : (modWarp s f).sel = s.sel := rfl
@[simp] theorem modWarp_shadow (s : State) (f : Warp → Warp) : (modWarp s f).shadow = s.shadow := rfl
@[simp] theorem modWarp_capt (s : State) (f : Warp → Warp) : (modWarp s f).capt = s.capt := rfl
@[simp] theorem modWarp_strm (s : State) (f : Warp → Warp) : (modWarp s f).strm = s.strm := rfl
@[simp] theorem modWarp_rdata (s : State) (f : Warp → Warp) : (modWarp s f).rdata = s.rdata := rfl

@[simp] theorem modPorts_pending (s : State) (f : Ports → Ports) : (modPorts s f).pending = s.pending := rfl
@[simp] theorem modPorts_freeCtr (s : State) (f : Ports → Ports) : (modPorts s f).freeCtr = s.freeCtr := rfl
@[simp] theorem modPorts_mem (s : State) (f : Ports → Ports) : (modPorts s f).mem = s.mem := rfl
@[simp] theorem modPorts_rmem (s : State) (f : Ports → Ports) : (modPorts s f).rmem = s.rmem := rfl
@[simp] theorem modPorts_staging (s : State) (f : Ports → Ports) : (modPorts s f).staging = s.staging := rfl
@[simp] theorem modPorts_regions (s : State) (f : Ports → Ports) : (modPorts s f).regions = s.regions := rfl
@[simp] theorem modPorts_parts (s : State) (f : Ports → Ports) : (modPorts s f).parts = s.parts := rfl
@[simp] theorem modPorts_poolHearth (s : State) (f : Ports → Ports) : (modPorts s f).poolHearth = s.poolHearth := rfl
@[simp] theorem modPorts_poolHob (s : State) (f : Ports → Ports) : (modPorts s f).poolHob = s.poolHob := rfl
@[simp] theorem modPorts_poolFlue (s : State) (f : Ports → Ports) : (modPorts s f).poolFlue = s.poolFlue := rfl
@[simp] theorem modPorts_sched (s : State) (f : Ports → Ports) : (modPorts s f).sched = s.sched := rfl
@[simp] theorem modPorts_warp (s : State) (f : Ports → Ports) : (modPorts s f).warp = s.warp := rfl
@[simp] theorem modPorts_ports (s : State) (f : Ports → Ports) : (modPorts s f).ports = f s.ports := rfl
@[simp] theorem modPorts_fir (s : State) (f : Ports → Ports) : (modPorts s f).fir = s.fir := rfl
@[simp] theorem modPorts_spl (s : State) (f : Ports → Ports) : (modPorts s f).spl = s.spl := rfl
@[simp] theorem modPorts_stp (s : State) (f : Ports → Ports) : (modPorts s f).stp = s.stp := rfl
@[simp] theorem modPorts_treads (s : State) (f : Ports → Ports) : (modPorts s f).treads = s.treads := rfl
@[simp] theorem modPorts_tposeUsed (s : State) (f : Ports → Ports) : (modPorts s f).tposeUsed = s.tposeUsed := rfl
@[simp] theorem modPorts_smp (s : State) (f : Ports → Ports) : (modPorts s f).smp = s.smp := rfl
@[simp] theorem modPorts_str (s : State) (f : Ports → Ports) : (modPorts s f).str = s.str := rfl
@[simp] theorem modPorts_obs (s : State) (f : Ports → Ports) : (modPorts s f).obs = s.obs := rfl
@[simp] theorem modPorts_flt (s : State) (f : Ports → Ports) : (modPorts s f).flt = s.flt := rfl
@[simp] theorem modPorts_fb (s : State) (f : Ports → Ports) : (modPorts s f).fb = s.fb := rfl
@[simp] theorem modPorts_clk (s : State) (f : Ports → Ports) : (modPorts s f).clk = s.clk := rfl
@[simp] theorem modPorts_boot (s : State) (f : Ports → Ports) : (modPorts s f).boot = s.boot := rfl
@[simp] theorem modPorts_mgmt (s : State) (f : Ports → Ports) : (modPorts s f).mgmt = s.mgmt := rfl
@[simp] theorem modPorts_regs (s : State) (f : Ports → Ports) : (modPorts s f).regs = s.regs := rfl
@[simp] theorem modPorts_sel (s : State) (f : Ports → Ports) : (modPorts s f).sel = s.sel := rfl
@[simp] theorem modPorts_shadow (s : State) (f : Ports → Ports) : (modPorts s f).shadow = s.shadow := rfl
@[simp] theorem modPorts_capt (s : State) (f : Ports → Ports) : (modPorts s f).capt = s.capt := rfl
@[simp] theorem modPorts_strm (s : State) (f : Ports → Ports) : (modPorts s f).strm = s.strm := rfl
@[simp] theorem modPorts_rdata (s : State) (f : Ports → Ports) : (modPorts s f).rdata = s.rdata := rfl

@[simp] theorem modObs_pending (s : State) (f : Obs → Obs) : (modObs s f).pending = s.pending := rfl
@[simp] theorem modObs_freeCtr (s : State) (f : Obs → Obs) : (modObs s f).freeCtr = s.freeCtr := rfl
@[simp] theorem modObs_mem (s : State) (f : Obs → Obs) : (modObs s f).mem = s.mem := rfl
@[simp] theorem modObs_rmem (s : State) (f : Obs → Obs) : (modObs s f).rmem = s.rmem := rfl
@[simp] theorem modObs_staging (s : State) (f : Obs → Obs) : (modObs s f).staging = s.staging := rfl
@[simp] theorem modObs_regions (s : State) (f : Obs → Obs) : (modObs s f).regions = s.regions := rfl
@[simp] theorem modObs_parts (s : State) (f : Obs → Obs) : (modObs s f).parts = s.parts := rfl
@[simp] theorem modObs_poolHearth (s : State) (f : Obs → Obs) : (modObs s f).poolHearth = s.poolHearth := rfl
@[simp] theorem modObs_poolHob (s : State) (f : Obs → Obs) : (modObs s f).poolHob = s.poolHob := rfl
@[simp] theorem modObs_poolFlue (s : State) (f : Obs → Obs) : (modObs s f).poolFlue = s.poolFlue := rfl
@[simp] theorem modObs_sched (s : State) (f : Obs → Obs) : (modObs s f).sched = s.sched := rfl
@[simp] theorem modObs_warp (s : State) (f : Obs → Obs) : (modObs s f).warp = s.warp := rfl
@[simp] theorem modObs_ports (s : State) (f : Obs → Obs) : (modObs s f).ports = s.ports := rfl
@[simp] theorem modObs_fir (s : State) (f : Obs → Obs) : (modObs s f).fir = s.fir := rfl
@[simp] theorem modObs_spl (s : State) (f : Obs → Obs) : (modObs s f).spl = s.spl := rfl
@[simp] theorem modObs_stp (s : State) (f : Obs → Obs) : (modObs s f).stp = s.stp := rfl
@[simp] theorem modObs_treads (s : State) (f : Obs → Obs) : (modObs s f).treads = s.treads := rfl
@[simp] theorem modObs_tposeUsed (s : State) (f : Obs → Obs) : (modObs s f).tposeUsed = s.tposeUsed := rfl
@[simp] theorem modObs_smp (s : State) (f : Obs → Obs) : (modObs s f).smp = s.smp := rfl
@[simp] theorem modObs_str (s : State) (f : Obs → Obs) : (modObs s f).str = s.str := rfl
@[simp] theorem modObs_obs (s : State) (f : Obs → Obs) : (modObs s f).obs = f s.obs := rfl
@[simp] theorem modObs_flt (s : State) (f : Obs → Obs) : (modObs s f).flt = s.flt := rfl
@[simp] theorem modObs_fb (s : State) (f : Obs → Obs) : (modObs s f).fb = s.fb := rfl
@[simp] theorem modObs_clk (s : State) (f : Obs → Obs) : (modObs s f).clk = s.clk := rfl
@[simp] theorem modObs_boot (s : State) (f : Obs → Obs) : (modObs s f).boot = s.boot := rfl
@[simp] theorem modObs_mgmt (s : State) (f : Obs → Obs) : (modObs s f).mgmt = s.mgmt := rfl
@[simp] theorem modObs_regs (s : State) (f : Obs → Obs) : (modObs s f).regs = s.regs := rfl
@[simp] theorem modObs_sel (s : State) (f : Obs → Obs) : (modObs s f).sel = s.sel := rfl
@[simp] theorem modObs_shadow (s : State) (f : Obs → Obs) : (modObs s f).shadow = s.shadow := rfl
@[simp] theorem modObs_capt (s : State) (f : Obs → Obs) : (modObs s f).capt = s.capt := rfl
@[simp] theorem modObs_strm (s : State) (f : Obs → Obs) : (modObs s f).strm = s.strm := rfl
@[simp] theorem modObs_rdata (s : State) (f : Obs → Obs) : (modObs s f).rdata = s.rdata := rfl

@[simp] theorem modFlt_pending (s : State) (f : Flt → Flt) : (modFlt s f).pending = s.pending := rfl
@[simp] theorem modFlt_freeCtr (s : State) (f : Flt → Flt) : (modFlt s f).freeCtr = s.freeCtr := rfl
@[simp] theorem modFlt_mem (s : State) (f : Flt → Flt) : (modFlt s f).mem = s.mem := rfl
@[simp] theorem modFlt_rmem (s : State) (f : Flt → Flt) : (modFlt s f).rmem = s.rmem := rfl
@[simp] theorem modFlt_staging (s : State) (f : Flt → Flt) : (modFlt s f).staging = s.staging := rfl
@[simp] theorem modFlt_regions (s : State) (f : Flt → Flt) : (modFlt s f).regions = s.regions := rfl
@[simp] theorem modFlt_parts (s : State) (f : Flt → Flt) : (modFlt s f).parts = s.parts := rfl
@[simp] theorem modFlt_poolHearth (s : State) (f : Flt → Flt) : (modFlt s f).poolHearth = s.poolHearth := rfl
@[simp] theorem modFlt_poolHob (s : State) (f : Flt → Flt) : (modFlt s f).poolHob = s.poolHob := rfl
@[simp] theorem modFlt_poolFlue (s : State) (f : Flt → Flt) : (modFlt s f).poolFlue = s.poolFlue := rfl
@[simp] theorem modFlt_sched (s : State) (f : Flt → Flt) : (modFlt s f).sched = s.sched := rfl
@[simp] theorem modFlt_warp (s : State) (f : Flt → Flt) : (modFlt s f).warp = s.warp := rfl
@[simp] theorem modFlt_ports (s : State) (f : Flt → Flt) : (modFlt s f).ports = s.ports := rfl
@[simp] theorem modFlt_fir (s : State) (f : Flt → Flt) : (modFlt s f).fir = s.fir := rfl
@[simp] theorem modFlt_spl (s : State) (f : Flt → Flt) : (modFlt s f).spl = s.spl := rfl
@[simp] theorem modFlt_stp (s : State) (f : Flt → Flt) : (modFlt s f).stp = s.stp := rfl
@[simp] theorem modFlt_treads (s : State) (f : Flt → Flt) : (modFlt s f).treads = s.treads := rfl
@[simp] theorem modFlt_tposeUsed (s : State) (f : Flt → Flt) : (modFlt s f).tposeUsed = s.tposeUsed := rfl
@[simp] theorem modFlt_smp (s : State) (f : Flt → Flt) : (modFlt s f).smp = s.smp := rfl
@[simp] theorem modFlt_str (s : State) (f : Flt → Flt) : (modFlt s f).str = s.str := rfl
@[simp] theorem modFlt_obs (s : State) (f : Flt → Flt) : (modFlt s f).obs = s.obs := rfl
@[simp] theorem modFlt_flt (s : State) (f : Flt → Flt) : (modFlt s f).flt = f s.flt := rfl
@[simp] theorem modFlt_fb (s : State) (f : Flt → Flt) : (modFlt s f).fb = s.fb := rfl
@[simp] theorem modFlt_clk (s : State) (f : Flt → Flt) : (modFlt s f).clk = s.clk := rfl
@[simp] theorem modFlt_boot (s : State) (f : Flt → Flt) : (modFlt s f).boot = s.boot := rfl
@[simp] theorem modFlt_mgmt (s : State) (f : Flt → Flt) : (modFlt s f).mgmt = s.mgmt := rfl
@[simp] theorem modFlt_regs (s : State) (f : Flt → Flt) : (modFlt s f).regs = s.regs := rfl
@[simp] theorem modFlt_sel (s : State) (f : Flt → Flt) : (modFlt s f).sel = s.sel := rfl
@[simp] theorem modFlt_shadow (s : State) (f : Flt → Flt) : (modFlt s f).shadow = s.shadow := rfl
@[simp] theorem modFlt_capt (s : State) (f : Flt → Flt) : (modFlt s f).capt = s.capt := rfl
@[simp] theorem modFlt_strm (s : State) (f : Flt → Flt) : (modFlt s f).strm = s.strm := rfl
@[simp] theorem modFlt_rdata (s : State) (f : Flt → Flt) : (modFlt s f).rdata = s.rdata := rfl

@[simp] theorem modFb_pending (s : State) (f : Fireback → Fireback) : (modFb s f).pending = s.pending := rfl
@[simp] theorem modFb_freeCtr (s : State) (f : Fireback → Fireback) : (modFb s f).freeCtr = s.freeCtr := rfl
@[simp] theorem modFb_mem (s : State) (f : Fireback → Fireback) : (modFb s f).mem = s.mem := rfl
@[simp] theorem modFb_rmem (s : State) (f : Fireback → Fireback) : (modFb s f).rmem = s.rmem := rfl
@[simp] theorem modFb_staging (s : State) (f : Fireback → Fireback) : (modFb s f).staging = s.staging := rfl
@[simp] theorem modFb_regions (s : State) (f : Fireback → Fireback) : (modFb s f).regions = s.regions := rfl
@[simp] theorem modFb_parts (s : State) (f : Fireback → Fireback) : (modFb s f).parts = s.parts := rfl
@[simp] theorem modFb_poolHearth (s : State) (f : Fireback → Fireback) : (modFb s f).poolHearth = s.poolHearth := rfl
@[simp] theorem modFb_poolHob (s : State) (f : Fireback → Fireback) : (modFb s f).poolHob = s.poolHob := rfl
@[simp] theorem modFb_poolFlue (s : State) (f : Fireback → Fireback) : (modFb s f).poolFlue = s.poolFlue := rfl
@[simp] theorem modFb_sched (s : State) (f : Fireback → Fireback) : (modFb s f).sched = s.sched := rfl
@[simp] theorem modFb_warp (s : State) (f : Fireback → Fireback) : (modFb s f).warp = s.warp := rfl
@[simp] theorem modFb_ports (s : State) (f : Fireback → Fireback) : (modFb s f).ports = s.ports := rfl
@[simp] theorem modFb_fir (s : State) (f : Fireback → Fireback) : (modFb s f).fir = s.fir := rfl
@[simp] theorem modFb_spl (s : State) (f : Fireback → Fireback) : (modFb s f).spl = s.spl := rfl
@[simp] theorem modFb_stp (s : State) (f : Fireback → Fireback) : (modFb s f).stp = s.stp := rfl
@[simp] theorem modFb_treads (s : State) (f : Fireback → Fireback) : (modFb s f).treads = s.treads := rfl
@[simp] theorem modFb_tposeUsed (s : State) (f : Fireback → Fireback) : (modFb s f).tposeUsed = s.tposeUsed := rfl
@[simp] theorem modFb_smp (s : State) (f : Fireback → Fireback) : (modFb s f).smp = s.smp := rfl
@[simp] theorem modFb_str (s : State) (f : Fireback → Fireback) : (modFb s f).str = s.str := rfl
@[simp] theorem modFb_obs (s : State) (f : Fireback → Fireback) : (modFb s f).obs = s.obs := rfl
@[simp] theorem modFb_flt (s : State) (f : Fireback → Fireback) : (modFb s f).flt = s.flt := rfl
@[simp] theorem modFb_fb (s : State) (f : Fireback → Fireback) : (modFb s f).fb = f s.fb := rfl
@[simp] theorem modFb_clk (s : State) (f : Fireback → Fireback) : (modFb s f).clk = s.clk := rfl
@[simp] theorem modFb_boot (s : State) (f : Fireback → Fireback) : (modFb s f).boot = s.boot := rfl
@[simp] theorem modFb_mgmt (s : State) (f : Fireback → Fireback) : (modFb s f).mgmt = s.mgmt := rfl
@[simp] theorem modFb_regs (s : State) (f : Fireback → Fireback) : (modFb s f).regs = s.regs := rfl
@[simp] theorem modFb_sel (s : State) (f : Fireback → Fireback) : (modFb s f).sel = s.sel := rfl
@[simp] theorem modFb_shadow (s : State) (f : Fireback → Fireback) : (modFb s f).shadow = s.shadow := rfl
@[simp] theorem modFb_capt (s : State) (f : Fireback → Fireback) : (modFb s f).capt = s.capt := rfl
@[simp] theorem modFb_strm (s : State) (f : Fireback → Fireback) : (modFb s f).strm = s.strm := rfl
@[simp] theorem modFb_rdata (s : State) (f : Fireback → Fireback) : (modFb s f).rdata = s.rdata := rfl

@[simp] theorem modClk_pending (s : State) (f : Clk → Clk) : (modClk s f).pending = s.pending := rfl
@[simp] theorem modClk_freeCtr (s : State) (f : Clk → Clk) : (modClk s f).freeCtr = s.freeCtr := rfl
@[simp] theorem modClk_mem (s : State) (f : Clk → Clk) : (modClk s f).mem = s.mem := rfl
@[simp] theorem modClk_rmem (s : State) (f : Clk → Clk) : (modClk s f).rmem = s.rmem := rfl
@[simp] theorem modClk_staging (s : State) (f : Clk → Clk) : (modClk s f).staging = s.staging := rfl
@[simp] theorem modClk_regions (s : State) (f : Clk → Clk) : (modClk s f).regions = s.regions := rfl
@[simp] theorem modClk_parts (s : State) (f : Clk → Clk) : (modClk s f).parts = s.parts := rfl
@[simp] theorem modClk_poolHearth (s : State) (f : Clk → Clk) : (modClk s f).poolHearth = s.poolHearth := rfl
@[simp] theorem modClk_poolHob (s : State) (f : Clk → Clk) : (modClk s f).poolHob = s.poolHob := rfl
@[simp] theorem modClk_poolFlue (s : State) (f : Clk → Clk) : (modClk s f).poolFlue = s.poolFlue := rfl
@[simp] theorem modClk_sched (s : State) (f : Clk → Clk) : (modClk s f).sched = s.sched := rfl
@[simp] theorem modClk_warp (s : State) (f : Clk → Clk) : (modClk s f).warp = s.warp := rfl
@[simp] theorem modClk_ports (s : State) (f : Clk → Clk) : (modClk s f).ports = s.ports := rfl
@[simp] theorem modClk_fir (s : State) (f : Clk → Clk) : (modClk s f).fir = s.fir := rfl
@[simp] theorem modClk_spl (s : State) (f : Clk → Clk) : (modClk s f).spl = s.spl := rfl
@[simp] theorem modClk_stp (s : State) (f : Clk → Clk) : (modClk s f).stp = s.stp := rfl
@[simp] theorem modClk_treads (s : State) (f : Clk → Clk) : (modClk s f).treads = s.treads := rfl
@[simp] theorem modClk_tposeUsed (s : State) (f : Clk → Clk) : (modClk s f).tposeUsed = s.tposeUsed := rfl
@[simp] theorem modClk_smp (s : State) (f : Clk → Clk) : (modClk s f).smp = s.smp := rfl
@[simp] theorem modClk_str (s : State) (f : Clk → Clk) : (modClk s f).str = s.str := rfl
@[simp] theorem modClk_obs (s : State) (f : Clk → Clk) : (modClk s f).obs = s.obs := rfl
@[simp] theorem modClk_flt (s : State) (f : Clk → Clk) : (modClk s f).flt = s.flt := rfl
@[simp] theorem modClk_fb (s : State) (f : Clk → Clk) : (modClk s f).fb = s.fb := rfl
@[simp] theorem modClk_clk (s : State) (f : Clk → Clk) : (modClk s f).clk = f s.clk := rfl
@[simp] theorem modClk_boot (s : State) (f : Clk → Clk) : (modClk s f).boot = s.boot := rfl
@[simp] theorem modClk_mgmt (s : State) (f : Clk → Clk) : (modClk s f).mgmt = s.mgmt := rfl
@[simp] theorem modClk_regs (s : State) (f : Clk → Clk) : (modClk s f).regs = s.regs := rfl
@[simp] theorem modClk_sel (s : State) (f : Clk → Clk) : (modClk s f).sel = s.sel := rfl
@[simp] theorem modClk_shadow (s : State) (f : Clk → Clk) : (modClk s f).shadow = s.shadow := rfl
@[simp] theorem modClk_capt (s : State) (f : Clk → Clk) : (modClk s f).capt = s.capt := rfl
@[simp] theorem modClk_strm (s : State) (f : Clk → Clk) : (modClk s f).strm = s.strm := rfl
@[simp] theorem modClk_rdata (s : State) (f : Clk → Clk) : (modClk s f).rdata = s.rdata := rfl

@[simp] theorem modBoot_pending (s : State) (f : Boot → Boot) : (modBoot s f).pending = s.pending := rfl
@[simp] theorem modBoot_freeCtr (s : State) (f : Boot → Boot) : (modBoot s f).freeCtr = s.freeCtr := rfl
@[simp] theorem modBoot_mem (s : State) (f : Boot → Boot) : (modBoot s f).mem = s.mem := rfl
@[simp] theorem modBoot_rmem (s : State) (f : Boot → Boot) : (modBoot s f).rmem = s.rmem := rfl
@[simp] theorem modBoot_staging (s : State) (f : Boot → Boot) : (modBoot s f).staging = s.staging := rfl
@[simp] theorem modBoot_regions (s : State) (f : Boot → Boot) : (modBoot s f).regions = s.regions := rfl
@[simp] theorem modBoot_parts (s : State) (f : Boot → Boot) : (modBoot s f).parts = s.parts := rfl
@[simp] theorem modBoot_poolHearth (s : State) (f : Boot → Boot) : (modBoot s f).poolHearth = s.poolHearth := rfl
@[simp] theorem modBoot_poolHob (s : State) (f : Boot → Boot) : (modBoot s f).poolHob = s.poolHob := rfl
@[simp] theorem modBoot_poolFlue (s : State) (f : Boot → Boot) : (modBoot s f).poolFlue = s.poolFlue := rfl
@[simp] theorem modBoot_sched (s : State) (f : Boot → Boot) : (modBoot s f).sched = s.sched := rfl
@[simp] theorem modBoot_warp (s : State) (f : Boot → Boot) : (modBoot s f).warp = s.warp := rfl
@[simp] theorem modBoot_ports (s : State) (f : Boot → Boot) : (modBoot s f).ports = s.ports := rfl
@[simp] theorem modBoot_fir (s : State) (f : Boot → Boot) : (modBoot s f).fir = s.fir := rfl
@[simp] theorem modBoot_spl (s : State) (f : Boot → Boot) : (modBoot s f).spl = s.spl := rfl
@[simp] theorem modBoot_stp (s : State) (f : Boot → Boot) : (modBoot s f).stp = s.stp := rfl
@[simp] theorem modBoot_treads (s : State) (f : Boot → Boot) : (modBoot s f).treads = s.treads := rfl
@[simp] theorem modBoot_tposeUsed (s : State) (f : Boot → Boot) : (modBoot s f).tposeUsed = s.tposeUsed := rfl
@[simp] theorem modBoot_smp (s : State) (f : Boot → Boot) : (modBoot s f).smp = s.smp := rfl
@[simp] theorem modBoot_str (s : State) (f : Boot → Boot) : (modBoot s f).str = s.str := rfl
@[simp] theorem modBoot_obs (s : State) (f : Boot → Boot) : (modBoot s f).obs = s.obs := rfl
@[simp] theorem modBoot_flt (s : State) (f : Boot → Boot) : (modBoot s f).flt = s.flt := rfl
@[simp] theorem modBoot_fb (s : State) (f : Boot → Boot) : (modBoot s f).fb = s.fb := rfl
@[simp] theorem modBoot_clk (s : State) (f : Boot → Boot) : (modBoot s f).clk = s.clk := rfl
@[simp] theorem modBoot_boot (s : State) (f : Boot → Boot) : (modBoot s f).boot = f s.boot := rfl
@[simp] theorem modBoot_mgmt (s : State) (f : Boot → Boot) : (modBoot s f).mgmt = s.mgmt := rfl
@[simp] theorem modBoot_regs (s : State) (f : Boot → Boot) : (modBoot s f).regs = s.regs := rfl
@[simp] theorem modBoot_sel (s : State) (f : Boot → Boot) : (modBoot s f).sel = s.sel := rfl
@[simp] theorem modBoot_shadow (s : State) (f : Boot → Boot) : (modBoot s f).shadow = s.shadow := rfl
@[simp] theorem modBoot_capt (s : State) (f : Boot → Boot) : (modBoot s f).capt = s.capt := rfl
@[simp] theorem modBoot_strm (s : State) (f : Boot → Boot) : (modBoot s f).strm = s.strm := rfl
@[simp] theorem modBoot_rdata (s : State) (f : Boot → Boot) : (modBoot s f).rdata = s.rdata := rfl

@[simp] theorem modFir_pending (s : State) (f : Fir → Fir) : (modFir s f).pending = s.pending := rfl
@[simp] theorem modFir_freeCtr (s : State) (f : Fir → Fir) : (modFir s f).freeCtr = s.freeCtr := rfl
@[simp] theorem modFir_mem (s : State) (f : Fir → Fir) : (modFir s f).mem = s.mem := rfl
@[simp] theorem modFir_rmem (s : State) (f : Fir → Fir) : (modFir s f).rmem = s.rmem := rfl
@[simp] theorem modFir_staging (s : State) (f : Fir → Fir) : (modFir s f).staging = s.staging := rfl
@[simp] theorem modFir_regions (s : State) (f : Fir → Fir) : (modFir s f).regions = s.regions := rfl
@[simp] theorem modFir_parts (s : State) (f : Fir → Fir) : (modFir s f).parts = s.parts := rfl
@[simp] theorem modFir_poolHearth (s : State) (f : Fir → Fir) : (modFir s f).poolHearth = s.poolHearth := rfl
@[simp] theorem modFir_poolHob (s : State) (f : Fir → Fir) : (modFir s f).poolHob = s.poolHob := rfl
@[simp] theorem modFir_poolFlue (s : State) (f : Fir → Fir) : (modFir s f).poolFlue = s.poolFlue := rfl
@[simp] theorem modFir_sched (s : State) (f : Fir → Fir) : (modFir s f).sched = s.sched := rfl
@[simp] theorem modFir_warp (s : State) (f : Fir → Fir) : (modFir s f).warp = s.warp := rfl
@[simp] theorem modFir_ports (s : State) (f : Fir → Fir) : (modFir s f).ports = s.ports := rfl
@[simp] theorem modFir_fir (s : State) (f : Fir → Fir) : (modFir s f).fir = f s.fir := rfl
@[simp] theorem modFir_spl (s : State) (f : Fir → Fir) : (modFir s f).spl = s.spl := rfl
@[simp] theorem modFir_stp (s : State) (f : Fir → Fir) : (modFir s f).stp = s.stp := rfl
@[simp] theorem modFir_treads (s : State) (f : Fir → Fir) : (modFir s f).treads = s.treads := rfl
@[simp] theorem modFir_tposeUsed (s : State) (f : Fir → Fir) : (modFir s f).tposeUsed = s.tposeUsed := rfl
@[simp] theorem modFir_smp (s : State) (f : Fir → Fir) : (modFir s f).smp = s.smp := rfl
@[simp] theorem modFir_str (s : State) (f : Fir → Fir) : (modFir s f).str = s.str := rfl
@[simp] theorem modFir_obs (s : State) (f : Fir → Fir) : (modFir s f).obs = s.obs := rfl
@[simp] theorem modFir_flt (s : State) (f : Fir → Fir) : (modFir s f).flt = s.flt := rfl
@[simp] theorem modFir_fb (s : State) (f : Fir → Fir) : (modFir s f).fb = s.fb := rfl
@[simp] theorem modFir_clk (s : State) (f : Fir → Fir) : (modFir s f).clk = s.clk := rfl
@[simp] theorem modFir_boot (s : State) (f : Fir → Fir) : (modFir s f).boot = s.boot := rfl
@[simp] theorem modFir_mgmt (s : State) (f : Fir → Fir) : (modFir s f).mgmt = s.mgmt := rfl
@[simp] theorem modFir_regs (s : State) (f : Fir → Fir) : (modFir s f).regs = s.regs := rfl
@[simp] theorem modFir_sel (s : State) (f : Fir → Fir) : (modFir s f).sel = s.sel := rfl
@[simp] theorem modFir_shadow (s : State) (f : Fir → Fir) : (modFir s f).shadow = s.shadow := rfl
@[simp] theorem modFir_capt (s : State) (f : Fir → Fir) : (modFir s f).capt = s.capt := rfl
@[simp] theorem modFir_strm (s : State) (f : Fir → Fir) : (modFir s f).strm = s.strm := rfl
@[simp] theorem modFir_rdata (s : State) (f : Fir → Fir) : (modFir s f).rdata = s.rdata := rfl

@[simp] theorem modSpl_pending (s : State) (f : Spl → Spl) : (modSpl s f).pending = s.pending := rfl
@[simp] theorem modSpl_freeCtr (s : State) (f : Spl → Spl) : (modSpl s f).freeCtr = s.freeCtr := rfl
@[simp] theorem modSpl_mem (s : State) (f : Spl → Spl) : (modSpl s f).mem = s.mem := rfl
@[simp] theorem modSpl_rmem (s : State) (f : Spl → Spl) : (modSpl s f).rmem = s.rmem := rfl
@[simp] theorem modSpl_staging (s : State) (f : Spl → Spl) : (modSpl s f).staging = s.staging := rfl
@[simp] theorem modSpl_regions (s : State) (f : Spl → Spl) : (modSpl s f).regions = s.regions := rfl
@[simp] theorem modSpl_parts (s : State) (f : Spl → Spl) : (modSpl s f).parts = s.parts := rfl
@[simp] theorem modSpl_poolHearth (s : State) (f : Spl → Spl) : (modSpl s f).poolHearth = s.poolHearth := rfl
@[simp] theorem modSpl_poolHob (s : State) (f : Spl → Spl) : (modSpl s f).poolHob = s.poolHob := rfl
@[simp] theorem modSpl_poolFlue (s : State) (f : Spl → Spl) : (modSpl s f).poolFlue = s.poolFlue := rfl
@[simp] theorem modSpl_sched (s : State) (f : Spl → Spl) : (modSpl s f).sched = s.sched := rfl
@[simp] theorem modSpl_warp (s : State) (f : Spl → Spl) : (modSpl s f).warp = s.warp := rfl
@[simp] theorem modSpl_ports (s : State) (f : Spl → Spl) : (modSpl s f).ports = s.ports := rfl
@[simp] theorem modSpl_fir (s : State) (f : Spl → Spl) : (modSpl s f).fir = s.fir := rfl
@[simp] theorem modSpl_spl (s : State) (f : Spl → Spl) : (modSpl s f).spl = f s.spl := rfl
@[simp] theorem modSpl_stp (s : State) (f : Spl → Spl) : (modSpl s f).stp = s.stp := rfl
@[simp] theorem modSpl_treads (s : State) (f : Spl → Spl) : (modSpl s f).treads = s.treads := rfl
@[simp] theorem modSpl_tposeUsed (s : State) (f : Spl → Spl) : (modSpl s f).tposeUsed = s.tposeUsed := rfl
@[simp] theorem modSpl_smp (s : State) (f : Spl → Spl) : (modSpl s f).smp = s.smp := rfl
@[simp] theorem modSpl_str (s : State) (f : Spl → Spl) : (modSpl s f).str = s.str := rfl
@[simp] theorem modSpl_obs (s : State) (f : Spl → Spl) : (modSpl s f).obs = s.obs := rfl
@[simp] theorem modSpl_flt (s : State) (f : Spl → Spl) : (modSpl s f).flt = s.flt := rfl
@[simp] theorem modSpl_fb (s : State) (f : Spl → Spl) : (modSpl s f).fb = s.fb := rfl
@[simp] theorem modSpl_clk (s : State) (f : Spl → Spl) : (modSpl s f).clk = s.clk := rfl
@[simp] theorem modSpl_boot (s : State) (f : Spl → Spl) : (modSpl s f).boot = s.boot := rfl
@[simp] theorem modSpl_mgmt (s : State) (f : Spl → Spl) : (modSpl s f).mgmt = s.mgmt := rfl
@[simp] theorem modSpl_regs (s : State) (f : Spl → Spl) : (modSpl s f).regs = s.regs := rfl
@[simp] theorem modSpl_sel (s : State) (f : Spl → Spl) : (modSpl s f).sel = s.sel := rfl
@[simp] theorem modSpl_shadow (s : State) (f : Spl → Spl) : (modSpl s f).shadow = s.shadow := rfl
@[simp] theorem modSpl_capt (s : State) (f : Spl → Spl) : (modSpl s f).capt = s.capt := rfl
@[simp] theorem modSpl_strm (s : State) (f : Spl → Spl) : (modSpl s f).strm = s.strm := rfl
@[simp] theorem modSpl_rdata (s : State) (f : Spl → Spl) : (modSpl s f).rdata = s.rdata := rfl

@[simp] theorem modStp_pending (s : State) (f : Step → Step) : (modStp s f).pending = s.pending := rfl
@[simp] theorem modStp_freeCtr (s : State) (f : Step → Step) : (modStp s f).freeCtr = s.freeCtr := rfl
@[simp] theorem modStp_mem (s : State) (f : Step → Step) : (modStp s f).mem = s.mem := rfl
@[simp] theorem modStp_rmem (s : State) (f : Step → Step) : (modStp s f).rmem = s.rmem := rfl
@[simp] theorem modStp_staging (s : State) (f : Step → Step) : (modStp s f).staging = s.staging := rfl
@[simp] theorem modStp_regions (s : State) (f : Step → Step) : (modStp s f).regions = s.regions := rfl
@[simp] theorem modStp_parts (s : State) (f : Step → Step) : (modStp s f).parts = s.parts := rfl
@[simp] theorem modStp_poolHearth (s : State) (f : Step → Step) : (modStp s f).poolHearth = s.poolHearth := rfl
@[simp] theorem modStp_poolHob (s : State) (f : Step → Step) : (modStp s f).poolHob = s.poolHob := rfl
@[simp] theorem modStp_poolFlue (s : State) (f : Step → Step) : (modStp s f).poolFlue = s.poolFlue := rfl
@[simp] theorem modStp_sched (s : State) (f : Step → Step) : (modStp s f).sched = s.sched := rfl
@[simp] theorem modStp_warp (s : State) (f : Step → Step) : (modStp s f).warp = s.warp := rfl
@[simp] theorem modStp_ports (s : State) (f : Step → Step) : (modStp s f).ports = s.ports := rfl
@[simp] theorem modStp_fir (s : State) (f : Step → Step) : (modStp s f).fir = s.fir := rfl
@[simp] theorem modStp_spl (s : State) (f : Step → Step) : (modStp s f).spl = s.spl := rfl
@[simp] theorem modStp_stp (s : State) (f : Step → Step) : (modStp s f).stp = f s.stp := rfl
@[simp] theorem modStp_treads (s : State) (f : Step → Step) : (modStp s f).treads = s.treads := rfl
@[simp] theorem modStp_tposeUsed (s : State) (f : Step → Step) : (modStp s f).tposeUsed = s.tposeUsed := rfl
@[simp] theorem modStp_smp (s : State) (f : Step → Step) : (modStp s f).smp = s.smp := rfl
@[simp] theorem modStp_str (s : State) (f : Step → Step) : (modStp s f).str = s.str := rfl
@[simp] theorem modStp_obs (s : State) (f : Step → Step) : (modStp s f).obs = s.obs := rfl
@[simp] theorem modStp_flt (s : State) (f : Step → Step) : (modStp s f).flt = s.flt := rfl
@[simp] theorem modStp_fb (s : State) (f : Step → Step) : (modStp s f).fb = s.fb := rfl
@[simp] theorem modStp_clk (s : State) (f : Step → Step) : (modStp s f).clk = s.clk := rfl
@[simp] theorem modStp_boot (s : State) (f : Step → Step) : (modStp s f).boot = s.boot := rfl
@[simp] theorem modStp_mgmt (s : State) (f : Step → Step) : (modStp s f).mgmt = s.mgmt := rfl
@[simp] theorem modStp_regs (s : State) (f : Step → Step) : (modStp s f).regs = s.regs := rfl
@[simp] theorem modStp_sel (s : State) (f : Step → Step) : (modStp s f).sel = s.sel := rfl
@[simp] theorem modStp_shadow (s : State) (f : Step → Step) : (modStp s f).shadow = s.shadow := rfl
@[simp] theorem modStp_capt (s : State) (f : Step → Step) : (modStp s f).capt = s.capt := rfl
@[simp] theorem modStp_strm (s : State) (f : Step → Step) : (modStp s f).strm = s.strm := rfl
@[simp] theorem modStp_rdata (s : State) (f : Step → Step) : (modStp s f).rdata = s.rdata := rfl

@[simp] theorem modSmp_pending (s : State) (f : Sampler → Sampler) : (modSmp s f).pending = s.pending := rfl
@[simp] theorem modSmp_freeCtr (s : State) (f : Sampler → Sampler) : (modSmp s f).freeCtr = s.freeCtr := rfl
@[simp] theorem modSmp_mem (s : State) (f : Sampler → Sampler) : (modSmp s f).mem = s.mem := rfl
@[simp] theorem modSmp_rmem (s : State) (f : Sampler → Sampler) : (modSmp s f).rmem = s.rmem := rfl
@[simp] theorem modSmp_staging (s : State) (f : Sampler → Sampler) : (modSmp s f).staging = s.staging := rfl
@[simp] theorem modSmp_regions (s : State) (f : Sampler → Sampler) : (modSmp s f).regions = s.regions := rfl
@[simp] theorem modSmp_parts (s : State) (f : Sampler → Sampler) : (modSmp s f).parts = s.parts := rfl
@[simp] theorem modSmp_poolHearth (s : State) (f : Sampler → Sampler) : (modSmp s f).poolHearth = s.poolHearth := rfl
@[simp] theorem modSmp_poolHob (s : State) (f : Sampler → Sampler) : (modSmp s f).poolHob = s.poolHob := rfl
@[simp] theorem modSmp_poolFlue (s : State) (f : Sampler → Sampler) : (modSmp s f).poolFlue = s.poolFlue := rfl
@[simp] theorem modSmp_sched (s : State) (f : Sampler → Sampler) : (modSmp s f).sched = s.sched := rfl
@[simp] theorem modSmp_warp (s : State) (f : Sampler → Sampler) : (modSmp s f).warp = s.warp := rfl
@[simp] theorem modSmp_ports (s : State) (f : Sampler → Sampler) : (modSmp s f).ports = s.ports := rfl
@[simp] theorem modSmp_fir (s : State) (f : Sampler → Sampler) : (modSmp s f).fir = s.fir := rfl
@[simp] theorem modSmp_spl (s : State) (f : Sampler → Sampler) : (modSmp s f).spl = s.spl := rfl
@[simp] theorem modSmp_stp (s : State) (f : Sampler → Sampler) : (modSmp s f).stp = s.stp := rfl
@[simp] theorem modSmp_treads (s : State) (f : Sampler → Sampler) : (modSmp s f).treads = s.treads := rfl
@[simp] theorem modSmp_tposeUsed (s : State) (f : Sampler → Sampler) : (modSmp s f).tposeUsed = s.tposeUsed := rfl
@[simp] theorem modSmp_smp (s : State) (f : Sampler → Sampler) : (modSmp s f).smp = f s.smp := rfl
@[simp] theorem modSmp_str (s : State) (f : Sampler → Sampler) : (modSmp s f).str = s.str := rfl
@[simp] theorem modSmp_obs (s : State) (f : Sampler → Sampler) : (modSmp s f).obs = s.obs := rfl
@[simp] theorem modSmp_flt (s : State) (f : Sampler → Sampler) : (modSmp s f).flt = s.flt := rfl
@[simp] theorem modSmp_fb (s : State) (f : Sampler → Sampler) : (modSmp s f).fb = s.fb := rfl
@[simp] theorem modSmp_clk (s : State) (f : Sampler → Sampler) : (modSmp s f).clk = s.clk := rfl
@[simp] theorem modSmp_boot (s : State) (f : Sampler → Sampler) : (modSmp s f).boot = s.boot := rfl
@[simp] theorem modSmp_mgmt (s : State) (f : Sampler → Sampler) : (modSmp s f).mgmt = s.mgmt := rfl
@[simp] theorem modSmp_regs (s : State) (f : Sampler → Sampler) : (modSmp s f).regs = s.regs := rfl
@[simp] theorem modSmp_sel (s : State) (f : Sampler → Sampler) : (modSmp s f).sel = s.sel := rfl
@[simp] theorem modSmp_shadow (s : State) (f : Sampler → Sampler) : (modSmp s f).shadow = s.shadow := rfl
@[simp] theorem modSmp_capt (s : State) (f : Sampler → Sampler) : (modSmp s f).capt = s.capt := rfl
@[simp] theorem modSmp_strm (s : State) (f : Sampler → Sampler) : (modSmp s f).strm = s.strm := rfl
@[simp] theorem modSmp_rdata (s : State) (f : Sampler → Sampler) : (modSmp s f).rdata = s.rdata := rfl

@[simp] theorem modStr_pending (s : State) (f : Streams → Streams) : (modStr s f).pending = s.pending := rfl
@[simp] theorem modStr_freeCtr (s : State) (f : Streams → Streams) : (modStr s f).freeCtr = s.freeCtr := rfl
@[simp] theorem modStr_mem (s : State) (f : Streams → Streams) : (modStr s f).mem = s.mem := rfl
@[simp] theorem modStr_rmem (s : State) (f : Streams → Streams) : (modStr s f).rmem = s.rmem := rfl
@[simp] theorem modStr_staging (s : State) (f : Streams → Streams) : (modStr s f).staging = s.staging := rfl
@[simp] theorem modStr_regions (s : State) (f : Streams → Streams) : (modStr s f).regions = s.regions := rfl
@[simp] theorem modStr_parts (s : State) (f : Streams → Streams) : (modStr s f).parts = s.parts := rfl
@[simp] theorem modStr_poolHearth (s : State) (f : Streams → Streams) : (modStr s f).poolHearth = s.poolHearth := rfl
@[simp] theorem modStr_poolHob (s : State) (f : Streams → Streams) : (modStr s f).poolHob = s.poolHob := rfl
@[simp] theorem modStr_poolFlue (s : State) (f : Streams → Streams) : (modStr s f).poolFlue = s.poolFlue := rfl
@[simp] theorem modStr_sched (s : State) (f : Streams → Streams) : (modStr s f).sched = s.sched := rfl
@[simp] theorem modStr_warp (s : State) (f : Streams → Streams) : (modStr s f).warp = s.warp := rfl
@[simp] theorem modStr_ports (s : State) (f : Streams → Streams) : (modStr s f).ports = s.ports := rfl
@[simp] theorem modStr_fir (s : State) (f : Streams → Streams) : (modStr s f).fir = s.fir := rfl
@[simp] theorem modStr_spl (s : State) (f : Streams → Streams) : (modStr s f).spl = s.spl := rfl
@[simp] theorem modStr_stp (s : State) (f : Streams → Streams) : (modStr s f).stp = s.stp := rfl
@[simp] theorem modStr_treads (s : State) (f : Streams → Streams) : (modStr s f).treads = s.treads := rfl
@[simp] theorem modStr_tposeUsed (s : State) (f : Streams → Streams) : (modStr s f).tposeUsed = s.tposeUsed := rfl
@[simp] theorem modStr_smp (s : State) (f : Streams → Streams) : (modStr s f).smp = s.smp := rfl
@[simp] theorem modStr_str (s : State) (f : Streams → Streams) : (modStr s f).str = f s.str := rfl
@[simp] theorem modStr_obs (s : State) (f : Streams → Streams) : (modStr s f).obs = s.obs := rfl
@[simp] theorem modStr_flt (s : State) (f : Streams → Streams) : (modStr s f).flt = s.flt := rfl
@[simp] theorem modStr_fb (s : State) (f : Streams → Streams) : (modStr s f).fb = s.fb := rfl
@[simp] theorem modStr_clk (s : State) (f : Streams → Streams) : (modStr s f).clk = s.clk := rfl
@[simp] theorem modStr_boot (s : State) (f : Streams → Streams) : (modStr s f).boot = s.boot := rfl
@[simp] theorem modStr_mgmt (s : State) (f : Streams → Streams) : (modStr s f).mgmt = s.mgmt := rfl
@[simp] theorem modStr_regs (s : State) (f : Streams → Streams) : (modStr s f).regs = s.regs := rfl
@[simp] theorem modStr_sel (s : State) (f : Streams → Streams) : (modStr s f).sel = s.sel := rfl
@[simp] theorem modStr_shadow (s : State) (f : Streams → Streams) : (modStr s f).shadow = s.shadow := rfl
@[simp] theorem modStr_capt (s : State) (f : Streams → Streams) : (modStr s f).capt = s.capt := rfl
@[simp] theorem modStr_strm (s : State) (f : Streams → Streams) : (modStr s f).strm = s.strm := rfl
@[simp] theorem modStr_rdata (s : State) (f : Streams → Streams) : (modStr s f).rdata = s.rdata := rfl

@[simp] theorem modMgmt_pending (s : State) (f : Mgmt → Mgmt) : (modMgmt s f).pending = s.pending := rfl
@[simp] theorem modMgmt_freeCtr (s : State) (f : Mgmt → Mgmt) : (modMgmt s f).freeCtr = s.freeCtr := rfl
@[simp] theorem modMgmt_mem (s : State) (f : Mgmt → Mgmt) : (modMgmt s f).mem = s.mem := rfl
@[simp] theorem modMgmt_rmem (s : State) (f : Mgmt → Mgmt) : (modMgmt s f).rmem = s.rmem := rfl
@[simp] theorem modMgmt_staging (s : State) (f : Mgmt → Mgmt) : (modMgmt s f).staging = s.staging := rfl
@[simp] theorem modMgmt_regions (s : State) (f : Mgmt → Mgmt) : (modMgmt s f).regions = s.regions := rfl
@[simp] theorem modMgmt_parts (s : State) (f : Mgmt → Mgmt) : (modMgmt s f).parts = s.parts := rfl
@[simp] theorem modMgmt_poolHearth (s : State) (f : Mgmt → Mgmt) : (modMgmt s f).poolHearth = s.poolHearth := rfl
@[simp] theorem modMgmt_poolHob (s : State) (f : Mgmt → Mgmt) : (modMgmt s f).poolHob = s.poolHob := rfl
@[simp] theorem modMgmt_poolFlue (s : State) (f : Mgmt → Mgmt) : (modMgmt s f).poolFlue = s.poolFlue := rfl
@[simp] theorem modMgmt_sched (s : State) (f : Mgmt → Mgmt) : (modMgmt s f).sched = s.sched := rfl
@[simp] theorem modMgmt_warp (s : State) (f : Mgmt → Mgmt) : (modMgmt s f).warp = s.warp := rfl
@[simp] theorem modMgmt_ports (s : State) (f : Mgmt → Mgmt) : (modMgmt s f).ports = s.ports := rfl
@[simp] theorem modMgmt_fir (s : State) (f : Mgmt → Mgmt) : (modMgmt s f).fir = s.fir := rfl
@[simp] theorem modMgmt_spl (s : State) (f : Mgmt → Mgmt) : (modMgmt s f).spl = s.spl := rfl
@[simp] theorem modMgmt_stp (s : State) (f : Mgmt → Mgmt) : (modMgmt s f).stp = s.stp := rfl
@[simp] theorem modMgmt_treads (s : State) (f : Mgmt → Mgmt) : (modMgmt s f).treads = s.treads := rfl
@[simp] theorem modMgmt_tposeUsed (s : State) (f : Mgmt → Mgmt) : (modMgmt s f).tposeUsed = s.tposeUsed := rfl
@[simp] theorem modMgmt_smp (s : State) (f : Mgmt → Mgmt) : (modMgmt s f).smp = s.smp := rfl
@[simp] theorem modMgmt_str (s : State) (f : Mgmt → Mgmt) : (modMgmt s f).str = s.str := rfl
@[simp] theorem modMgmt_obs (s : State) (f : Mgmt → Mgmt) : (modMgmt s f).obs = s.obs := rfl
@[simp] theorem modMgmt_flt (s : State) (f : Mgmt → Mgmt) : (modMgmt s f).flt = s.flt := rfl
@[simp] theorem modMgmt_fb (s : State) (f : Mgmt → Mgmt) : (modMgmt s f).fb = s.fb := rfl
@[simp] theorem modMgmt_clk (s : State) (f : Mgmt → Mgmt) : (modMgmt s f).clk = s.clk := rfl
@[simp] theorem modMgmt_boot (s : State) (f : Mgmt → Mgmt) : (modMgmt s f).boot = s.boot := rfl
@[simp] theorem modMgmt_mgmt (s : State) (f : Mgmt → Mgmt) : (modMgmt s f).mgmt = f s.mgmt := rfl
@[simp] theorem modMgmt_regs (s : State) (f : Mgmt → Mgmt) : (modMgmt s f).regs = s.regs := rfl
@[simp] theorem modMgmt_sel (s : State) (f : Mgmt → Mgmt) : (modMgmt s f).sel = s.sel := rfl
@[simp] theorem modMgmt_shadow (s : State) (f : Mgmt → Mgmt) : (modMgmt s f).shadow = s.shadow := rfl
@[simp] theorem modMgmt_capt (s : State) (f : Mgmt → Mgmt) : (modMgmt s f).capt = s.capt := rfl
@[simp] theorem modMgmt_strm (s : State) (f : Mgmt → Mgmt) : (modMgmt s f).strm = s.strm := rfl
@[simp] theorem modMgmt_rdata (s : State) (f : Mgmt → Mgmt) : (modMgmt s f).rdata = s.rdata := rfl

/-- A command that is acted on leaves the queue behind it alone. -/
theorem act_next {s t : State} {f : State → State} (h : act s f = .next t) : t = { f s with pending := s.pending } := by
  cases h; rfl

end Sys2Proof.Laws
end

