-- ==== Sys2Proof/Laws/LaneRun.lean ====
section
/-! SUPPORT. What issuing an instruction of a hob does, and what the shared run of a lane instruction does. -/

namespace Sys2Proof.Laws
open Sys2Proof.Machine Sys2Proof.Safety

/-- The state in which a hob executes its instruction differs from the one before at most in that hob (R72). -/
theorem afterHob_readied (s : State) (n w : Nat) (h : Hob) : afterHob (readied s n w) n h = afterHob s n h := by
  unfold readied; split
  · rfl
  · simp [afterHob, setHob, modFir]

/-- A hob that issues a word of the opcode does the body on it. -/
theorem hobIssue_issues {s : State} {n w k : Nat} {x : Firing} (h : Issues s n w k x) (body : HC → State) :
    hobIssue s n (iOpc w) body = body ⟨readied s n w, n, found s n w, w, k, x⟩ := by
  obtain ⟨h1, h2, h0, h3, h4, h5, h6, h7, h8, h9⟩ := h
  obtain ⟨wd, hw, rfl⟩ := Option.map_eq_some_iff.mp h6
  simp only [hobIssue, h1, h2, h0, h3, h4, h5, hw, h7, h8, h9, bne_self_eq_false, Bool.not_true, Bool.or_self, Bool.false_eq_true, if_false]

/-- The hob's next state when an instruction only replaces the hob. -/
theorem act_put (s : State) (n w k : Nat) (x : Firing) (h : Hob) :
    act s (fun _ => HC.put ⟨readied s n w, n, found s n w, w, k, x⟩ h)
      = .next (afterHob s n { h with pc := (found s n w).pc + 1 }) := by
  have : HC.put ⟨readied s n w, n, found s n w, w, k, x⟩ h = afterHob (readied s n w) n { h with pc := (found s n w).pc + 1 } := rfl
  rw [act, this, afterHob_readied]; rfl

theorem testBit_orFold {α : Type} (F : α → Nat) (l : List α) (a i : Nat) :
    (l.foldl (fun a r => a ||| F r) a).testBit i = (a.testBit i || l.any fun r => (F r).testBit i) := by
  induction l generalizing a with
  | nil => simp
  | cons x l ih => simp [ih, Nat.testBit_or, Bool.or_assoc]

theorem getLsbD_raise (h : Hob) (fl i : Nat) (hi : i < 32) :
    (raise h fl).sticky.getLsbD i = (h.sticky.getLsbD i || (decide (i % 16 < 7) && fl.testBit (i % 16))) := by
  have hm : fl % 128 * 0x10001 = (fl % 128) <<< 16 ||| fl % 128 := by
    rw [← Nat.shiftLeft_add_eq_or_of_lt (by omega : fl % 128 < 2 ^ 16), Nat.shiftLeft_eq]; omega
  simp only [raise, BitVec.getLsbD_or, BitVec.getLsbD_ofNat, hi, decide_true, Bool.true_and]
  rw [hm]
  simp only [Nat.testBit_or, Nat.testBit_shiftLeft, show (128 : Nat) = 2 ^ 7 from rfl, Nat.testBit_mod_two_pow]
  congr 1
  rcases Nat.lt_or_ge i 16 with h16 | h16
  · have : i % 16 = i := by omega
    have h2 : ¬ (i ≥ 16) := by omega
    simp [this, h2]
  · have : i % 16 = i - 16 := by omega
    have h3 : ¬ (i < 7) := by omega
    simp [this, h16, h3]

theorem poisonOut_frame (h : Hob) (r n : Nat) :
    ∃ vr, poisonOut h r n = { h with vr := vr, sticky := h.sticky ||| 0x00200020 } := by
  obtain ⟨vr, hv⟩ := writes_frame (fun _ => ⟨0, true⟩) h r n
  have e : (rangeFrom r n).foldl (fun g i => setVReg g i ⟨0, true⟩) h = { h with vr := vr } := by
    rw [rangeFrom, List.foldl_map]; exact hv
  exact ⟨vr, by rw [poisonOut, e]; rfl⟩

theorem hobOf_afterHob (s : State) (n : Nat) (h : Hob) : hobOf (afterHob s n h) n = h := by
  simp [hobOf, afterHob]

theorem hobOf_lane (c : HC) (ev : Nat) (h : Hob) : hobOf (c.lane ev h) c.n = { h with pc := c.h.pc + 1 } := by
  simp [HC.lane, chargeLane, HC.put, setHob, hobOf]

/-- An instruction of hob `n` on the state that `readied` gives: what it carries agrees with `s`. -/
def Carries (s : State) (c : HC) : Prop := c.s = readied s c.n c.w ∧ c.h = found s c.n c.w

theorem lane_eq {s : State} {c : HC} (hc : Carries s c) (ev : Nat) (h : Hob) :
    c.lane ev h = chargeLane (afterHob s c.n { h with pc := c.h.pc + 1 }) (1 + ev) := by
  rw [← afterHob_readied s c.n c.w, ← hc.1]; rfl

theorem lane_poison_effect {s : State} (c : HC) (srcs : List Nat) (dst n lanes pos ev : Nat) (bit : Nat → Bool) (fn : Nat → Nat × Nat)
    (hc : Carries s c) (hpo : srcs.any (fun r => (vReg c.h r).poison) = true) :
    LaneEffectAt s (c.lane ev (poisonOut c.h (iVD c.w) n)) c.n c.w srcs dst n lanes pos ev bit fn := by
  have hh := hc.2
  obtain ⟨vr, hfr⟩ := poisonOut_frame c.h (iVD c.w) n
  have hreg : ∀ r, vReg (hobOf (c.lane ev (poisonOut c.h (iVD c.w) n)) c.n) r = vReg (poisonOut c.h (iVD c.w) n) r := by
    intro r; rw [hobOf_lane]; rfl
  refine ⟨?_, ?_, ?_, ?_, ?_⟩
  · rw [hobOf_lane, lane_eq hc]
  · simp only [hobOf_lane, ← hh, hfr]
  · intro r hr
    rw [hreg, vReg_poisonOut, if_neg (by omega), hh]
  · intro _
    refine ⟨fun i hi => ?_, ?_⟩
    · rw [hreg, vReg_poisonOut, if_pos (by omega)]
    · rw [hobOf_lane, ← hh, hfr]
  · intro hno; rw [← hh, hpo] at hno; exact absurd hno (by simp)

/-- The results of the lanes that take part under the predicate bits `bit`. -/
def bitRes (w lanes : Nat) (bit : Nat → Bool) (f : Nat → Nat × Nat) : List (Option (Nat × Nat)) :=
  (List.range lanes).map fun k => if iP w && !(bit k) then none else some (f k)

theorem laneRes_eq (h : Hob) (w lanes : Nat) (f : Nat → Nat × Nat) :
    laneRes h w lanes f = bitRes w lanes (fun k => predBit h k lanes) f := rfl

theorem resEl_bitRes (w lanes : Nat) (bit : Nat → Bool) (f : Nat → Nat × Nat) (k : Nat) :
    resEl (bitRes w lanes bit f) k = if k < lanes ∧ live w bit k = true then some (f k).1 else none := by
  unfold resEl bitRes
  rw [List.getElem?_map]
  by_cases hk : k < lanes
  · rw [List.getElem?_range hk, Option.map_some, live]
    cases iP w <;> cases bit k <;> simp [hk]
  · rw [List.getElem?_eq_none (by simpa using hk)]
    simp [hk]

theorem testBit_resFlags (w lanes : Nat) (bit : Nat → Bool) (f : Nat → Nat × Nat) (i : Nat) :
    (resFlags (bitRes w lanes bit f)).testBit i = (List.range lanes).any fun k => live w bit k && (f k).2.testBit i := by
  rw [resFlags, testBit_orFold, bitRes, List.any_map, Nat.zero_testBit, Bool.false_or]
  congr 1; funext k
  simp only [Function.comp_def, live]
  cases iP w <;> cases bit k <;> simp

theorem lane_write_effect {s : State} (c : HC) (srcs : List Nat) (dst n lanes pos ev : Nat) (bit : Nat → Bool) (fn : Nat → Nat × Nat)
    (hc : Carries s c) (hp : 0 < elsPer dst) (hw : elsPer dst * elBits dst ≤ 256)
    (hpo : srcs.any (fun r => (vReg c.h r).poison) = false) :
    LaneEffectAt s (c.lane ev (raise (writeEls c.h dst (iVD c.w) n fun k =>
        if k < pos then none else resEl (bitRes c.w lanes bit fn) (k - pos)) (resFlags (bitRes c.w lanes bit fn))))
      c.n c.w srcs dst n lanes pos ev bit fn := by
  have hh := hc.2
  generalize hF : (fun k => if k < pos then none else resEl (bitRes c.w lanes bit fn) (k - pos)) = F
  have hFv : ∀ e, F e = if writesEl c.w bit lanes pos e = true then some (fn (e - pos)).1 else none := by
    intro e
    rw [← hF]; simp only [resEl_bitRes, writesEl]
    by_cases h1 : e < pos
    · rw [if_pos h1]; simp [Nat.not_le.mpr h1]
    · rw [if_neg h1]
      have : (e - pos < lanes) = (e < pos + lanes) := by apply propext; omega
      simp [Nat.not_lt.mp h1, this]
  generalize hfl : resFlags (bitRes c.w lanes bit fn) = fl
  obtain ⟨vr, hvr⟩ := writeEls_frame c.h dst (iVD c.w) n F
  have hreg : ∀ q, vReg (hobOf (c.lane ev (raise (writeEls c.h dst (iVD c.w) n F) fl)) c.n) q
      = if iVD c.w ≤ q ∧ q < iVD c.w + n then wrote c.h dst (iVD c.w) (q - iVD c.w) F else vReg c.h q := by
    intro q; rw [hobOf_lane, ← vReg_writeEls]; rfl
  have hkeep : ∀ i, ((List.range (elsPer dst)).any fun k => (F (i * elsPer dst + k)).isNone)
      = keeps c.w bit lanes pos dst i := by
    intro i
    unfold keeps; congr 1; funext j
    rw [hFv]
    cases writesEl c.w bit lanes pos (i * elsPer dst + j) <;> simp
  refine ⟨?_, ?_, ?_, ?_, ?_⟩
  · rw [hobOf_lane, lane_eq hc]
  · simp only [hobOf_lane, ← hh]
    rw [hvr]; simp [raise]
  · intro r hr
    rw [hreg, if_neg (by omega), hh]
  · intro hno; rw [← hh, hpo] at hno; exact absurd hno (by simp)
  · intro _
    refine ⟨fun i hi => ?_, fun e he => ?_, fun i hi => ?_⟩
    · rw [hreg, if_pos (by omega), ← hh, Nat.add_sub_cancel_left, wrote, hkeep]
      split
      · rename_i h1; rw [h1]
      · rename_i h1; rw [Bool.eq_false_iff.mpr h1]
    · have hkn : e / elsPer dst < n := Nat.div_lt_of_lt_mul (by rw [Nat.mul_comm]; exact he)
      have hjl : e % elsPer dst < elsPer dst := Nat.mod_lt _ hp
      have hdm : e / elsPer dst * elsPer dst + e % elsPer dst = e := Nat.div_add_mod' e _
      rw [laneEl, hreg, if_pos ⟨Nat.le_add_right _ _, Nat.add_lt_add_left hkn _⟩, ← hh, Nat.add_sub_cancel_left]
      by_cases hk : (keeps c.w bit lanes pos dst (e / elsPer dst) && (vReg c.h (iVD c.w + e / elsPer dst)).poison) = true
      · rw [if_pos hk, wrote, hkeep, if_pos hk]; simp [bitsAt]
      · rw [if_neg hk, bitsAt_wrote _ _ _ _ _ _ hjl hw (by rw [hkeep]; exact Bool.eq_false_iff.mpr hk), hdm, hFv]
        split
        · rfl
        · simp only [Option.getD_none, laneEl]
          exact Nat.mod_eq_of_lt (Nat.mod_lt _ (Nat.two_pow_pos _))
    · rw [hobOf_lane]
      rw [show (({ raise (writeEls c.h dst (iVD c.w) n F) fl with pc := c.h.pc + 1 } : Hob)).sticky
        = (raise (writeEls c.h dst (iVD c.w) n F) fl).sticky from rfl, getLsbD_raise _ _ _ hi, ← hfl, testBit_resFlags,
        hvr, ← hh]

/-- What the shared run of a lane instruction does. -/
theorem laneRun_effect {s : State} (c : HC) (srcs : List (Nat × Nat × Nat)) (dst n lanes ev : Nat) (fn : Nat → LaneFn)
    (hc : Carries s c) (hp : 0 < elsPer dst) (hw : elsPer dst * elBits dst ≤ 256) :
    LaneEffect s (laneRun c srcs dst n lanes ev fn) c.n c.w
      (srcs.flatMap fun g => rangeFrom g.1 g.2.1) dst n lanes 0 ev
      fun k => fn k (rndOf c.h (iRm c.w)) (satOf c.h) (srcs.map fun g => (groupEls c.h g.2.2 g.1 g.2.1).getD k 0) := by
  have hany : (srcs.any fun g => anyPoison c.h (rangeFrom g.1 g.2.1))
      = ((srcs.flatMap fun g => rangeFrom g.1 g.2.1).any fun r => (vReg c.h r).poison) := by
    simp [anyPoison, List.any_flatMap]
  unfold laneRun
  by_cases hpo : (srcs.any fun g => anyPoison c.h (rangeFrom g.1 g.2.1)) = true
  · rw [if_pos hpo]
    exact lane_poison_effect c _ dst n lanes 0 ev _ _ hc (hany ▸ hpo)
  · rw [if_neg hpo]
    have hmap : ∀ k, ((srcs.map fun g => groupEls c.h g.2.2 g.1 g.2.1).map fun o => o.getD k 0)
        = srcs.map fun g => (groupEls c.h g.2.2 g.1 g.2.1).getD k 0 := fun k => by rw [List.map_map]; rfl
    simp only [hmap]
    have := lane_write_effect c (srcs.flatMap fun g => rangeFrom g.1 g.2.1) dst n lanes 0 ev (fun k => predBit (found s c.n c.w) k lanes)
      (fun k => fn k (rndOf c.h (iRm c.w)) (satOf c.h)
      (srcs.map fun g => (groupEls c.h g.2.2 g.1 g.2.1).getD k 0)) hc hp hw
      (by rw [← hany]; exact Bool.eq_false_iff.mpr hpo)
    simpa [LaneEffect, laneRes_eq, ← hc.2] using this

end Sys2Proof.Laws
end

