-- ==== Sys2Proof/Laws/Memory.lean ====
section
/-! SUPPORT. The byte memories keep their canonical form, and a read after a write gives what was written. -/

namespace Sys2Proof.Laws

open Sys2Proof.Machine

/-- Every address listed is above `a`. -/
def above (a : Nat) (m : List Host.Cell) : Prop := ∀ c ∈ m, a < c.1

/-- The canonical form of a list with a head: the head is no default, everything behind it lies above it, and the rest is
in canonical form. -/
theorem cellsWf_cons (d : Nat → Byte) (a : Nat) (b : Byte) (m : List Host.Cell) :
    cellsWf d ((a, b) :: m) = true ↔ b ≠ d a ∧ above a m ∧ cellsWf d m = true := by
  induction m generalizing a b with
  | nil => simp [cellsWf, above]
  | cons c m ih =>
    obtain ⟨a', b'⟩ := c
    have h := ih a' b'
    constructor
    · intro hw
      simp only [cellsWf, Bool.and_eq_true, bne_iff_ne, decide_eq_true_eq] at hw
      obtain ⟨⟨h1, h2⟩, h3⟩ := hw
      refine ⟨h1, ?_, h3⟩
      intro c hc
      rcases List.mem_cons.mp hc with rfl | hc
      · exact h2
      · exact Nat.lt_trans h2 ((h.mp h3).2.1 c hc)
    · rintro ⟨h1, h2, h3⟩
      simp only [cellsWf, Bool.and_eq_true, bne_iff_ne, decide_eq_true_eq]
      exact ⟨⟨h1, h2 _ (List.mem_cons_self ..)⟩, h3⟩

theorem above_mono {a a' : Nat} {m : List Host.Cell} (h : a ≤ a') (hm : above a' m) : above a m :=
  fun c hc => Nat.lt_of_le_of_lt h (hm c hc)

theorem above_smSet {a k : Nat} {m : List Host.Cell} {v : Byte} (ha : a < k) (hm : above a m) :
    above a (smSet m k v) := by
  induction m with
  | nil => intro c hc; simp [smSet] at hc; subst hc; exact ha
  | cons kv m ih =>
    obtain ⟨k', v'⟩ := kv
    have h0 : a < k' := hm _ (List.mem_cons_self ..)
    have h1 : above a m := fun c hc => hm c (List.mem_cons_of_mem _ hc)
    intro c hc
    simp only [smSet] at hc
    split at hc
    · rcases List.mem_cons.mp hc with rfl | hc
      · exact ha
      · exact hm c hc
    · split at hc
      · rcases List.mem_cons.mp hc with rfl | hc
        · exact ha
        · exact h1 c hc
      · rcases List.mem_cons.mp hc with rfl | hc
        · exact h0
        · exact ih h1 c hc

theorem smDel_subset {m : List Host.Cell} {k : Nat} {c : Host.Cell} (h : c ∈ smDel m k) : c ∈ m := by
  induction m with
  | nil => exact h
  | cons kv m ih =>
    obtain ⟨k', v'⟩ := kv
    simp only [smDel] at h
    split at h
    · exact List.mem_cons_of_mem _ (ih h)
    · rcases List.mem_cons.mp h with rfl | h
      · exact List.mem_cons_self ..
      · exact List.mem_cons_of_mem _ (ih h)

/-- Keeping part of a canonical list keeps the canonical form. -/
theorem cellsWf_filter (d : Nat → Byte) (p : Host.Cell → Bool) {m : List Host.Cell} (h : cellsWf d m = true) :
    cellsWf d (m.filter p) = true := by
  induction m with
  | nil => exact h
  | cons kv m ih =>
    obtain ⟨a, b⟩ := kv
    obtain ⟨h1, h2, h3⟩ := (cellsWf_cons d a b m).mp h
    by_cases hp : p (a, b)
    · rw [List.filter_cons_of_pos hp]
      exact (cellsWf_cons d a b _).mpr ⟨h1, fun c hc => h2 c (List.mem_filter.mp hc).1, ih h3⟩
    · rw [List.filter_cons_of_neg hp]; exact ih h3

theorem cellsWf_smDel (d : Nat → Byte) (k : Nat) {m : List Host.Cell} (h : cellsWf d m = true) :
    cellsWf d (smDel m k) = true := by
  induction m with
  | nil => exact h
  | cons kv m ih =>
    obtain ⟨a, b⟩ := kv
    obtain ⟨h1, h2, h3⟩ := (cellsWf_cons d a b m).mp h
    simp only [smDel]
    split
    · exact ih h3
    · exact (cellsWf_cons d a b _).mpr ⟨h1, fun c hc => h2 c (smDel_subset hc), ih h3⟩

theorem cellsWf_smSet (d : Nat → Byte) (k : Nat) (v : Byte) {m : List Host.Cell} (hv : v ≠ d k)
    (h : cellsWf d m = true) : cellsWf d (smSet m k v) = true := by
  induction m with
  | nil => simpa [smSet, cellsWf] using hv
  | cons kv m ih =>
    obtain ⟨a, b⟩ := kv
    obtain ⟨h1, h2, h3⟩ := (cellsWf_cons d a b m).mp h
    simp only [smSet]
    split
    · rename_i hlt
      refine (cellsWf_cons d k v _).mpr ⟨hv, ?_, h⟩
      intro c hc
      rcases List.mem_cons.mp hc with rfl | hc
      · exact hlt
      · exact Nat.lt_trans hlt (h2 c hc)
    · rename_i hge
      split
      · rename_i heq
        subst heq
        exact (cellsWf_cons d k v _).mpr ⟨hv, h2, h3⟩
      · rename_i hne
        exact (cellsWf_cons d a b _).mpr ⟨h1, above_smSet (by omega) h2, ih h3⟩

/-- Writing a byte keeps the canonical form. -/
theorem cellsWf_cellSet (d : Nat → Byte) (a : Nat) (b : Byte) {m : List Host.Cell} (h : cellsWf d m = true) :
    cellsWf d (cellSet d m a b) = true := by
  unfold cellSet
  split
  · exact cellsWf_smDel d a h
  · rename_i hne; exact cellsWf_smSet d a b hne h

theorem cellsWf_cellSetMany (d : Nat → Byte) (bs : List Byte) {m : List Host.Cell} (a : Nat)
    (h : cellsWf d m = true) : cellsWf d (cellSetMany d m a bs) = true := by
  induction bs generalizing m a with
  | nil => exact h
  | cons b bs ih => exact ih (a + 1) (cellsWf_cellSet d a b h)

/-- Writing an array word keeps the arrays' canonical form. -/
theorem memory_wf_memPutWord {m : List Host.Cell} (a w : Nat) (h : Memory.wf m = true) :
    Memory.wf (memPutWord m a w) = true :=
  cellsWf_cellSetMany _ _ _ h

/-- Writing a datum keeps the arrays' canonical form. -/
theorem memory_wf_memPut {m : List Host.Cell} (a : Nat) (x : Datum) (h : Memory.wf m = true) :
    Memory.wf (memPut m a x) = true :=
  memory_wf_memPutWord a _ h

/-- Forgetting bytes keeps the arrays' canonical form. -/
theorem memory_wf_filter {m : List Host.Cell} (p : Host.Cell → Bool) (h : Memory.wf m = true) :
    Memory.wf (m.filter p) = true :=
  cellsWf_filter _ p h

/-- Writing a datum keeps the reserved units' canonical form. -/
theorem memory_wfRes_resPut {m : List Host.Cell} (a : Nat) (x : Datum) (h : Memory.wfRes m = true) :
    Memory.wfRes (resPut m a x) = true :=
  cellsWf_cellSetMany _ _ _ h

/-- Forgetting bytes keeps the reserved units' canonical form. -/
theorem memory_wfRes_filter {m : List Host.Cell} (p : Host.Cell → Bool) (h : Memory.wfRes m = true) :
    Memory.wfRes (m.filter p) = true :=
  cellsWf_filter _ p h

theorem memory_wf_reset : Memory.wf State.reset.mem = true := rfl

theorem memory_wfRes_reset : Memory.wfRes State.reset.rmem = true := rfl

/-- A byte written reads back. -/
@[simp] theorem cellGet_cellSet_same (d : Nat → Byte) (m : List Host.Cell) (a : Nat) (b : Byte) :
    cellGet d (cellSet d m a b) a = b := by
  unfold cellSet
  split
  · rename_i h; simp [cellGet, h]
  · simp [cellGet]

/-- A byte written leaves every other byte as it was. -/
theorem cellGet_cellSet_other (d : Nat → Byte) (m : List Host.Cell) {a a' : Nat} (b : Byte) (h : a' ≠ a) :
    cellGet d (cellSet d m a b) a' = cellGet d m a' := by
  unfold cellSet
  split
  · simp [cellGet, smFind_smDel_other _ h]
  · simp [cellGet, smFind_smSet_other _ _ h]

/-- A write of consecutive bytes leaves every byte outside them as it was. -/
theorem cellGet_cellSetMany_other (d : Nat → Byte) (bs : List Byte) (m : List Host.Cell) (a : Nat) {a' : Nat}
    (h : a' < a ∨ a + bs.length ≤ a') : cellGet d (cellSetMany d m a bs) a' = cellGet d m a' := by
  induction bs generalizing m a with
  | nil => rfl
  | cons b bs ih =>
    simp only [cellSetMany, List.length_cons] at *
    rw [ih (cellSet d m a b) (a + 1) (by omega), cellGet_cellSet_other _ _ _ (by omega)]

/-- A write of consecutive bytes reads back. -/
theorem cellGet_cellSetMany_same (d : Nat → Byte) (bs : List Byte) (m : List Host.Cell) (a i : Nat)
    (h : i < bs.length) : cellGet d (cellSetMany d m a bs) (a + i) = bs[i] := by
  induction bs generalizing m a i with
  | nil => simp at h
  | cons b bs ih =>
    simp only [cellSetMany]
    cases i with
    | zero => rw [cellGet_cellSetMany_other _ _ _ _ (by omega)]; simp
    | succ n =>
      have := ih (cellSet d m a b) (a + 1) n (by simpa using h)
      rw [show a + (n + 1) = a + 1 + n by omega, this]; rfl

end Sys2Proof.Laws
end

