-- ==== Sys2Proof/Tests/Slice0.lean ====
section
/-! SUPPORT. The model's own tests: an ill-formed term for each check of WellFormed, a witness for the hypotheses of every
statement, and a few steps on small states, with results from the spec's tables and examples. -/

namespace Sys2Proof.Tests

set_option Elab.async false

open Sys2Proof Sys2Proof.Machine Sys2Proof.Safety

/-! ### Small states -/

/-- A block in service with 8 dies, where partition 3 is ACTIVE, with every right and agent 5. -/
def svc : State := { State.reset with
  clk := { pgFb := true, pgBase := true, pgIo := true, pgTile := 255, coldLow := false, rootReady := true }
  boot := { st := .service, dies := 8 }
  fb := { ready := true }
  parts := [(3, { st := .active, lvlHearth := 100000, lvlHob := 100000, lvlFlue := 100000 })]
  regs := [(0x203008, 0xF), (0x203020, 0x20)]
  sched := { avail := 10000000, reserve := 10000000 } }

/-- The agent 5 of hearth module 0, which may present partition 3 and holds every right. -/
def agent : Requester := .hearth 0 5 3

/-- A firing of a program outside the library, on hob 0 alone. -/
def oneFiring : Firing := { f := { prog := 0x8000, out := 0, outLen := 64 }, part := 3, cls := 1, st := .running, launched := true }

/-- Hob 0 runs firing 0 and stands at instruction word `w`; a LOOP at 0 closes at 1. -/
def hobWith (h : Hob) : State := { svc with fir := { all := [(0, oneFiring)], cur := some 0, hobs := [(0, { h with st := .run })], next := 1 } }

def hobAt (w : Nat) : State := hobWith { imem := [BitVec.ofNat 64 w], lp := { ob := [0], obEnd := [4096] } }

/-- An instruction word of opcode `o` whose other fields are `r`. -/
def wordOf (o r : Nat) : Nat := o * 2 ^ 56 + r

/-! ### Queue, memory and hobs -/

theorem witness_StepTakesFrontCommand : ∃ (s : State) (c : Instr), s.pending = [c] ∧ ∃ t : State, t.pending = [] :=
  ⟨{ State.reset with pending := [.nop 0] }, .nop 0, rfl, State.reset, rfl⟩

theorem witness_QueueRunsInOrder : ∃ (s : State) (l r : List Instr) (k : Nat), s.pending = l ++ r ∧ k ≤ l.length ∧ k = 2 :=
  ⟨{ State.reset with pending := [.nop 0, .build .mgmt, .markLost] }, [.nop 0, .build .mgmt], [.markLost], 2, rfl, by decide, rfl⟩

theorem witness_EveryStepKeepsArraysCanonical : ∃ s t : State, Memory.wf s.mem = true ∧ s.mem ≠ [] ∧ Memory.wfRes s.rmem = true
    ∧ step s = .next t :=
  ⟨{ State.reset with mem := [⟨0, 7⟩] }, { State.reset with mem := [⟨0, 7⟩] }, by decide, by decide, by decide, rfl⟩

/-- Every opcode of R100 has a word that a hob issues. -/
theorem witness_hob_issues_each_opcode :
    ∀ w ∈ [wordOf 0x00 0, wordOf 0x10 0, wordOf 0x11 0, wordOf 0x12 0, wordOf 0x13 0, wordOf 0x14 0, wordOf 0x15 0, wordOf 0x16 0]
      ++ (List.range 14).map (fun i => wordOf (0x20 + i) 0) ++ (List.range 9).map (fun i => wordOf (0x30 + i) 0)
      ++ (List.range 20).map (fun i => wordOf (0x40 + i) 0) ++ (List.range 10).map (fun i => wordOf (0x58 + i) 0)
      ++ [wordOf 0x62 0x200000000, wordOf 0x63 0x30000000, wordOf 0x70 0, wordOf 0x71 0],
      Issues (hobAt w) 0 w 0 oneFiring := by decide

/-- LOOP, ENDL and their closed pair; an empty count, a last turn and another turn. -/
theorem witness_HobLoops :
    let ws : List W64 := [BitVec.ofNat 64 (wordOf 0x31 3), BitVec.ofNat 64 (wordOf 0x32 0)]
    let at_ (pc n : Nat) : State := hobWith { imem := ws, pc := pc, loops := [(0, BitVec.ofNat 32 n)] }
    Issues (at_ 0 0) 0 (wordOf 0x31 3) 0 oneFiring ∧ Matching ws 0 1
    ∧ Issues (at_ 1 1) 0 (wordOf 0x32 0) 0 oneFiring ∧ Issues (at_ 1 2) 0 (wordOf 0x32 0) 0 oneFiring
    ∧ Issues (hobAt (wordOf 0x31 0)) 0 (wordOf 0x31 0) 0 oneFiring
    ∧ smGet 0 (found (hobAt (wordOf 0x31 0)) 0 (wordOf 0x31 0)).sr 0 = 0 := by
  refine ⟨by decide, ⟨by decide, by decide, by decide, by decide, ?_⟩, by decide, by decide, by decide, by decide⟩
  intro q h1 h2
  have : q = 1 := by omega
  subst this; decide

/-- CKPT and HALT with nothing in flight, with a load in flight, at an uncorrectable word, and in a library firing. -/
def libHob (prog nPer : Nat) (h : Hob) : State :=
  { svc with fir := { all := [(0, { oneFiring with f := { oneFiring.f with prog := prog, update := true } })], cur := some 0,
                      hobs := [(0, { h with st := .run, lp := { nPer := nPer, ob := [0, 0, 0, 0], obEnd := [] } })], next := 1 } }

def aLoad (v : Nat) : ColReq :=
  { cls := 1, src := .firing, off := 0, n := 1, addr := 0, part := some 3, op := .hobLd 0 v none }

def loading (s : State) (n : Nat) : State := { s with sched := { s.sched with pairs := [(0, { q := List.replicate n (aLoad 9) })] } }

theorem witness_HobCheckpointAndHalt :
    (∀ w ∈ [wordOf 0x33 7, wordOf 0x34 0], hobFlight (hobAt w) 0 = 0
      ∧ (∀ b, b < 8 → brkMatches (smGet {} (hobAt w).obs.brk b) oneFiring (some (dImm w % 65536)) = false)
      ∧ Issues (loading (hobAt w) 1) 0 w 0 oneFiring ∧ hobFlight (loading (hobAt w) 1) 0 ≠ 0)
    ∧ (hobOf (hobWith { imemUe := [0] }) 0).imemUe.contains (hobOf (hobWith { imemUe := [0] }) 0).pc = true := by decide

def libC (s : State) (x : Firing) : HC := ⟨s, 0, hobOf s 0, 0, 0, x⟩

/-- A library update firing whose hob is at its only span, at one of two, out of bounds, or stopped by an error. -/
theorem witness_HobCheckpointAndHalt_library :
    let x : Firing := { oneFiring with f := { oneFiring.f with prog := 0x0210, update := true } }
    let seg : SMap Datum := (List.range 24).map fun i => (i, (⟨0, false⟩ : Datum))
    (∀ s ∈ [libHob 0x0210 2048 { imemUe := [1] }, libHob 0x0210 2048 { srUe := [2] },
        libHob 0x0210 2048 { store := [(5, ⟨0, true⟩)] }, libHob 0x0210 2048 { store := seg }, libHob 0x0210 1024 { store := seg }],
      curFiring s = some (0, x) ∧ executing x = true ∧ isLibrary x.f = true ∧ inRect x.f 0 = true ∧ (hobOf s 0).st = .run
      ∧ libUpdate x.f.prog = true)
    ∧ (storeRd (hobOf (libHob 0x0210 2048 { store := [(5, ⟨0, true⟩)] }) 0) 5).poison = true
    ∧ (∀ i, i < 24 → (storeRd (hobOf (libHob 0x0210 2048 { store := seg }) 0) i).poison = false)
    ∧ (∃ e ∈ libUnitReads (libC (libHob 0x0210 2048 { store := seg }) x) 0,
        (hobOf (libHob 0x0210 2048 { store := seg }) 0).lp.obEnd.getD e.1 0 ≤ e.2)
    ∧ libCols (libC (libHob 0x0610 2048 { store := seg }) { x with f := { x.f with prog := 0x0610 } }) = false := by decide

/-- Bank accesses inside the operand, one past its end, and with sixteen requests in flight. -/
theorem witness_HobBankAccess :
    ∀ o ∈ [0x10, 0x11], (∀ w ∈ [wordOf o 4064, wordOf o 4096], Issues (hobAt w) 0 w 0 oneFiring)
      ∧ (let h := found (hobAt (wordOf o 4064)) 0 (wordOf o 4064)
         bImm (wordOf o 4064) = 4064 ∧ 4064 < h.lp.obEnd.getD 0 0 ∧ ¬ 4096 < h.lp.obEnd.getD 0 0)
      ∧ Issues (loading (hobAt (wordOf o 0)) 16) 0 (wordOf o 0) 0 oneFiring ∧ 16 ≤ hobFlight (loading (hobAt (wordOf o 0)) 16) 0
      ∧ oneFiring.f.tapTwin = false ∧ oneFiring.f.tapFan = false ∧ oneFiring.f.tapSmoke = false ∧ oneFiring.cls ≠ 0 := by decide

/-- The last word of the segment and the first behind it; the last scratch area and the first outside the store. -/
theorem witness_HobStoreAccess :
    let s (w : Nat) : State := hobWith { imem := [BitVec.ofNat 64 w], lp := { bseg := 4096 } }
    (∀ w ∈ [wordOf 0x12 4064, wordOf 0x12 4096, wordOf 0x13 4064, wordOf 0x13 4096, wordOf 0x14 4064,
        wordOf 0x14 (14 * 2 ^ 47), wordOf 0x14 (15 * 2 ^ 47), wordOf 0x15 (14 * 2 ^ 47), wordOf 0x15 (15 * 2 ^ 47)],
      Issues (s w) 0 w 0 oneFiring ∧ (hobOf (s w) 0).lp.bseg % 32 = 0)
    ∧ cArea (wordOf 0x15 (14 * 2 ^ 47)) = 14 ∧ 4096 + 4096 * 14 + 4096 = 65536 := by decide

/-- A push with a context free, with none free, while the firing stops for a slice, and outside the output; a landing load. -/
theorem witness_HobPushesAndLandings :
    let w := wordOf 0x16 0
    let s (e : Nat) (x : Firing) (busy : SMap Firing) : State := { svc with fir :=
      { all := (0, x) :: busy, cur := some 0, hobs := [(0, { imem := [BitVec.ofNat 64 w], sr := [(0, BitVec.ofNat 32 e)], st := .run })] } }
    let stopping : Firing := { oneFiring with st := .stopping, causes := [.slice] }
    Issues (s 8 oneFiring []) 0 w 0 oneFiring ∧ 0 < redFree (s 8 oneFiring []) ∧ 8 < oneFiring.f.outLen / 4
    ∧ Issues (s 8 stopping []) 0 w 0 stopping ∧ stopping.red = false ∧ stopping.causes.contains .ember = false
    ∧ Issues (s 8 oneFiring [(1, { red := true }), (2, { red := true })]) 0 w 0 oneFiring
    ∧ redFree (s 8 oneFiring [(1, { red := true }), (2, { red := true })]) = 0
    ∧ Issues (s 16 oneFiring []) 0 w 0 oneFiring ∧ ¬ 16 < oneFiring.f.outLen / 4
    ∧ ({ svc with sched := { svc.sched with landing := [(1, 0, ⟨0, false⟩), (0, 5, ⟨7, false⟩)] } } : State).sched.landing
        = [(1, 0, ⟨0, false⟩)] ++ (0, 5, ⟨7, false⟩) :: [] := by decide

/-! ### Lanes -/

/-- The words of the lane statements issue, with a poisoned source too. -/
theorem witness_lane_statements :
    let bad (w : Nat) : State := hobWith { imem := [BitVec.ofNat 64 w], vr := [(0, ⟨0, true⟩)] }
    (∀ w ∈ [wordOf 0x51 0, wordOf 0x52 0, wordOf 0x53 0, wordOf 0x63 0x30000000],
      Issues (bad w) 0 w 0 oneFiring ∧ (vReg (found (bad w) 0 w) (iVA w)).poison = true
      ∧ (vReg (found (hobAt w) 0 w) (iVA w)).poison = false)
    ∧ (∀ e, e < elsPer 0 → laneEl (found (hobAt (wordOf 0x50 0)) 0 (wordOf 0x50 0)) 0 0 e < 2 * elsPer 0)
    ∧ (∀ e, e < 8 → elVal 0 (laneEl (found (hobAt (wordOf 0x53 0)) 0 (wordOf 0x53 0)) 0 0 e) ≠ .nan
        ∧ fvLt (elVal 0 (laneEl (found (hobAt (wordOf 0x53 0)) 0 (wordOf 0x53 0)) 0 0 0))
            (elVal 0 (laneEl (found (hobAt (wordOf 0x53 0)) 0 (wordOf 0x53 0)) 0 0 e)) = false) := by decide

/-- A conversion from FP32 to BF16 with a scale and stochastic rounding issues (R111, R112). -/
theorem witness_LaneConversionsAndHeddle :
    let w := wordOf 0x61 (2 * 2 ^ 28 + 4 * 2 ^ 25 + 2 ^ 15)
    Issues (hobAt w) 0 w 0 oneFiring ∧ iRm w = 4 ∧ bitAt w 15 = true := by decide

/-! ### Registers and observation -/

theorem witness_PageFieldsByAccessType :
    (∀ off ∈ [0x203008, 0x203020, 0x203308], ∀ len ∈ [4, 8], Shaped off len ∧ inPages off = true ∧ fieldsAt (off / 8 * 8) ≠ []
      ∧ off / 8 * 8 % 4096 ∉ [0x040, 0x050, 0x300, 0x328])
    ∧ (∃ f ∈ fieldsAt 0x203020, f.acc = .rwf ∧ fld (BitVec.allOnes 64) f.lo f.w ≠ 0)
    ∧ (∃ f ∈ fieldsAt 0x203308, f.acc ≠ .rwf) ∧ (smGet [] svc.flt.chans 11).length < 64 := by decide

theorem witness_ForeignPageAccess :
    rqPart agent = some 3 ∧ Accepted svc agent ∧ mayPresent svc agent 4 = false ∧ 0x204100 / 4096 * 4096 = pageBase 4
    ∧ Shaped 0x204100 8 ∧ (wordNow (accessCharge svc agent) agent 0x204100).isSome = true := by decide

theorem witness_RegisterHalfReads :
    let lost : State := { svc with fir := { svc.fir with weftLost := [rqKey agent] } }
    let half : State := { svc with shadow := [(rqKey agent, (0x110008, 5))] }
    let busy : State := { svc with fir := { svc.fir with all := [(0, { oneFiring with st := .saving })], cur := some 0 } }
    (∀ off ∈ [0x0, 0x110008, 0x113FC8], wordNow (accessCharge svc agent) agent off ≠ none
      ∧ readMask (accessCharge svc agent) agent off ≠ 0 ∧ captured (accessCharge svc agent) agent off = none
      ∧ Accepted svc agent ∧ flueDenied agent off = false ∧ weftFailed (accessCharge svc agent) agent off = false
      ∧ weftFree svc (weftDie off) 3 = true)
    ∧ weftFailed (accessCharge lost agent) agent 0x110008 = true ∧ Accepted lost agent
    ∧ smFind (accessCharge half agent).shadow (rqKey agent) = some (0x110008, 5) ∧ Accepted half agent
    ∧ onWeft 0x110008 = true ∧ weftFree busy (weftDie 0x110008) 3 = false ∧ Accepted busy agent := by decide

theorem witness_StreamedAndCapturedReads :
    (∀ off ∈ [0xF10030, 0xF10040, 0xF10058], Accepted svc .mgmt ∧ fbReader svc .mgmt = true ∧ (streamItem svc .mgmt off).isSome = true)
    ∧ (∀ off ∈ [0x80008, 0x203340], (wordNow svc .mgmt off).isSome = true ∧ readMask svc .mgmt off = BitVec.allOnes 64
      ∧ ∃ ws ∈ captured svc .mgmt off, ws ≠ []) := by decide

theorem witness_HedSeedWrites : Accepted svc agent ∧ mayPresent (accessCharge svc agent) agent 3 = true := by decide

/-- Marks present and lost, an offset armed for the next pulse and for a later one, and who may arm. -/
theorem witness_MarksAndAlignedTime :
    let armed (m : W64) : State := { svc with ports := { svc.ports with markLost := false }, obs := { svc.obs with armed := some (9, m) } }
    let lost : State := { svc with ports := { svc.ports with markLost := true } }
    (armed 1).ports.markLost = false ∧ (armed 1).obs.armed = some (9, 1) ∧ 1 = (armed 1).obs.markCnt + 1
    ∧ (armed 2).obs.armed = some (9, 2) ∧ 2 ≠ (armed 2).obs.markCnt + 1 ∧ lost.ports.markLost = true
    ∧ Accepted svc agent ∧ obsAllowed (accessCharge svc agent) agent = true := by decide

/-- Observation by an agent with the right and by one without it, rings that fit and that do not, and a refusing port. -/
theorem witness_CountersSnapshotsAndRings :
    let blind : State := { svc with regs := [(0x203020, 0x20)] }
    let down : State := { svc with boot := { svc.boot with st := .tables } }
    Accepted svc agent ∧ obsAllowed (accessCharge svc agent) agent = true
    ∧ Accepted blind agent ∧ obsAllowed (accessCharge blind agent) agent = false
    ∧ ringFits (accessCharge svc agent) 0 0x200000 = true ∧ ringFits (accessCharge svc agent) 0 0x2003FF = false
    ∧ fld (0x200000 : W64) 21 1 = 1 ∧ fld (0x2003FF : W64) 21 1 = 1
    ∧ rqPart agent = some 3 ∧ rqStatus down agent ≠ 0
    ∧ mayPresent (accessCharge svc agent) agent 3 = true ∧ mayPresent (accessCharge svc agent) agent 4 = false := by decide

def aRecord : SootRec := { time := 0, type := 1, block := true, epoch := 0, part := 0, cls := 0, payload := 0 }
def ringed (r : SootRing) : State := { svc with obs := { svc.obs with rings := [(0, r)], sootQ := [(0, aRecord)] } }

/-- A record for a full STOP ring, for a ring with room, and after a loss; drains to a bound and to an unbound agent. -/
theorem witness_SootRecordsGraphsAndBreaks :
    let stop : SootRing := { cfg := 0x300000, wr := 2048 }
    let drain : SootRing := { cfg := 0x200000, wr := 1, drain0 := 0x105 }
    let bound : State := { ringed drain with ports := { svc.ports with agents := [(5, ⟨true, 0⟩)] } }
    fld stop.cfg 21 1 = 1 ∧ fld stop.cfg 20 1 = 1 ∧ ringSize stop ≤ stop.wr - stop.rd
    ∧ (ringed { stop with wr := 2047 }).obs.sootQ = (0, aRecord) :: [] ∧ 2047 - stop.rd < ringSize stop
    ∧ 0 < ({ stop with wr := 0, lostNow := 1 } : SootRing).lostNow
    ∧ fld drain.drain0 8 1 = 1 ∧ drain.rd < drain.wr ∧ fld drain.drain0 32 16 ≤ drain.wr - drain.rd
    ∧ (smGet ({} : Agent) (ringed drain).ports.agents (fld drain.drain0 0 8)).bound = false
    ∧ (smGet ({} : Agent) bound.ports.agents (fld drain.drain0 0 8)).bound = true
    ∧ Accepted bound agent ∧ obsAllowed (accessCharge bound agent) agent = true ∧ selF (accessCharge bound agent) agent 0xE00500 0 4 = 0
    ∧ svc.obs.wfgBuilding = false ∧ ({ svc with obs := { svc.obs with wfgBuilding := true } } : State).obs.wfgBuilding = true
    ∧ (smGet ({} : Brk) ({ svc with obs := { svc.obs with brk := [(0, { held := some 1 })] } } : State).obs.brk 0).held = some 1 := by
  decide

/-! ### Scheduler, warp and sparing -/

theorem witness_RefreshDebtAndCalibration :
    let due : State := { svc with sched := { svc.sched with pairs := [(0, { calDue := true })] } }
    let q (r : ColReq) : State := { svc with sched := { svc.sched with pairs := [(0, { q := [r] })] } }
    let tsv (d : TsvDie) : State := { svc with sched := { svc.sched with dies := [(7, d)] } }
    7 < svc.boot.dies ∧ (pairAt svc 7 31).calDue = false ∧ (pairAt due 0 0).calDue = true
    ∧ (pairAt (q { aLoad 1 with cls := 2 }) 0 0).q[0]? = some { aLoad 1 with cls := 2 } ∧ regF svc 0x30040 0 16 ≠ 0
    ∧ regF svc 0x30040 32 16 ≠ 0
    ∧ (tsvDie svc 7).busy = none ∧ (tsvDie svc 7).spacing = false ∧ (tsvDie svc 7).wait = []
    ∧ (tsvDie (tsv { busy := some 1 }) 7).busy ≠ none ∧ (tsvDie (tsv { wait := [33, 2] }) 7).wait = 33 :: [2] := by decide

/-- A slot with a forced refresh, an overdue calibration, a test, nothing queued, a request in budget and one held. -/
theorem witness_DraughtRampAndColumnSlots :
    let pair (p : PairS) : State := { svc with sched := { svc.sched with pairs := [(255, p)] } }
    let rd : PairS := { q := [aLoad 1] }
    7 < svc.boot.dies ∧ ¬ (8 < svc.boot.dies ∧ 0 < 32)
    ∧ forcedGroup (pairAt (pair { debt3 := 8 }) 7 31) = some 3 ∧ debtOf (pairAt (pair { debt3 := 8 }) 7 31) 3 = 8
    ∧ forcedGroup (pairAt (pair { debt3 := 7, calDue := true, calOver := true }) 7 31) = none
    ∧ (pairAt (pair { test := true }) 7 31).test = true
    ∧ colPick (pairAt svc 7 31) 4 = none ∧ colPick (pairAt (pair rd) 7 31) 4 = some 0
    ∧ sweepTurn (pair rd) 7 31 0 = false
    ∧ effCls (pairAt (pair rd) 7 31).q 0 < svc.sched.blocked
    ∧ (spend (pair rd) 1 (colEnergy (pair rd) (aLoad 1) + eAct (pair rd))).isSome = true
    ∧ spend { pair rd with sched := { (pair rd).sched with avail := 0 } } 1 1 = none
    ∧ svc.sched.slot ≠ 4 ∧ ({ svc with sched := { svc.sched with slot := 4 } } : State).sched.slot = 4 := by decide +kernel

theorem witness_WarpGuarantees : (5 : Nat) < 2 ^ 32 ∧ (6 : Nat) < 2 ^ 32
    ∧ (List.range 32).countP (fun k => bitAt 5 k != bitAt 6 k) ≤ 3 := by decide

/-- A scrub entry, a verify read, a walk with and without laggards, and refused units of both paths. -/
theorem witness_RewritesVerifiesAndRetries :
    let at0 (p : PairS) : State := { svc with sched := { svc.sched with pairs := [(0, p)] } }
    let scrub := at0 { scrub := [64] }
    let verify := at0 { verify := [(64, false)] }
    let naks (e : List (TsvUnit × Nat)) : State := { svc with sched := { svc.sched with dies := [(7, { naks := e })] } }
    (pairAt scrub 0 0).scrub = 64 :: [] ∧ colSlotFree scrub 0 0 (sweepLim scrub 0 0) = true ∧ sweepPaused scrub 0 0 = false
    ∧ (sweepPay scrub 0 0 64 (eRd scrub)).isSome = true
    ∧ (granAt scrub 64 (locAddr scrub 0 0 64)).1 = .poison
    ∧ colSlotFree (at0 { scrub := [64], test := true }) 0 0 4 = false
    ∧ (pairAt verify 0 0).verify = (64, false) :: [] ∧ colSlotFree verify 0 0 (sweepLim verify 0 0) = true
    ∧ (sweepPay verify 0 0 64 (eRd verify)).isSome = true ∧ (∀ e ∈ (histOf verify (0 * 34 + physPair verify 0 0)).hardList, e ≠ e)
    ∧ tilesSleep svc = false ∧ laggards (at0 { swLag := some 0 }) ≠ [] ∧ svc.warp.sweepPos < 0x8000000
    ∧ unitLive svc .other = true ∧ unitBus .other = false ∧ unitTries (tsvDie svc 7) .other = 0
    ∧ unitTries (tsvDie (naks [(.other, 7)]) 7) .other = 7 ∧ unitTries (tsvDie (naks [(.other, 8)]) 7) .other = 8
    ∧ unitBus (.register agent 0x110008) = true ∧ unitLive svc (.register agent 0x110008) = true
    ∧ unitTries (tsvDie (naks [(.register agent 0x110008, 4)]) 7) (.register agent 0x110008) = 4
    ∧ (smGet [] svc.flt.chans 4).length < 64 := by decide +kernel

def migrating (g : Migr) : State := { svc with warp := { svc.warp with migr := some g } }
def aMigr : Migr := { die := 1, pos := 2, spare := 32, mark := 0x7FFFE00, switching := false, raw := false, mbox := none }

theorem witness_MigrationAndSwitchover :
    let s := migrating aMigr
    let done := migrating { aMigr with switching := true }
    chunkDue s = some aMigr ∧ aMigr.mark % 512 = 0 ∧ aMigr.mark < 0x8000000 ∧ physPair s 1 2 < 34 ∧ physPair s 1 2 ≠ 32
    ∧ colSlotFree s 1 2 4 = true ∧ s.sched.blocked = 4 ∧ (spend s 3 (chunkEnergy s aMigr)).isSome = true
    ∧ colSlotFree { s with sched := { s.sched with pairs := [(34, { calDue := true })] } } 1 2 4 = false
    ∧ chunkDue svc = none ∧ done.warp.migr = some { aMigr with switching := true } ∧ curFiring done = none ∧ done.flt.scan = none
    ∧ physPair done 1 2 < 34 ∧ physPair done 1 2 ≠ 32 := by decide +kernel

/-! ### Ports and flue -/

/-- Header of a hearth request of agent 5 in partition 3, class 1. -/
def rqHdr (opc len a : Nat) (more : List (Nat × Nat × Nat)) : BitVec 256 :=
  mkHdr ([(0, 8, opc), (10, 2, 1), (16, 10, 3), (32, 8, 5), (56, 8, len), (64, 48, a)] ++ more)

/-- Module 0 is UP with credits and agent 5 bound; partition 3 owns an open region at 0, an accumulator region at 2^35, open for
epoch 7 of context 2, and a staging grant. -/
def linked : State := { svc with
  ports := { svc.ports with
    hp := [(0, { st := .up, rxCred := (List.range 8).map fun i => (i, 8) })]
    agents := [(5, ⟨true, 0⟩)] }
  regions := [(0, { base := 0, owner := 3 }),
    (1, { kind := .bankLocal, base := 0x800000000, first := 2, count := 2, c1 := 0, r1 := 0,
          acc := true, owner := 3, banked := true, init := true })]
  regs := svc.regs ++ [(0x203010, 0x10000)]
  staging := { svc.staging with general := 1 }
  stp := { svc.stp with ctxs := [(2, { owner := 3, rgns := [⟨1, 1024, 0⟩], openEpoch := 7, isOpen := true })] } }

def two : List Datum := [⟨1, false⟩, ⟨2, false⟩]

theorem witness_ReadsAndWritesReachTheirPair :
    TakesAtOnce linked 0 (rqHdr 1 64 0 []) [] ∧ InMemory 0
    ∧ TakesAtOnce linked 0 (rqHdr 2 64 64 []) two ∧ TakesAtOnce linked 0 (rqHdr 2 4 64 []) [⟨1, false⟩]
    ∧ ((List.range 2).map (wrEnables (rqHdr 2 64 64 []))).all enFull = true
    ∧ ((List.range 1).map (wrEnables (rqHdr 2 4 64 []))).all enFull = false := by decide +kernel

theorem witness_ReadsAndWritesReachTheirPair_staging :
    TakesAtOnce linked 0 (rqHdr 1 32 stgWin []) [] ∧ TakesAtOnce linked 0 (rqHdr 2 64 stgWin []) two
    ∧ inStgWin stgWin = true ∧ hPosted (rqHdr 1 32 stgWin []) = false := by decide +kernel

theorem witness_ReadsAndWritesReachTheirPair_masks :
    let full := [(8, 1, 1), (128, 32, 0xFFFFFFFF), (160, 32, 0xFFFFFFFF)]
    let part := [(8, 1, 1), (128, 32, 0xFFFFFFFF), (160, 32, 1)]
    TakesAtOnce linked 0 (rqHdr 3 64 0 full) two ∧ TakesAtOnce linked 0 (rqHdr 3 64 0 part) two
    ∧ ((List.range 2).map (wrEnables (rqHdr 3 64 0 full))).all enFull = true
    ∧ ((List.range 2).map (wrEnables (rqHdr 3 64 0 part))).all enFull = false := by decide +kernel

theorem witness_OrderedRequestsTakeEffect :
    let a := 0x800000000
    (∀ x ∈ [(rqHdr 4 64 a [(8, 1, 1), (128, 32, 6)], two), (rqHdr 4 64 a [(8, 1, 1), (128, 32, 7)], two),
        (rqHdr 4 64 a [(8, 1, 1), (128, 32, 8)], two), (rqHdr 5 0 a [(8, 1, 1), (128, 32, 7)], []),
        (rqHdr 6 0 0 [(8, 1, 1)], []), (rqHdr 7 0 0 [(112, 4, 3)], []), (rqHdr 8 0 (regWin + 0x600000) [(8, 1, 1)], [])],
      TakesAtOnce linked 0 x.1 x.2)
    ∧ (findRegion linked a).map (·.1) = some 1 ∧ (ctxOfRgn linked 1).map (·.1) = some 2
    ∧ ((findRegion linked a).bind fun r => accPlace linked r.2 a 0).isSome = true := by decide +kernel

theorem witness_OrderedRequestsTakeEffect_waiting :
    let f : FenceR := { flue := false, module := 0, hdr := rqHdr 7 0 0 [(112, 4, 1)], chans := [20], no := 1 }
    let held (l : List (Nat × Txn)) : State := { linked with ports := { linked.ports with fences := [f], txns := l } }
    let w : WaitReq := { flue := false, module := 0, pkt := ⟨rqHdr 1 32 0 [], []⟩, why := .damper, no := 1 }
    let waiting (l : Int) : State := { linked with
      ports := { linked.ports with waitQ := [(20, [w])] }
      parts := [(3, { st := .active, lvlHearth := l })] }
    fenceOver (held []) f = true ∧ (held []).ports.fences[0]? = some f
    ∧ fenceOver (held [(0, { flue := false, module := 0, hdr := rqHdr 2 32 0 [], chan := 20, isWrite := true, left := 1, data := [], failed := false, mute := false })]) f = false
    ∧ (∀ l ∈ [0, 1000], smGet [] (waiting l).ports.waitQ 20 = [w] ∧ tilesSleep (waiting l) = false
        ∧ (ctlOf (waiting l) w.pkt.hdr).any (waiting l).flt.ctl.contains = false ∧ reqStatus (waiting l) false w.pkt.hdr = 0
        ∧ reqWaits (waiting l) false 0 w.pkt.hdr 1 = false)
    ∧ damperTake (waiting 0) 3 .hearth 1 32 = none ∧ (damperTake (waiting 1000) 3 .hearth 1 32).isSome = true := by decide +kernel

/-- Module 0 of a port in a state. -/
def modIn (fl : Bool) (x : PModule) : State := setModule svc fl 0 x

theorem witness_LinkStates : ∀ fl, (∀ st ∈ [ModS.down, .train, .param, .credit, .up, .retrain, .failed],
      (modOf (modIn fl { st := st }) fl 0).st = st ∧ spoolsLost (modIn fl { st := st }) 0 = [])
    ∧ svc.boot.st = .service ∧ (modOf (modIn fl { fails := 8 }) fl 0).fails = 8
    ∧ (modOf (modIn fl { st := .up, egress := [⟨⟨0, []⟩, 0, 0, 0, none⟩] }) fl 0).egress ≠ []
    ∧ (∃ q : ParamMsg, paramOk (modIn fl { st := .param }) fl 0 q = false)
    ∧ Accepted svc .mgmt ∧ regAllowed (accessCharge svc .mgmt) .mgmt = true := by
  intro fl; cases fl <;> exact ⟨by decide, rfl, by decide, by decide, ⟨⟨0, true, [], []⟩, by decide⟩, by decide, by decide⟩

theorem witness_FlitsAndCredits : ∀ fl,
    let f : Flit := { seq := 0, pois := 0, slots := List.replicate 7 0, crc := 0, weft := 0 }
    let s := modIn fl { st := .up, replay := [{ f with seq := 1 }, { f with seq := 2 }], resend := [f] }
    (modOf s fl 0).st = .up ∧ (modOf s fl 0).replay = [{ f with seq := 1 }] ++ { f with seq := 2 } :: [] := by
  intro fl; cases fl <;> decide

/-- Header of a flue frame of peer 7 to this block, peer 9. -/
def frHdr (opc : Nat) (more : List (Nat × Nat × Nat)) : BitVec 256 :=
  mkHdr ([(0, 8, opc), (8, 1, 1), (10, 2, 1), (208, 16, 7), (224, 16, 9)] ++ more)

def friend : Peer := { id := 7, mods := 1, roles := 127, enabled := true, part := 3, sess := .open }

/-- Flue module 0 is UP and LIT with credits; entry 0 of the peer table is `p`. -/
def flued (p : Peer) : State := { svc with
  ports := { svc.ports with
    peerId := 9
    fl := [(0, { st := .up, light := .lit, lol := true, att := false, rxCred := (List.range 16).map fun i => (i, 64) })]
    peers := [(0, p)] } }

theorem witness_LightAnchorsAndTimers :
    (∀ l ∈ [Light.dark, .settling, .lit], (modOf (setModule svc true 15 { light := l }) true 15).light = l)
    ∧ (∀ st ∈ [Sess.closed, .helloSent, .open, .unreachable, .refused], anchorOf (flued { friend with sess := st }) { friend with sess := st } = some 0
        ∧ smGet ({} : Peer) (flued { friend with sess := st }).ports.peers 0 = { friend with sess := st }) := by decide

/-- HELLO and HELLO_ACK in every session state, one that passes the checks and one of another release. -/
theorem witness_SessionFrames :
    let good : Datum := ⟨BitVec.ofNat 256 (glbRelease + 7 * 2 ^ 16 + 1 * 2 ^ 32), false⟩
    (∀ opc ∈ [0xA0, 0xA1], ∀ st ∈ [Sess.closed, .helloSent, .open, .unreachable, .refused],
      let p := { friend with sess := st }
      let s := flued p
      modCarries s true 0 = true ∧ hOpc (frHdr opc []) = opc ∧ (takeCred s true 0 ⟨frHdr opc [], [good]⟩).isSome = true
      ∧ frameForm (frHdr opc []) = true ∧ hDpeer (frHdr opc []) = s.ports.peerId
      ∧ peerOf s (hSpeer (frHdr opc [])) = some (0, p) ∧ helloCheck p (frHdr opc []) (dataBytes [good]) = 0
      ∧ helloCheck p (frHdr opc []) (dataBytes [⟨0, false⟩]) ≠ 0)
    ∧ (∀ opc ∈ [0xA2, 0xA3, 0xA4], FrameTaken (flued friend) 0 (frHdr opc []) [] 0 friend)
    ∧ anchorOf (frameSeen (flued friend) 0 (frHdr 0xA3 []) [] 0) friend = some 0 := by decide +kernel

/-- Frames of both kinds of stream are taken, and entry 0 receives from peer 7 into region 2 of partition 3. -/
def receiving (st : RxSt) (want : Option Nat) : State :=
  let r : Rx := { src := 7, rgn := 2, half := 64, owner := 3, st := st, want := want }
  { flued friend with
    str := { svc.str with rxFan := [(0, r)], rxSmoke := [(0, r)] }
    regions := [(2, { owner := 3 })] }

theorem witness_ReceiveStreams :
    (∀ x ∈ [(frHdr 0xC0 [(177, 1, 1)], []), (frHdr 0xC1 [(56, 8, 2)], two), (frHdr 0xC1 [(56, 8, 2), (64, 48, 64)], two),
        (frHdr 0xC2 [], []), (frHdr 0xC2 [(176, 32, 4)], []), (frHdr 0xC2 [(168, 4, 2)], []), (frHdr 0xC3 [], []), (frHdr 0xC4 [], []),
        (frHdr 0xC5 [], []), (frHdr 0xC5 [(200, 1, 1)], []), (frHdr 0xD9 [(168, 4, 1)], []), (frHdr 0xD9 [(168, 4, 2), (172, 1, 1)], []),
        (frHdr 0xD9 [(168, 4, 4)], []), (frHdr 0xD8 [(56, 8, 2)], two)],
      ∀ st ∈ [RxSt.idle, .receiving, .complete, .recanted, .final, .incomplete],
        FrameTaken (receiving st none) 0 x.1 x.2 0 friend
        ∧ (rxFrom (frameSeen (receiving st none) 0 x.1 x.2 0) false friend 0).isSome = true
        ∧ (rxFrom (frameSeen (receiving st none) 0 x.1 x.2 0) true friend 0).isSome = true)
    ∧ bitAt friend.roles 3 = true
    ∧ (∀ r ∈ (receiving .receiving none).str.rxFan, (rxRegion (receiving .receiving none) r.2).isSome = true)
    ∧ (∀ r ∈ (receiving .receiving (some 1)).str.rxSmoke, r.2.want ≠ none) := by decide +kernel

/-- Owner 1 of a norm group of 2 waits for owner 0; a record that pairs, is in step on either side, or resyncs. -/
def normed (slots : List NormSlot) : State := { flued friend with
  stp := { svc.stp with ctxs := [(2, { owner := 3, group := 5, n := 2, own := 1, slots := slots })] } }

def twinned (t : Twin) : State := { flued friend with
  str := { svc.str with twins := [(0, { t with peer := 7 })] }
  regions := [(2, { kind := .bankLocal, c1 := 0, r1 := 0, owner := 3 })] }

theorem witness_NormAndTwinFrames :
    let msg (g : Nat) : List Datum := [⟨BitVec.ofNat 256 (g * 2 ^ 64), false⟩]
    let h := frHdr 0xB0 [(160, 12, 1)]
    (∀ s ∈ [normed [], normed [⟨0, 0, false, 0⟩]], ∀ g ∈ [5, 6], FrameTaken s 0 h (msg g) 0 friend ∧ anyBad (msg g) = false)
    ∧ bitAt friend.roles 2 = true ∧ leAt (dataBytes (msg 5)) 8 4 = 5
    ∧ (∀ c ∈ (normed []).stp.ctxs, c.2.group = 5 ∧ hdrF h 172 12 ≠ c.2.own ∧ hdrF h 172 12 < c.2.n ∧ hdrF h 128 32 = c.2.dec) := by
  decide +kernel

theorem witness_NormAndTwinFrames_twin :
    let own : Digest := ⟨0, 0, 0, 0, 0, 0⟩
    let one : List Datum := [⟨0, false⟩]
    let op : OpWord := { used := true, rgn := 2 }
    (∀ t ∈ [{ st := .pairing }, { st := .inStep, replay := true }, { st := .inStep, own := [own] },
        { st := .resync, mask := 1, nPer := 64, ops := [op] }],
      ∀ x ∈ [(frHdr 0xD0 [(168, 3, 4)], one), (frHdr 0xD0 [(168, 3, 1)], List.replicate 32 ⟨0, false⟩), (frHdr 0xD0 [(168, 3, 2)], []),
          (frHdr 0xD1 [(56, 8, 1), (128, 32, 0xFFFFFFFF)], one), (frHdr 0xD2 [], one), (frHdr 0xD2 [(168, 1, 1)], one)],
        FrameTaken (twinned t) 0 x.1 x.2 0 friend)
    ∧ (twinPlace (twinned {}) { nPer := 64, ops := [op] } 0 0 0).isSome = true
    ∧ digestsMatch own own = true ∧ digestsMatch own { own with stored := 1 } = false ∧ bitAt friend.roles 5 = true
    ∧ shortEpoch (twinned {}) 0 { st := .inStep, replay := true, hdrs := [(0, [])] } = none
    ∧ shortEpoch (twinned {}) 0 { st := .inStep, replay := true, hdrs := [(0, [])], counted := [(0, 1)] } = some 0
    ∧ replayFiring (twinned {}) 0 = none := by decide +kernel

/-- A replay's header waits and its firing is refused or admitted; a hob is at an open and at a closed gate; streams read. -/
theorem witness_ReplaysAndStreamReads :
    let t : Twin := { st := .inStep, replay := true, spool := 1, owner := 3, hdrs := [(0, [])] }
    let s (sp : Spool) : State := { twinned t with spl := { svc.spl with creel := [(1, sp)] } }
    let gated (c : List (Nat × Nat)) : State := { twinned { t with counted := c } with
      fir := { all := [(0, { oneFiring with replay := some 0 })], cur := some 0, hobs := [(0, { st := .gated })] } }
    let t1 : Twin := { t with prog := 0x8000 }
    freeSlots (splOf (s { st := .active }) 1) ≥ unwritten (s { st := .active }) 1 + 2
    ∧ (splOf (s {}) 1).st = .disabled ∧ (splOf (s { st := .active }) 1).waitRec = []
    ∧ launchChecks (s { st := .active }) 3 (replayFire t {} 0) false ≠ 0
    ∧ launchChecks { s { st := .active } with fir := { svc.fir with progs := [{ id := 0x8000, owner := some 3 }] } } 3 (replayFire t1 {} 0) false = 0
    ∧ (hobOf (gated []) 0).st = .gated
    ∧ gateOpen (twinOf (gated [(0, 0)]) 0) oneFiring 0 0 = true
    ∧ gateOpen (twinOf (gated []) 0) { oneFiring with f := { oneFiring.f with nPer := 1024, ops := [{}, { used := true }] } } 0 0 = false
    ∧ (fanOf { svc with str := { svc.str with fans := [(0, { ph := .reading })] } } 0).ph = .reading
    ∧ (smkOf { svc with str := { svc.str with smokes := [(0, { snap := 2, snapPick := some 0 })] } } 0).snap = 2
    ∧ snapAt [] 0 = none ∧ resyncAt {} [] 0 = none := by decide +kernel

/-! ### Spools and picks -/

/-- Spool 2 of partition 3, with pick ring at 0 and record ring at 0x10000, in every state of its entry. -/
def aSpool : Spool := { st := .active, cls := 1, owner := 3, pickLog := 4, recLog := 4, ring := 0, cq := 0x10000, tail := 3, head := 1, written := 1 }

def spooled (sp : Spool) : State := { linked with
  regs := linked.regs ++ [(0x203018, 16 * 2 ^ 32)]
  spl := { svc.spl with creel := [(2, sp)], cache := [2], next := 5 } }

theorem witness_DoorbellsActOnTheirSpools_values :
    sub32 aSpool.tail aSpool.retired < sub32 16 aSpool.retired ∧ sub32 16 aSpool.retired ≤ 2 ^ aSpool.pickLog
    ∧ ¬ sub32 17 aSpool.retired ≤ 2 ^ aSpool.pickLog ∧ ¬ sub32 aSpool.tail aSpool.retired < sub32 3 aSpool.retired
    ∧ 0 < sub32 1 aSpool.consumed ∧ sub32 1 aSpool.consumed ≤ sub32 aSpool.written aSpool.consumed
    ∧ ¬ sub32 2 aSpool.consumed ≤ sub32 aSpool.written aSpool.consumed
    ∧ 0 < sub32 aSpool.tail 1 ∧ sub32 aSpool.tail 1 < 2 ^ aSpool.pickLog ∧ sub32 aSpool.tail 1 ≤ sub32 aSpool.tail aSpool.head := by
  decide

def missed : State := { spooled aSpool with spl := { (spooled aSpool).spl with cache := [] } }
def illCreel : State := { spooled aSpool with flt := { svc.flt with ctl := [.creel 2] } }

theorem witness_DoorbellsActOnTheirSpools :
    rqPart agent = some 3
    ∧ (∀ s ∈ [spooled aSpool, missed, illCreel, spooled { aSpool with owner := 4 }, spooled { aSpool with st := .halted }],
        Accepted s agent ∧ inSplRange s 3 2 = true ∧ inSplRange s 3 16 = false ∧ s.spl.dbs.length = 0)
    ∧ (spooled aSpool).spl.cache.contains 2 = true ∧ missed.spl.cache.contains 2 = false
    ∧ CtlWord.creel 2 ∈ illCreel.flt.ctl ∧ CtlWord.creel 2 ∉ (spooled aSpool).flt.ctl := by decide +kernel

def rung : State := { spooled aSpool with spl := { svc.spl with creel := [(2, aSpool)], dbs := [⟨3, 2, 0, 4⟩] } }
def rungLost : State := resWriteN rung (resCreel + 128) [⟨0, true⟩, ⟨0, true⟩]
def rungSound : State := resWriteN rung (resCreel + 128) [⟨0, false⟩, ⟨0, false⟩]

theorem witness_DoorbellsActOnTheirSpools_creel :
    engReady rungLost (creelUse rungLost 2 false) = true ∧ (creelLoad rungLost 2).1 = false ∧ (creelLoad rungSound 2).1 = true
    ∧ rungSound.spl.dbs.filter (fun e => e.spool == 2) = [⟨3, 2, 0, 4⟩] ∧ engReady rungSound (creelUse rungSound 2 false) = true
    ∧ active rungSound 3 = true ∧ inSplRange rungSound 3 2 = true ∧ rungSound.spl.cache.contains 2 = false := by decide +kernel

/-- The 128 bytes of a pick of opcode `o` whose byte `k` is `f k`. -/
def pkBytes (o : Nat) (f : List (Nat × Nat)) : List Byte :=
  (List.range 128).map fun k => BitVec.ofNat 8 (if k = 0 then o else ((f.find? fun e => e.1 == k).map (·.2)).getD 0)

def pk (o : Nat) (f : List (Nat × Nat)) : PickR :=
  { spool := 2, seq := 1, part := 3, cls := 1, opc := o, order := false, alert := false, tag := 0, bytes := pkBytes o f, st := .fetched }

/-- Pick 0 of spool 2 is `x`. -/
def withPick (s : State) (x : PickR) : State := { s with spl := { s.spl with creel := [(2, aSpool)], cache := [2], picks := [(0, x)], next := 5 } }

def fetchOk : State := engWriteBytes (spooled aSpool) 128 (pkBytes 0 [])
def farRing : State := spooled { aSpool with ring := 0x700000000 }

theorem witness_PicksAreFetchedAndRecorded :
    fetchChoice (spooled aSpool) = some 2 ∧ engReady (spooled aSpool) (engReads (spooled aSpool) 1 128 128) = true
    ∧ ownedRange (spooled aSpool) 3 128 128 = true ∧ ownedRange farRing 3 0x700000080 128 = false ∧ fetchChoice farRing = some 2
    ∧ holdsTokens (spooled aSpool) 3 .hearth 1 = true ∧ anyBad (engRead (spooled aSpool) (some 3) 128 128).1 = true
    ∧ fetchChoice fetchOk = some 2 ∧ anyBad (engRead fetchOk (some 3) 128 128).1 = false := by decide +kernel

theorem witness_PicksAreFetchedAndRecorded_sample :
    smpFieldsOk (pk 9 []) = true ∧ smpFieldsOk (pk 9 [(0x11, 1)]) = false ∧ smpParamOk (parseSample svc 5 (pk 9 [])) = false
    ∧ smpParamOk (parseSample svc 5 (pk 9 [(0x14, 8), (0x12, 1), (0x24, 1)])) = true ∧ ctxPart svc 0 ≠ some 3 := by decide +kernel

theorem witness_PicksAreFetchedAndRecorded_record :
    let x : PickR := { pk 0 [] with st := .done 0 0 [] }
    let s (sp : Spool) (x : PickR) : State := { withPick linked x with spl := { svc.spl with creel := [(2, sp)], cache := [2], picks := [(0, x)], doneQ := [0] } }
    pickIsDone x = true ∧ (∀ t ∈ [s aSpool x, s { aSpool with st := .halted } x, s aSpool { x with abortSt := some 3 }], recordNext t 2 = some 0)
    ∧ aSpool.written < 2 ^ 32
    ∧ (∀ j, j < 2 → ownedRange (s aSpool x) 3 (aSpool.cq + 64 * (add32 aSpool.written j % 2 ^ aSpool.recLog)) 64 = true
        ∧ engReady (s aSpool x) (engWrites (s aSpool x) 1 (aSpool.cq + 64 * (add32 aSpool.written j % 2 ^ aSpool.recLog)) 64) = true)
    ∧ engReady { s aSpool x with sched := { svc.sched with blocked := 1 } } (engWrites (s aSpool x) 1 (aSpool.cq + 64) 64) = false := by
  decide +kernel

theorem witness_SpoolConfigurationCommands :
    let s (sp : Spool) (cq cls : Nat) : State := { spooled sp with
      regs := linked.regs ++ [(0x203018, 16 * 2 ^ 32), (0x203308, 4 * 2 ^ 48), (0x203310, BitVec.ofNat 64 cq), (0x203318, 4), (0x203320, BitVec.ofNat 64 cls)] }
    (∀ t ∈ [s aSpool 0 1, s {} 0 1, s { aSpool with st := .halted } 0 0], Accepted t agent ∧ mayPresent t agent 3 = true
      ∧ mayPresent t agent 4 = false ∧ selF t agent (pageBase 3 + 0x300) 0 20 = 0)
    ∧ inSplRange (spooled aSpool) 3 0 = true ∧ inSplRange linked 3 0 = false
    ∧ ownedRange (s {} 0 1) 3 0 (128 * 2 ^ 4) = true ∧ ownedRange (s {} 0 1) 3 0 (64 * 2 ^ 4) = true
    ∧ ownedRange (s {} 0 1) 3 0x700000000 (64 * 2 ^ 4) = false ∧ rightEmber svc 3 = true ∧ rightEmber { svc with regs := [] } 3 = false
    ∧ inFlight (withPick linked (pk 0 [])) 2 = 1 ∧ inFlight (s aSpool 0 1) 2 = 0 := by decide +kernel

/-- Picks that change the mode of region 1 or of no region, and the region in every state of a change. -/
theorem witness_RegionModeChanges :
    let rg (st : ModeSt) (b : Bool) : Region := { kind := .bankLocal, base := 0x800000000, first := 2, count := 2, c1 := 0, r1 := 0, owner := 3,
                                                  banked := b, st := st, pick := some 0 }
    let s (x : PickR) (r : Region) : State := { withPick linked x with regions := [(1, r)] }
    (∀ st ∈ [ModeSt.idle, .await true, .await false, .held true, .held false, .draining, .awaitFirings], ∀ b,
        (∀ x ∈ [pk 2 [(0x10, 1)], pk 2 [(0x10, 1), (0x12, 1)]],
          Starts (s x (rg st b)) 0 2 x ∧ rgnAt (s x (rg st b)) 1 = some (rg st b) ∧ pkZero x 0x13 0x80 = true)
        ∧ Starts (s (pk 3 [(0x10, 1)]) (rg st b)) 0 3 (pk 3 [(0x10, 1)]) ∧ Accepted (s (pk 2 []) (rg st b)) agent
        ∧ rgnInUse (s (pk 2 []) (rg st b)) 1 = false)
    ∧ Waits (s { pk 2 [] with st := .started } (rg .idle true)) 0 2 { pk 2 [] with st := .started }
    ∧ pkZero (pk 2 [(0x13, 1)]) 0x13 0x80 = false ∧ (pickIsDone (pk 2 []) = false) := by decide +kernel

def prBlock (w : Nat) : List Byte :=
  leBytes 2 0x8000 ++ leBytes 2 1 ++ leBytes 2 0x200 ++ List.replicate 58 0 ++ leBytes 8 w ++ List.replicate 24 0

/-- A registration block in memory, its program the one word `w`. -/
def registering (w : Nat) : State := withPick (engWriteBytes (spooled aSpool) 0 (prBlock w)) (pk 4 [])

theorem witness_ProgramAndStepPicks :
    (∀ t ∈ [withPick (spooled aSpool) (pk 4 []), registering (wordOf 0x34 0)], Starts t 0 4 (pk 4 []) ∧ rightRegister t 3 = true
        ∧ ownedRange t 3 0 0x40 = true ∧ ownedRange t 3 0 0x48 = true ∧ findProg t 0x8000 = none ∧ rightStep t 3 = true)
    ∧ anyBad (engRead (withPick (spooled aSpool) (pk 4 [])) (some 3) 0 0x48).1 = true
    ∧ anyBad (engRead (registering (wordOf 0x34 0)) (some 3) 0 0x48).1 = false := by decide +kernel

theorem witness_ProgramAndStepPicks_program :
    progFieldsOk (parseProg 3 (prBlock (wordOf 0x34 0))) (prBlock (wordOf 0x34 0)) = true
    ∧ loaderCode (parseProg 3 (prBlock (wordOf 0x34 0))) = 0 ∧ loaderCode (parseProg 3 (prBlock (wordOf 0xFF 0))) ≠ 0 := by decide +kernel

theorem witness_ProgramAndStepPicks_contexts :
    (∀ x ∈ [pk 7 [(0x10, 2)], pk 8 [(0x10, 2), (0x14, 7)]], Starts (withPick linked x) 0 x.opc x)
    ∧ (smFind linked.stp.ctxs 2).map (·.owner) = some 3 ∧ smFind linked.stp.ctxs 0 = none
    ∧ pkF (pk 8 [(0x10, 2), (0x14, 7)]) 0x14 4 = 7 := by decide +kernel

/-- A step-context block that passes every check of R179, with region 1 to bind. -/
def stBlock : List Byte :=
  let f : List (Nat × Nat) := [(0, 1), (2, 1), (3, 1), (8, 100), (12, 100), (0x14, 1), (0x18, 1), (0x1E, 1), (0x20, 1), (0x25, 4), (0x40, 1)]
  (List.range 0x142).map fun k => BitVec.ofNat 8 (((f.find? fun e => e.1 == k).map (·.2)).getD 0)

theorem witness_ProgramAndStepPicks_step :
    stepRanges linked (parseStep 3 stBlock) stBlock = true ∧ ownedRange linked 3 0 (64 * 2 ^ 4) = true
    ∧ (parseStep 3 stBlock).rgns.all (fun r => rgnBindable { linked with stp := svc.stp } 3 r.rgn) = true
    ∧ (parseStep 3 stBlock).rgns.all (fun r => rgnBindable linked 3 r.rgn) = false := by decide +kernel

/-- Peer 7 has every role, and its session is OPEN. -/
def strPick (f : State → State) (x : PickR) : State :=
  withPick (f { linked with ports := { linked.ports with peers := [(0, friend)] } }) x

/-- The state has a stream of each kind in entry 0, and a mirror record in each of two states. -/
def streams (t : Twin) (s : State) : State := { s with
  str := { svc.str with fans := [(0, { owner := 3 })], rxFan := [(0, { owner := 3 })], rxSmoke := [(0, { owner := 3 })], twins := [(0, { t with owner := 3, peer := 7 })],
                        smokes := [(0, { owner := 3, ctx := 2 })] }
  boot := { s.boot with img := { s.boot.img with cfg := { s.boot.img.cfg with smokeLog := 0x400000 } } } }

theorem witness_StreamAndRecordPicks_waits :
    ∀ o ∈ [0x0A, 0x0B, 0x0C, 0x0D, 0x0E, 0x0F, 0x10], Waits (strPick id { pk o [] with st := .started }) 0 o { pk o [] with st := .started }
      ∧ Starts (strPick (streams {}) (pk o [])) 0 o (pk o []) := by decide +kernel

/-- FAN_CONFIG sets and removes a stream; RX_CONFIG sets one of region 0; SMOKE_CONFIG sets one with a share of one MiB. -/
theorem witness_StreamAndRecordPicks :
    let fan := [(0x10, 2), (0x11, 1), (0x12, 0xFF), (0x18, 7)]
    let smk := [(0x10, 2), (0x11, 1), (0x12, 1), (0x14, 1), (0x16, 0xFF), (0x18, 7)]
    destsOk (strPick id (pk 0x0A fan)) (pk 0x0A fan) 1 4 = true ∧ pkZero (pk 0x0A fan) 0x14 0x18 = true
    ∧ rightStep linked 3 = true ∧ holdsCtx linked 3 2 = true ∧ holdsCtx linked 3 1 = false
    ∧ destsOk (strPick id (pk 0x0A [])) (pk 0x0A []) 0 4 = true ∧ hasRole (strPick id (pk 0x0B [])) 7 3 = true
    ∧ (openRgn linked 3 0).isSome = true ∧ openRgn linked 3 5 = none
    ∧ destsOk (strPick id (pk 0x0F smk)) (pk 0x0F smk) 1 6 = true
    ∧ (strPick (streams {}) (pk 0x0F smk)).boot.img.cfg.smokeLog ≥ 0x100000
    ∧ updateAhead (smGet {} linked.stp.ctxs 2) 7 = true ∧ updateAhead (smGet {} linked.stp.ctxs 2) 6 = false
    ∧ (openPeer (strPick id (pk 0x0E [])) 7).isSome = true ∧ (smFind (strPick (streams { st := .diverged }) (pk 0x0E [])).str.twins 0).map (·.st) = some .diverged
    ∧ replayFiring linked 0 = none := by decide +kernel

/-- The block of TWIN_PAIR: partner 7, context 2, an owner record. -/
def pairBlock : List Byte := (List.range 0x70).map fun k => BitVec.ofNat 8 (if k = 2 then 7 else if k = 4 then 2 else 0)

theorem witness_StreamAndRecordPicks_pair :
    let s := strPick (fun s => engWriteBytes s 0 (padTo 0x80 pairBlock)) (pk 0x0C [])
    Starts s 0 0x0C (pk 0x0C []) ∧ ownedRange s 3 0 0x70 = true ∧ anyBad (engRead s (some 3) 0 0x70).1 = false
    ∧ pairOk s 3 (parsePair 3 0 pairBlock) pairBlock = true ∧ (parsePair 3 0 pairBlock).replay = false
    ∧ holdsCtx s 3 (parsePair 3 0 pairBlock).ctx = true ∧ (openPeer s (parsePair 3 0 pairBlock).peer).isSome = true := by decide +kernel

/-! ### Firings -/

/-- A FIRE pick of program 0x8000 without operands, on hob 0; a registered program of it. -/
def firing1 (ps : List Prog) : State := { withPick linked (pk 1 [(0x11, 0x80)]) with fir := { svc.fir with progs := ps } }
def aProg : Prog := { id := 0x8000, owner := some 3, len := 1 }

theorem witness_FiringsAreAdmittedAndStarted :
    smFind (firing1 [aProg]).spl.picks 0 = some (pk 1 [(0x11, 0x80)]) ∧ fireFieldsOk (pk 1 [(0x11, 0x80)]) = true
    ∧ launchChecks (firing1 [aProg]) 3 (parseFire (pk 1 [(0x11, 0x80)])) true = 0
    ∧ launchChecks (firing1 []) 3 (parseFire (pk 1 [(0x11, 0x80)])) true ≠ 0 ∧ fireFieldsOk (pk 1 [(0x12, 16)]) = false
    ∧ curFiring (firing1 [aProg]) = none := by decide +kernel

/-- One firing waits, QUEUED or SUSPENDED in slot 0, its program's copies unwritten, lost, or the first one lost. -/
def chosen (x : Firing) : State := { linked with fir := { all := [(0, { x with code := aProg })], next := 1, slots := 2 } }
def queued : Firing := { oneFiring with st := .queued, launched := false, pick := some 0 }
def suspended : Firing := { oneFiring with st := .suspended, slot := some 0, saved := [(0, ⟨0, 0, 0⟩)] }
def lost (i : Nat) (s : State) : State := resWriteN s (progOff s 0 i) [⟨0, true⟩]

theorem witness_FiringsAreAdmittedAndStarted_select :
    (∀ x ∈ [queued, suspended], (chosen x).fir.cur = none ∧ tilesSleep (chosen x) = false ∧ selectChoice (chosen x) = some 0)
    ∧ progGrans aProg = 1
    ∧ (∀ s ∈ [chosen queued, chosen suspended], anyBad ((resReadN s (progOff s 0 0) 1).1.map (·.2)) = false)
    ∧ (let s := lost 0 (chosen queued); anyBad ((resReadN s (progOff s 0 0) 1).1.map (·.2)) = true ∧ anyBad ((resReadN s (progOff s 0 1) 1).1.map (·.2)) = false)
    ∧ (let s := lost 1 (lost 0 (chosen queued)); anyBad ((resReadN s (progOff s 0 0) 1).1.map (·.2)) = true ∧ anyBad ((resReadN s (progOff s 0 1) 1).1.map (·.2)) = true) := by
  decide +kernel

def holding (x : Firing) (h : Hob) : State := { linked with fir := { all := [(0, x)], cur := some 0, hobs := [(0, h)], next := 1, slots := 2 } }

theorem witness_FiringsAreAdmittedAndStarted_load :
    let l := holding { oneFiring with st := .launching } {}
    let r := holding { suspended with st := .restoring } {}
    curFiring l = some (0, { oneFiring with st := .launching }) ∧ curFiring r = some (0, { suspended with st := .restoring })
    ∧ ¬ 0 < oneFiring.f.bsize ∧ scanIn l oneFiring.f (fun q => q.bound && decide (q.phase ≤ 1)) = false
    ∧ (suspended.saved.map (·.1)).Nodup ∧ suspended.ended = []
    ∧ (ctxHob (ctxBadParts suspended 0 ((resReadN r (ctxOff r 0 0) 40).1.map (·.2))) ⟨0, 0, 0⟩).2 = false
    ∧ (let q := { suspended with st := .restoring, badCtx := [(0, 16)] }
       (ctxHob (ctxBadParts q 0 ((resReadN r (ctxOff r 0 0) 40).1.map (·.2))) ⟨0, 0, 0⟩).2 = true) := by decide +kernel

/-- A running firing that stands held, that stops, and whose hobs run, have stopped or have ended. -/
theorem witness_FiringsStopSaveAndCommit :
    (∀ x ∈ [oneFiring, { oneFiring with causes := [.test] }, { oneFiring with st := .stopping, causes := [.hobTime] }, { oneFiring with st := .ending },
        { oneFiring with st := .saving, slot := some 0, saved := [(0, ⟨0, 0, 0⟩)] }],
      ∀ h ∈ [HobSt.run, .stopped, .ended], curFiring (holding x { st := h }) = some (0, x) ∧ rectHobs x.f = [0]
        ∧ (hobOf (holding x { st := h }) 0).st = h)
    ∧ freeSlot (holding { oneFiring with st := .stopping } { st := .stopped }) = some 0
    ∧ freeSlot { holding { oneFiring with st := .stopping } { st := .stopped } with fir := { svc.fir with slots := 0 } } = none
    ∧ commitReady (holding { oneFiring with st := .ending } { st := .ended }) { oneFiring with st := .ending, f := { oneFiring.f with outLen := 0 } } = true
    ∧ (let s := { holding oneFiring {} with
           fir := { all := [(0, oneFiring), (1, { oneFiring with part := 4, st := .queued })], cur := some 0 }
           parts := [(4, { st := .active, lvlHob := 100 })] }
       (s.fir.all.any fun kv => kv.2.part != 3 && kv.2.cls ≤ 1 && runnable s kv.2) = true ∧ s.fir.all.Pairwise (fun a b => a.1 < b.1)) := by
  decide +kernel

theorem witness_FiringsStopSaveAndCommit_causes :
    let x : Firing := { oneFiring with causes := [.hobTime] }
    let poor : State := { holding x { st := .run } with parts := [(3, { st := .active, lvlHob := -1 })] }
    x.causes.filter (causeStands poor x) = [.hobTime] ∧ causeHeld poor x .hobTime = false
    ∧ causeHeld { poor with fir := { poor.fir with slots := 0 } } x .hobTime = true := by decide +kernel

/-- A test of hob 0 or of another waits while a firing runs there, past its bound or not. -/
theorem witness_FiringsStopSaveAndCommit_test :
    let q (b : Bool) (p : Option Nat) : State := { holding oneFiring { st := .run } with
      flt := { svc.flt with scan := some { die := 0, pair := 0, segs := 0, pos := p, phase := 0, bound := b } } }
    (∀ b, ∀ p ∈ [none, some 0, some 1], ∃ y ∈ (q b p).flt.scan, y.bound = b ∧ y.phase < 2 ∧ y.pos = p)
    ∧ inRect oneFiring.f 0 = true ∧ inRect oneFiring.f 1 = false ∧ executing oneFiring = true := by decide +kernel

/-! ### Steps, tiles and the tick -/

/-- An ACCW for the slot of block 0, unit 0 of region 1, at the front of its pair's queue or still waiting; its tag granule clean. -/
def anAcc : AccReq := { ctx := 2, epoch := 7, rgn := 1, die := 0, pos := 0, loc := 6291456, fmt := 0, contrib := 0, rtag := 0, data := two, pbase := 0,
                        key := 0, w := 0x3F800000, stream := 1, from_ := none, chan := 20, part := 3 }

def accState (g : List (Nat × AccReq)) : State := { linked with stp := { linked.stp with acc := g } }

theorem witness_StepEvents_accw :
    let s := accState [(4, anAcc)]
    let later := accState [(3, anAcc), (4, anAcc)]
    let q (b : Bool) : State := { s with
      sched := { s.sched with pairs := [(0, { q := [{ aLoad 0 with src := .accw, op := .acc 4 6293504, busy := b }] })] } }
    smFind s.stp.acc 4 = some anAcc ∧ (∃ e ∈ later.stp.acc, e.1 < 4 ∧ e.2.chan = anAcc.chan)
    ∧ accGranted (pairAt (q true) 0 0) 4 = true ∧ accGranted (pairAt (q false) 0 0) 4 = false
    ∧ locReserved s 6293504 = false ∧ locReserved s 6291456 = false ∧ locReserved s 6291552 = false
    ∧ (memGet s.mem (locAddr s 0 0 6293504)).2.poison = true
    ∧ (memGet (writeGran s 0 0 6293504 ⟨0, false⟩).mem (locAddr s 0 0 6293504)).2.poison = false := by decide +kernel

def aFence (e : Nat) : FenceReq := { ctx := 2, epoch := e, contrib := 0, flue := false, module := 0, hdr := 0, chan := 20, wait := [] }

/-- Context 2 with epoch 7 open, and with it closed; a fence for it, for older and later epochs, and one that waits. -/
def ctxIn (c : StepCtx) : State := { linked with stp := { linked.stp with ctxs := [(2, c)], fences := [(0, aFence 7), (1, aFence 8), (2, aFence 5), (3, { aFence 7 with wait := [4] }), (4, { aFence 7 with ctx := 1 })] } }

def open7 : StepCtx := { owner := 3, openEpoch := 7, isOpen := true, dec := 7, expect := 1, eps := [{ e := 7 }] }

theorem witness_StepEvents :
    (∀ n, n < 5 → (smFind (ctxIn open7).stp.fences n).isSome = true) ∧ smFind (ctxIn open7).stp.ctxs 2 = some open7
    ∧ smFind (ctxIn open7).stp.ctxs 1 = none ∧ epOf open7 7 = some { e := 7 }
    ∧ 0 ∈ ({ e := 7, fences := [0] } : Epoch).fences ∧ (8 : Nat) + 1 ≠ open7.openEpoch ∧ 5 + 1 < open7.openEpoch
    ∧ (∀ x ∈ [({ e := 7, deadline := true } : Epoch), { e := 7, cause := 1 }, { e := 7 }], epOf { open7 with eps := [x] } open7.openEpoch = some x)
    ∧ engReady (ctxIn { open7 with retag := some 6 }) { cls := 1, places := retagPlaces (ctxIn open7) { open7 with retag := some 6 } 6, rd := 0, wr := 0 } = true := by
  decide +kernel

/-- An epoch that is closed, and one deciding, each decided at once and not yet. -/
theorem witness_StepEvents_decision :
    let closed : StepCtx := { open7 with openEpoch := 8, eps := [{ e := 7, st := .closed }, { e := 8 }] }
    let deciding (n : Nat) : StepCtx := { open7 with openEpoch := 8, n := n, eps := [{ e := 7, st := .deciding }] }
    closed.eps.find? (fun y => y.st == .closed) = some { e := 7, st := .closed }
    ∧ (normFirst (deciding 2)).map (·.e) = some 7 ∧ closed.dec = 7 ∧ epOf (deciding 2) 8 = none
    ∧ (∀ n ∈ ctxHobs (ctxIn closed) closed, weftFree (ctxIn closed) (n / 32) 2 = true)
    ∧ decideRow (deciding 2) { e := 7, st := .deciding } = none ∧ decideRow (deciding 1) { e := 7, st := .deciding } = some 1
    ∧ (decideRow (deciding 2) { e := 7, st := .deciding, timedOut := true }).isSome = true := by decide +kernel

/-- A drain with no record left, with one that is sound, and with one that is lost. -/
theorem witness_StepEvents_drain :
    let c : StepCtx := { open7 with drains := [⟨0, 6, 0x3F800000⟩], ash := [⟨0, 6, 0⟩] }
    let s := ctxIn c
    let bad := resWriteN s (ashOff s 0) [⟨0, true⟩, ⟨0, true⟩, ⟨0, true⟩]
    c.drains = [⟨0, 6, 0x3F800000⟩] ∧ c.ash.find? (fun q => q.contrib == 0 && q.epoch == 6) = some ⟨0, 6, 0⟩
    ∧ (ashRead (resReadN s (ashOff s 0) 3).1).isSome = true ∧ ashRead (resReadN bad (ashOff s 0) 3).1 = none
    ∧ holdsTokens s 3 .hearth 1 = true ∧ (engTurn (resReadN bad (ashOff s 0) 3).2 (drainUse bad 0 none)).isSome = true := by decide +kernel

theorem witness_TilesTokensAndTheTick :
    let r : Tread := { module := 0, hdr := rqHdr 6 0 0 [(8, 1, 1)], cls := 1, part := 3 }
    let s (r : Tread) (room left : Nat) : State := { linked with
      treads := [(0, r)]
      staging := { linked.staging with tpose := room }
      ports := { linked.ports with txns := [(0, { flue := false, module := 0, hdr := r.hdr, chan := 20, isWrite := false, left := left, data := [], failed := false, mute := false })] } }
    smFind (s r 1 0).treads 0 = some r ∧ r.alloc = false ∧ ¬ (s r 1 0).staging.tpose * 0x100000 < treadBytes (tType r.hdr)
    ∧ (s r 0 0).staging.tpose * 0x100000 < treadBytes (tType r.hdr)
    ∧ ((smFind (s { r with alloc := true } 1 0).ports.txns 0).map (·.left)) = some 0
    ∧ (let h := rqHdr 6 0 0 [(8, 1, 1), (130, 3, 1)]
       tType h = 1 ∧ srcBit h 5 3 % 256 + 16 ≤ 256 ∧ (tileGran h [] 0).poison = true
       ∧ (tileGran h ((List.range 256).map fun i => (32 * i, ⟨0, false⟩)) 0).poison = false) := by decide +kernel

theorem witness_TilesTokensAndTheTick_sampler :
    let w : SampleW := 
      { pick := 0, ctx := 0, cls := 1, part := 3, fmt := 0, src := 0, v := 8, t := 0, k := 1, p := 1, stream := 0, position := 0, epoch := 0, key := 0 }
    let s : State := { withPick linked (pk 9 []) with smp := { svc.smp with wait := [w] } }
    let run : State := { withPick linked (pk 9 []) with smp := { svc.smp with run := some w } }
    smpChoice s = some w ∧ w.ctx = 0 ∧ holdsTokens s 3 .hearth w.cls = true ∧ tilesSleep s = false
    ∧ run.smp.run = some w ∧ w.v ≤ 2 ^ 24 ∧ engReady run (engReads run w.cls w.src 16) = true
    ∧ anyBad (engRead run (some 3) w.src 16).1 = true
    ∧ anyBad (engRead (engWriteBytes run 0 (List.replicate 32 0)) (some 3) w.src 16).1 = false
    ∧ gtcRuns svc = true ∧ svc.boot.st = .service ∧ gtcRuns State.reset = false := by decide +kernel

/-! ### The fireback -/

/-- A command copy of opcode `o`, key slot `k`, counter 5 and payload `p`; its tag is zero. -/
def cmdCopy (o k : Nat) (p : List Byte) : List Byte :=
  padTo 240 (leBytes 2 o ++ leBytes 2 k ++ leBytes 4 p.length ++ leBytes 8 5 ++ p)

/-- Mailbox 4, of partition 3, in state `st` with a command of opcode `o`; the fireback knows both keys and counters to 9. -/
def boxed (st : MbSt) (c : List Byte) (o : Nat) : State := { svc with
  fb := { svc.fb with ready := true, resv := 9, ctr := 3, key0 := some 1, key1 := some 2, kek := some 3, mbox := [(4, { st := st, copy := c, opcode := o })] } }

theorem witness_MailboxesAreCheckedInOrder :
    (∀ st ∈ [MbSt.idle, .done, .pending, .evaluating, .running], Accepted (boxed st [] 1) agent ∧ (mboxOf (boxed st [] 1) 4).st = st)
    ∧ mboxAllowed svc agent 4 = true ∧ mboxAllowed svc agent 5 = false
    ∧ (∀ c ∈ [cmdCopy 1 0 [], cmdCopy 1 1 [], cmdCopy 14 0 []], mboxNext (boxed .pending c 0) = some 4 ∧ fbRuns (boxed .pending c 0) = true)
    ∧ formatGood (cmdCopy 1 0 []) = true ∧ formatGood (cmdCopy 14 0 []) = false ∧ cmSlot (cmdCopy 1 0 []) = slotFor (cmdCopy 1 0 [])
    ∧ cmSlot (cmdCopy 1 1 []) ≠ slotFor (cmdCopy 1 1 []) ∧ cmCounter (cmdCopy 1 0 []) = 5
    ∧ fbRuns State.reset = false := by decide +kernel

/-- A reservation write under way, and a second SPARE_PAIR while one runs. -/
theorem witness_MailboxesAreCheckedInOrder_more :
    let s : State := { svc with fb := { svc.fb with resvWrite := some 64 } }
    let two : State := { svc with fb := { svc.fb with mbox := [(4, { st := .evaluating, copy := cmdCopy 4 0 [0, 1], opcode := 4 }), (5, { st := .running, opcode := 4 })] } }
    s.fb.resvWrite = some 64 ∧ s.boot.op = none ∧ fbRuns s = true
    ∧ Judged two 4 4 ∧ (payloadOf two 4).length = 2 ∧ leAt (payloadOf two 4) 1 1 < 32 ∧ (∃ m ∈ two.fb.mbox, m.2.st = .running ∧ m.2.opcode = 4) := by
  decide +kernel

/-- Every command of R481 with a payload that it carries out, and one of the wrong length. -/
theorem witness_FirebackCommandsAct :
    ∀ e ∈ [(1, List.replicate 16 0), (2, [3, 0]), (3, [0, 0, 3, 0]), (4, [0, 1]), (5, [0, 1]), (6, [0, 0, 0, 0]), (7, leBytes 8 (2 ^ 37 + 2 ^ 42)),
        (8, leBytes 8 0), (9, [3]), (9, [4]), (9, [2, 3, 0]), (10, [0, 33]), (11, List.replicate 18 0), (12, List.replicate 41 0),
        (13, List.replicate 10 0), (1, [0]), (2, []), (3, []), (4, []), (5, []), (6, []), (7, []), (8, []), (9, []), (10, []), (11, []), (12, []), (13, [])],
      let s := boxed .evaluating (cmdCopy e.1 0 e.2) e.1
      Judged s 4 e.1 ∧ Lone s e.1 ∧ payloadOf s 4 = e.2 := by decide +kernel

theorem witness_FirebackCommandsAct_values :
    let s := boxed .evaluating (cmdCopy 3 0 [0, 0, 3, 0]) 3
    let r : Region := { owner := 4 }
    active s 3 = true ∧ rgnFree { s with regions := [(0, r)] } 0 r = true
    ∧ findSpare s 0 = some 32 ∧ s.warp.migr = none ∧ (tsvDie s 0).busy = none ∧ (tsvDie s 0).spacing = false
    ∧ govValue 0 = some 0 ∧ govValue 0x42C80000 = some 200 ∧ govValue 1 = none
    ∧ calParse (BitVec.ofNat 64 (2 ^ 37 + 2 ^ 42)) = some 0 ∧ calParse 0 = none
    ∧ s.flt.halted = false ∧ rung3Runs s = false ∧ s.boot.st ≠ .haltVersion ∧ (overrideOf (List.replicate 10 0)).expiry = 0
    ∧ (overrideOf (List.replicate 10 1)).expiry ≠ 0 := by decide +kernel

/-- Entries of RWF_WRITE: partition 3's rights, in range. -/
theorem witness_FirebackCommandsAct_rwf :
    let p : List Byte := leBytes 4 0x203008 ++ leBytes 4 1 ++ leBytes 8 1
    p.length % 16 = 0 ∧ rwfAligned p = true ∧ rwfRefusal svc ((rwfEntries p).foldl rwfApply svc) (rwfEntries p) = none
    ∧ ∀ e ∈ rwfEntries p, e.off ≠ 0x60018 ∧ e.off ≠ 0x50028 ∧ e.off ≠ 0x50010 ∧ e.off ≠ 0x50008 := by decide +kernel

theorem witness_HeatTimeAndReinitialisation :
    let hot (h : Bool) (c : Bool) : State := { svc with fb := { svc.fb with hold := h, inCrit := c } }
    let re (n : Nat) : State := { svc with parts := [(3, { st := .reinit, reinitStep := n })] }
    fbRuns svc = true ∧ (hot true false).fb.hold = true ∧ svc.fb.hold = false
    ∧ svc.fb.holdSteps + 1 < 100000 * regF { svc with regs := [(0xF10080, 5 * 2 ^ 32)] } 0xF10080 32 10
    ∧ (recentResets svc).length < regF { svc with regs := [(0xF10080, 3 * 2 ^ 8)] } 0xF10080 8 4
    ∧ svc.fb.lockstep = false ∧ svc.flt.halted = false ∧ rung3Runs svc = false
    ∧ (part (re 1) 3).st = .reinit ∧ unsettled (re 1) 3 = false ∧ (part (re 2) 3).reinitStep = 2
    ∧ fillRuns (re 2) 3 = false
    ∧ fillRuns { re 2 with fir := { svc.fir with all := [(0, { part := 3, fill := true })] } } 3 = true
    ∧ (0, ({ owner := 3 } : Region)) ∈ ({ re 1 with regions := [(0, { owner := 3 })] } : State).regions
    ∧ svc.fb.cal < calLast ∧ svc.fb.calEnd = false := by decide +kernel

/-! ### Clocks, power and boot -/

/-- Windows that are good, bad and beyond 4 percent, with the root PLL running and coasting, the marks lost and present. -/
theorem witness_ClocksAreJudgedAndCoast :
    let s (c : Clk) : State := { svc with clk := { c with pgFb := true, pgBase := true, coldLow := false } }
    (∀ c ∈ [({ rootReady := true } : Clk), { rootReady := true, badWin := 1, refReady := true }, { coast := true, refReady := true }, { hpLock := true, flLock := true, refActive := 1 }],
      monRuns (s c) = true)
    ∧ ((4100 : Int) - 4096).natAbs ≤ 4 ∧ ((4200 : Int) - 4096).natAbs ≤ 163 ∧ 163 < ((5000 : Int) - 4096).natAbs
    ∧ (s {}).ports.markLost = true ∧ monRuns State.reset = false := by decide +kernel

theorem witness_SuppliesResetsAndPowerStates :
    let k (p : PwrSt) : State := { svc with clk := { svc.clk with pst := p } }
    svc.clk.coldLow = false ∧ State.reset.clk.coldLow = true ∧ svc.clk.pgIo = true ∧ bitAt svc.clk.pgTile 7 = true ∧ bitAt svc.clk.pgTile 8 = false
    ∧ svc.boot.dies ≤ 8 ∧ 7 < svc.boot.dies ∧ fbRuns svc = true ∧ rung3Runs svc = false
    ∧ monRuns svc = true ∧ ({ svc with fb := {} } : State).fb.ready = false
    ∧ retainOk (k .retainEntry) = true ∧ retainOk { k .retainEntry with fir := { svc.fir with all := [(0, oneFiring)] } } = false
    ∧ (k .retainExit).clk.pst = .retainExit := by decide +kernel

/-- Each boot state; a stack of 8 dies that releases well, one die short and of another release. -/
theorem witness_BootGoesThroughItsStates :
    let b (st : BootSt) : State := { svc with boot := { svc.boot with st := st } }
    (∀ st ∈ [BootSt.stack, .flash, .read, .check, .load, .arrays, .tables], (b st).boot.st = st ∧ (b st).flt.halted = false)
    ∧ (255 : Nat) = 2 ^ 8 - 1 ∧ (∀ d, d < 8 → bitAt svc.clk.pgTile d = true) ∧ bitAt svc.clk.pgTile 11 = false
    ∧ (∀ e ∈ [(0, 0x201)], e.2 = 0x201) ∧ (∃ e ∈ [(0, 0x301)], e.2 ≠ 0x201)
    ∧ (b .tables).boot.cfg.regions = [] ∧ svc.boot.cfg.parts = [] ∧ svc.fb.accepted = [] := by decide

/-- A signed part that passes the checks of R515, and package descriptors that are tested. -/
theorem witness_BootGoesThroughItsStates_image :
    let h := padTo 0x2A1 (leBytes 4 0x484B5344 ++ leBytes 2 1 ++ leBytes 2 0x201 ++ leBytes 8 0 ++ leBytes 4 0x2A1 ++ leBytes 4 0x2A1 ++ leBytes 12 0
      ++ leBytes 2 8 ++ leBytes 2 3 ++ leBytes 24 0 ++ leBytes 64 1 ++ leBytes 64 2 ++ leBytes 64 4)
    let fw : ImgPkg := { version := 1, sigOk := true, fits := true, tested := [(0x201, 1, 2)] }
    let lib : ImgPkg := { version := 2, sigOk := true, fits := true, tested := [] }
    leAt h 0x24 2 = 8 ∧ tripleTested fw lib = true ∧ leAt h 0 4 = 0x484B5344 := by decide +kernel

/-- The armed writer's commands: the slot not in use is 1, and so the one the arm names may be written. -/
theorem witness_FlashSlotsAndTheLibrary :
    let armed : State := { svc with regs := svc.regs ++ [(0x60020, 7), (0x60030, BitVec.ofNat 64 stgWin)], staging := { svc.staging with general := 1 } }
    Accepted armed .mgmt ∧ (accessCharge armed .mgmt).boot.flSt ≠ 1 ∧ regF armed 0x60020 0 1 = 1 ∧ (regF armed 0x60020 1 1 == 1) ≠ armed.boot.slotB
    ∧ armed.boot.libOther = false ∧ stgWin % 64 = 0 ∧ regF armed 0x60030 0 48 = stgWin ∧ stgWin - stgWin + 0x10000 ≤ stgSootBase armed.staging
    ∧ (0 + 1) * 0x10000 ≤ (dirOf armed).slotSize ∧ regF svc 0x60020 0 1 = 0 := by decide +kernel

theorem witness_FlashSlotsAndTheLibrary_operations :
    let s (o : Option FlashOp) : State := { svc with boot := { svc.boot with op := o }, flt := { svc.flt with histDue := true } }
    (∀ o ∈ [FlashOp.erase true, .program false 0 [1], .histWrite], (s (some o)).boot.op = some o) ∧ (s none).boot.op = none
    ∧ flashFirst svc = none ∧ (s none).flt.histDue = true ∧ (s none).flt.fallback = false
    ∧ svc.boot.libLoad ≠ 1 ∧ ({ svc with boot := { svc.boot with libLoad := 1 } } : State).boot.libLoad = 1 := by decide +kernel

theorem witness_FaultsAreRecordedAndTilesTested :
    let e (c : FClass) : FEvent := evt svc 0x0101 c 1
    let q (c : FClass) : State := { svc with flt := { svc.flt with chans := [(4, [e c])] } }
    (∀ c ∈ [FClass.info, .corrected, .data, .block, .stack], smGet [] (q c).flt.chans 4 = [e c] ∧ fbRuns (q c) = true ∧ isSuppressed (q c) (e c) = false)
    ∧ isSuppressed { q .corrected with flt := { svc.flt with rate := [(rateKey (e .corrected), ⟨0, 0⟩)] }, regs := [(0xF10020, 10)] } (e .corrected) = true
    ∧ svc.flt.halted = false ∧ rung3Runs svc = false ∧ svc.boot.op = none ∧ svc.flt.scan = none ∧ svc.boot.dies ≠ 0 := by decide +kernel

/-- A tile's test in each phase, of a position that serves and of a spare. -/
theorem witness_FaultsAreRecordedAndTilesTested_scan :
    let y (ph : Nat) (p : Option Nat) : ScanT := { die := 0, pair := 1, pos := p, phase := ph, segs := 0 }
    let s (ph : Nat) (p : Option Nat) : State := { svc with flt := { svc.flt with scan := some (y ph p), fallback := true } }
    (∀ ph ∈ [0, 1, 2], ∀ p ∈ [none, some 1], (s ph p).flt.scan = some (y ph p) ∧ tileBusy (s ph p) (y ph p) = false ∧ weftFree (s ph p) 0 4 = true)
    ∧ findSpare svc 0 = some 32 ∧ svc.warp.migr = none := by decide +kernel

theorem witness_ManagementPortAndTap : State.reset.clk.coldLow = true ∧ svc.clk.coldLow = false ∧ svc.clk.pgFb = true ∧ (0x8 : Nat) < 0x2000000
    ∧ 0x8 % 8 = 0 ∧ 0x2 % 4 ≠ 0 ∧ svc.mgmt.dyn = none := by decide

/-! ### A command whose tag is right -/

theorem listSet_length {α : Type} (l : List α) (i : Nat) (x : α) : (listSet l i x).length = l.length := by
  induction l generalizing i with
  | nil => cases i <;> rfl
  | cons a t ih => cases i <;> simp [listSet, ih]

theorem shaRound_length (v : List W32) (w : W32) (h : v.length = 8) : (shaRound v w).length = 8 := by
  simp [shaRound, listSet_length, h]

theorem shaRounds_length (l : List W32) (v : List W32) (h : v.length = 8) : (l.foldl shaRound v).length = 8 := by
  induction l generalizing v with
  | nil => exact h
  | cons a t ih => exact ih _ (shaRound_length v a h)

theorem shaBlocks_length (l : List (List Byte)) (v : List W32) (h : v.length = 8) : (l.foldl shaBlock v).length = 8 := by
  induction l generalizing v with
  | nil => exact h
  | cons a t ih => exact ih _ (by simp [shaBlock, h, shaRounds_length])

theorem leBytes_length (n x : Nat) : (leBytes n x).length = n := by
  induction n generalizing x with
  | zero => rfl
  | succ n ih => simp [leBytes, ih]

theorem chained_length (l : List W32) : (l.flatMap fun w => beBytes 4 w.toNat).length = 4 * l.length := by
  induction l with
  | nil => rfl
  | cons a t ih => simp only [List.flatMap_cons, List.length_append, ih, List.length_cons]; simp [beBytes, leBytes_length]; omega

/-- A SHA-256 is 32 bytes. -/
theorem sha256_length (m : List Byte) : (sha256 m).length = 32 := by
  unfold sha256
  rw [chained_length, shaBlocks_length _ _ (by decide +kernel)]

theorem leAt_append (b r : List Byte) (o n : Nat) (h : o + n ≤ b.length) : leAt (b ++ r) o n = leAt b o n := by
  unfold leAt
  rw [List.drop_append_of_le_length (by omega), List.take_append_of_le_length (by simp; omega)]

/-- Whatever the fused identity, some copy carries the tag of key 1. -/
theorem witness_MailboxesAreCheckedInOrder_tag : ∃ c : List Byte, formatGood c = true ∧ cmOpcode c = 1 ∧ cmSlot c = 0 ∧ cmCounter c = 5
    ∧ (c.drop 0xD0).take 16 = (hmac (keyBytes 1) (leBytes 8 Config.fusedUid.toNat ++ c.take (0x10 + leAt c 4 2))).take 16 := by
  let b := (cmdCopy 1 0 []).take 208
  let t := (hmac (keyBytes 1) (leBytes 8 Config.fusedUid.toNat ++ b.take 16)).take 16
  have hb : b.length = 208 := by decide +kernel
  have ht : t.length = 16 := by simp [t, hmac, sha256_length]
  have f (o n : Nat) (h : o + n ≤ 208) : leAt (b ++ (t ++ List.replicate 16 0)) o n = leAt b o n := leAt_append _ _ _ _ (by omega)
  have z : leAt (b ++ (t ++ List.replicate 16 0)) 0xE0 16 = 0 := by
    have : (b ++ (t ++ List.replicate 16 0)).drop 0xE0 = List.replicate 16 0 := by
      rw [← List.append_assoc]; exact List.drop_left' (by simp [hb, ht])
    unfold leAt; rw [this]; decide
  refine ⟨b ++ (t ++ List.replicate 16 0), ?_, ?_, ?_, ?_, ?_⟩
  · simp only [formatGood, cmLen, cmOpcode, z, f 4 2 (by omega), f 3 1 (by omega), f 6 2 (by omega), f 0 2 (by omega)]
    decide +kernel
  · rw [cmOpcode, f 0 2 (by omega)]; decide +kernel
  · rw [cmSlot, f 2 1 (by omega)]; decide +kernel
  · rw [cmCounter, f 8 8 (by omega)]; decide +kernel
  · rw [f 4 2 (by omega), List.drop_left' hb, List.take_left' ht, show leAt b 4 2 = 0 from by decide +kernel,
      List.take_append_of_le_length (by omega)]

/-! ### WellFormed refuses -/

/-- Requesters, packets and messages of a port that does not exist, or of the wrong shape. -/
theorem test_wf_refuses_ports : ∀ i ∈ ([
    .lowHalfRead (.hearth 16 0 0) 0, .lowHalfRead (.hearth 0 256 0) 0, .lowHalfRead (.hearth 0 0 1024) 0,
    .lowHalfRead (.flue 4096 0) 0, .lowHalfRead (.flue 0 1024) 0, .lowHalfRead .mgmt 0x2000000,
    .registerWrite .mgmt 0x2000000 8 0, .registerWrite .mgmt 0 6 0, .streamedRead .mgmt 0x2000000, .captureRead .mgmt 0x2000000,
    .hobRegisterRead .mgmt 0 2, .hedSeedWrite .mgmt 0 16 0,
    .rd false 16 0x01 [], .rd false 0 0x02 [], .rd false 0 0x01 [⟨0, false⟩, ⟨0, false⟩, ⟨0, false⟩], .wr false 0 0x01 [],
    .wrbe true 0 0x02 [], .accw false 0 0x05 [], .cfence false 0 0x04 [], .tread true 0 0x07 [], .fence false 0 0x06 [],
    .db true 0 0x07 [], .damperAdmit 0x10040, .flitReceived false 0 ⟨[0, 0, 0], 0, 0, 0, 0⟩,
    .flitReceived false 16 ⟨List.replicate 7 0, 0, 0, 0, 0⟩, .ack false 0 0xF2, .nak true 0 0xF1, .credit false 0 0xF1,
    .linkRetryTimer false 16, .trainTimeout true 16, .ucieLinkActive false 0 true 256, .parameterMessage true 0 ⟨65536, true, [], []⟩,
    .parameterMessage false 0 ⟨0x0201, true, [256], []⟩, .paramTimeout false 16, .initialCreditTimeout false 16, .laneFailure true 16,
    .retrainTimeout false 16, .moduleRetry (.flue 4096 0) true, .responseCreditStall false 16, .flitSent true 16] : List Instr),
    i.wf = false := by decide

/-- Flue frames of another type, peers, streams and records that do not exist. -/
theorem test_wf_refuses_flue : ∀ i ∈ ([
    .lightInputChange 16 true true, .attachSettled 16, .anchorGained 4096, .hello 0 0xA1 [], .helloAck 0 0xA0 [], .bye 0 0xA3 [],
    .ping 0 0xA4 [], .pong 0 0xA3 [], .helloTimeout 4096, .unreachableRetry 4096, .keepaliveIdle 4096, .sessionExpiry 4096,
    .norm 0 0xB1 [], .norm 16 0xB0 [], .norm 0 0xB0 (List.replicate 33 ⟨0, false⟩), .fanOpen 0 0xC1 [], .fanData 0 0xC0 [],
    .fanEnd 0 0xC3 [], .fanFinal 0 0xC2 [], .recant 0 0xC5 [], .fanState 0 0xC4 [], .streamEndWait 512, .twinHdr 0 0xD1 [],
    .twinData 0 0xD0 [], .twinDigest 0 0xD1 [], .smokeData 0 0xD9 [], .smokeMark 0 0xD8 [], .twinPairTimeout 64,
    .digestWaitTimeout 64, .twinDataEndWait 64, .replayLaunch 64, .replayGatePass 512, .nonspecFanoutReadDone 16,
    .snapshotReadDone 16, .resyncReadDone 64] : List Instr), i.wf = false := by decide

/-- Spools, hobs, contexts, tiles, mailboxes and counts that do not exist. -/
theorem test_wf_refuses_work : ∀ i ∈ ([
    .push .mgmt 1048576 0, .push .mgmt 0 4294967296, .consume .mgmt 1048576 0, .abort .mgmt 0 4294967296,
    .creelDescriptorRead 1048576, .pickFetch 1048576, .enable .mgmt 1024, .disable .mgmt 1024, .resume .mgmt 1024,
    .regionModeDoorbell .mgmt 8192 8, .regionModeDoorbell .mgmt 0 3, .modeTimerExpires 8192, .modeDrainDone 8192,
    .saveComplete 4294967296, .firingCommit 4294967296, .hobLoadLands 512 0, .hobLoadLands 0 32, .nop 512, .hgumb 512,
    .closeDeadlineExpires 64, .closePoint 64, .retagSweepDone 64, .sumsCollected 64, .normTimeout 64, .ashDrainRecord 64,
    .samplerStart 16, .refreshInterval 16 0 0, .refreshInterval 0 32 0, .refreshInterval 0 0 4, .rampBoundary 4294967296,
    .thermalSensorStrobe 16 0, .requestAged 0 32 0, .calibrationDue 0 32, .calibrationDeferralBound 16 0, .tsvRetrainDue 0 34,
    .tsvRetrainDone 16, .tsvNak 0 34 false .other 0, .tsvNak 0 0 true (.stream 3 0 0) 0, .tsvNak 0 0 true (.context 512 0) 0,
    .tsvNak 0 0 false (.register .mgmt 0x2000000) 0, .tsvNak 0 0 false .other 0x1000000000000, .scrubQueueService 16 0,
    .scrubVerifyRead 0 32, .reinitRequestsSettled 1024, .reinitFillDone 1024, .columnSlotGrant 0 32 true,
    .tsvRetrainWaitEnd 16] : List Instr), i.wf = false := by decide

/-- The fireback's and the observation unit's commands out of range. -/
theorem test_wf_refuses_service : ∀ i ∈ ([
    .fbMboxGo .mgmt 1025, .rwfWrite 1025, .lockoutEnd 1025, .refclkWindow 4294967296 true, .foscTrimWindow 4294967296,
    .powerGoodFall (.tile 16), .coldReset true 128 false, .stackTrained 65536 [] true, .erase (.flue 4096 0), .program .mgmt 0x2000000,
    .obsPmcCfgWrite .mgmt 2 false 0, .obsSootCfgWrite .mgmt 5 false 0, .obsSootRdWrite .mgmt 0 true 0, .prtMark .mgmt 1024 8 0,
    .prtMark .mgmt 0 16 0, .sootDrain 16 false, .wfgBuildDone 4294967296, .faultEventReport 16, .scanTestDone 4294967296 true 0,
    .mgmtAccess 0 0x2000000 0, .setdasa 128, .entdaa 128] : List Instr), i.wf = false := by decide

theorem test_wf_accepts : (Instr.rd false 15 0x01 [⟨0, false⟩, ⟨0, false⟩]).wf = true ∧ (Instr.registerWrite agent 0x1FFFFF8 8 0).wf = true
    ∧ (Instr.hello 0 0xA0 (List.replicate 32 ⟨0, false⟩)).wf = true := by decide

/-! ### The spec's worked examples -/

/-- An empty queue idles. -/
theorem test_empty_queue_idles : step State.reset = .next State.reset := rfl

/-- Locating two addresses (02_stack_organisation.md, Worked example): 0x0001_0012_3456 of region A, 0x0002_04A0_1234 of B. -/
theorem test_locates_two_addresses :
    rgnPlace { State.reset with boot := { dies := 16 } } { kind := .striped, base := 0x100000000, first := 8, count := 4 } 0x123456
      = ⟨13, 8, 0x1000856⟩
    ∧ rgnPlace { State.reset with boot := { dies := 16 } }
      { kind := .bankLocal, base := 0x200000000, first := 40, count := 16, c0 := 4, c1 := 7, r0 := 0, r1 := 15 } 0x4A01234
      = ⟨0, 6, 0x5A01234⟩ := by decide +kernel

/-- One hob's bases (03_hob_engine.md, Worked example): rank, OB0 and IX of hob (6, 0). -/
theorem test_hob_bases :
    let s := { State.reset with
      boot := { dies := 16 }
      regions := [(5, { kind := .bankLocal, base := 0x200000000, first := 40, count := 16, c0 := 4, c1 := 7, r0 := 0, r1 := 15 })] }
    let ops : List OpWord := [{ rgn := 5, type := 0, used := true }]
    let p := launchParams s { c0 := 4, c1 := 7, r0 := 0, r1 := 15, nPer := 4194304, origin := 268435456, ops := ops } 6
    p.rank = 2 ∧ p.ob.getD 0 0 = 0x5000000 ∧ p.ix = 276824064 := by decide +kernel

/-- Two encodings (04_hob_instruction_set.md, Worked example): VLERP V8, V0, V4 with S3, and LD V0 of operand 1 by S2. -/
theorem test_fields_of_two_encodings :
    (iOpc 0x5840080000300000 = 0x58 ∧ iVD 0x5840080000300000 = 8 ∧ iVA 0x5840080000300000 = 0 ∧ iVB 0x5840080000300000 = 4
      ∧ iSA 0x5840080000300000 = 3)
    ∧ iOpc 0x1001280000000000 = 0x10 ∧ bOpd 0x1001280000000000 = 1 ∧ bSX 0x1001280000000000 = 2 ∧ bInc 0x1001280000000000 = true := by
  decide

/-- A rounding draw (04_hob_instruction_set.md, Worked example): 1 + 2^-9 to BF16 with the draws 50,000 and 40,000, and to nearest. -/
theorem test_stochastic_rounding :
    (encodeF bf16 (.sr 50000) true (decodeF fp32 0x3F804000)).1 = 0x3F81
    ∧ (encodeF bf16 (.sr 40000) true (decodeF fp32 0x3F804000)).1 = 0x3F80
    ∧ (encodeF bf16 .rne true (decodeF fp32 0x3F804000)).1 = 0x3F80 := by decide +kernel

/-- One AdamW step (06_update_firings.md, Worked example). -/
theorem test_adamw_step :
    let p : LibP := ⟨0x3A800000, 0xB0, lv 0x3F600000, lv 0x3F7FC000, lv 0x35800000, lv 0x3D800000, 0, 0,
      [0x3E000000, 0x3A800000, 0, 0xBA800000, 0x35800000, 0x3F7FFC00].map lv⟩
    let u := adamwElem p (lv 0x3C800000) (lv 0x3F000000) (lv 0x3C800000) (lv 0x39800000)
    u.a = lv 0x3C800000 ∧ u.b = lv 0x39800000 ∧ u.w = (some 0x3EFF7C02, flNX) ∧ (lvNarrow 1 u.w).1 = some 0x3EFF := by decide +kernel

/-- The first write to a block (07_gradient_steps.md, Example): BF16 3.0 for element 5. -/
theorem test_first_accumulation :
    let o := accBlock 0 1200 1 0 0 0 (.fin false 1 1) ((List.replicate 5 (some (fvZero false))) ++ [some (decodeF bf16 0x4040)]) true 0
      (List.replicate 64 0)
    o.scale = 0x78 ∧ o.grans.map (fun g => (g.1, g.2.bits)) = [(0, 0x5E00#256 <<< 80), (1, 0), (2, 0), (3, 0)] := by decide +kernel

/-- The norm of 2^24 at loss scale 1,024 clips by 0.25 (07_gradient_steps.md, Worked example). -/
theorem test_clip_factor : clipFactor { clip := 0x3F800000 } 10 0x4170000000000000 = 0x3E800000 := by decide +kernel

/-- The counter words of a mask byte (09_heddle_and_sampler.md, Example). -/
theorem test_mask_counter : hedCtr 0x0003000000001234 2 2 1200 = 0x020004B0000000020003000000001234 := by decide

/-- One granule (11_warp_and_weft.md, Worked example): σ, the check bits, and three reads. -/
theorem test_warp_granule :
    sigma 0x80 = 0xAA6 ∧ warpCheck 0 0x80 false = 0x3993 ∧ warpCheck 0 0x80 true = 0x2882
    ∧ (warpDecode (warpEncode ⟨0, false⟩ 0x80) 0).1 = .uncorrectable
    ∧ warpDecode (warpEncode ⟨0, false⟩ 0x80 ^^^ 0x400000) 0x80 = (.correctable, ⟨0, false⟩)
    ∧ (warpDecode (warpEncode ⟨0, true⟩ 0x80) 0x80).1 = .poison := by decide +kernel

/-- One ACCW on the wire (13_hearth_port.md, Worked example): the header fields and two weft bits. -/
theorem test_accw_on_the_wire :
    let h : BitVec 256 := 0x0000000000000000#64 ++ 0x0094C094000004B0#64 ++ 0x0000000300000040#64 ++ 0x4000311200072B04#64
    (hOpc h = 4 ∧ hLong h = true ∧ hCls h = 2 ∧ hVc h = 2 ∧ hPart h = 7 ∧ hSrc h = 0x12 ∧ hTag h = 0x31 ∧ hLen h = 64
      ∧ hAddr h = 0x300000040) ∧ weftBit 0x300000040 false 0 0x80 = true ∧ weftBit 0x300000040 false 1 0x3F = true
      ∧ weftBit 0x300000000 false 1 0x3F = false := by decide +kernel

/-- The end of February 2100 (18_fireback.md, Worked example). -/
theorem test_calendar :
    (calParse 0x03190B97EFBF423F).map calWord = some 0x03190B97EFBF423F
    ∧ (calParse 0x03190B97EFBF423F).map (fun c => calWord (c + 1)) = some 0x00190C2000000000
    ∧ calParse (put 46 9 100 ||| put 42 4 2 ||| put 37 5 29 ||| put 32 5 12) = none
    ∧ (calParse (put 42 4 2 ||| put 37 5 29 ||| put 32 5 12)).map (fun c => fld (calWord c) 55 3) = some 1 := by decide +kernel

/-- Reading a region (23_register_map_base.md, Worked example). -/
theorem test_region_descriptor :
    let b : Region := { kind := .bankLocal, base := 0x200000000, first := 40, count := 16, c0 := 4, c1 := 7, r0 := 0, r1 := 15 }
    rgnDesc { State.reset with boot := { dies := 16 }, regions := [(5, { b with owner := 7, banked := true, init := true })] } 5
      = 0x700EF03908504001 := by decide +kernel

/-! ### Published vectors -/

/-- SHA-256 of "abc" (FIPS 180-4). -/
theorem test_sha256_abc : sha256 [0x61, 0x62, 0x63] = beBytes 32 0xba7816bf8f01cfea414140de5dae2223b00361a396177a9cb410ff61f20015ad := by
  decide +kernel
/-! ### Unwrapping, in a form that evaluates fast -/

/-- The inverses in GF(2^8), sixteen to a row, the least byte first. -/
def invRows : List Nat := [
  0xc7e5e1b0c0294fe8d17b52cbf68d0100, 0xb2ee40ffccfd3f585f602b994baab474, 0xc2a2443015980ac1c9a84d55f15a6e3a,
  0x1959bb776f2035f2426639f36c92452c, 0x9e9255413ab64a769f5312d6737fe1d, 0x1761ec51f0223e18bf87244cca055ced,
  0x3b219333df9147f44336a649d3af5e16, 0x8281faa106d070b63cbab5108597b779, 0xa4b902f7d9959e9b56be7396807f7e83,
  0x9a89dcf9889f142a72848ad86d326ade, 0x62d2e7ce4a12c8264865b88fc32e7cfb, 0x5786bcbd3d768ea571787511ef1fe00c,
  0xe6acfc1b045327a90fe4d4daa32f280b, 0x6b90f89dd5c48b94eae2dbc563ae077a, 0xb31e505de3d74e08adcf0ec6ebd60db1,
  0x1c411acda07d9cdd8c0346683438235b]

/-- `aesInv`, looked up for a byte. -/
def invFast (x : Nat) : Nat := if x < 256 then invRows.getD (x / 16) 0 >>> (8 * (x % 16)) % 256 else aesInv x

theorem aesInv_fast (x : Nat) : aesInv x = invFast x := by
  unfold invFast
  split
  · exact (by decide +kernel : ∀ y : Fin 256, aesInv y.1 = invRows.getD (y.1 / 16) 0 >>> (8 * (y.1 % 16)) % 256) ⟨x, ‹_›⟩
  · rfl

/-- Inverse MixColumns of one column, by doublings. -/
def mixFast (c : List Nat) : List Nat :=
  let d := c.map fun a => (a, aesX a, aesX (aesX a), aesX (aesX (aesX a)))
  (List.range 4).map fun r =>
    (match d.getD r (0, 0, 0, 0) with | (_, a2, a4, a8) => a8 ^^^ a4 ^^^ a2)
      ^^^ (match d.getD ((r + 1) % 4) (0, 0, 0, 0) with | (a, a2, _, a8) => a8 ^^^ a2 ^^^ a)
      ^^^ (match d.getD ((r + 2) % 4) (0, 0, 0, 0) with | (a, _, a4, a8) => a8 ^^^ a4 ^^^ a)
      ^^^ (match d.getD ((r + 3) % 4) (0, 0, 0, 0) with | (a, _, _, a8) => a8 ^^^ a)

theorem getD_map {α : Type} (f : Nat → α) (z : α) (hz : f 0 = z) (c : List Nat) (i : Nat) : (c.map f).getD i z = f (c.getD i 0) := by
  induction c generalizing i with
  | nil => simpa using hz.symm
  | cons a t ih => cases i with
    | zero => rfl
    | succ i => exact ih i

theorem invMix_fast (c : List Nat) : invMix c = mixFast c := by
  have g (i : Nat) := getD_map (fun a => (a, aesX a, aesX (aesX a), aesX (aesX (aesX a)))) (0, 0, 0, 0) rfl c i
  simp only [invMix, mixFast, g]
  refine List.map_congr_left fun r _ => ?_
  simp [aesMul]
  ac_rfl

/-- Decryption under the words of a key schedule, with the inverses looked up. -/
def decWith (ks : List (List Nat)) (blk : List Byte) : List Byte :=
  let add (st : List Nat) (r : Nat) : List Nat := List.zipWith (· ^^^ ·) st ((ks.drop (4 * r)).take 4).flatten
  let si (x : Nat) : Nat := invFast (rol8 x 1 ^^^ rol8 x 3 ^^^ rol8 x 6 ^^^ 0x05)
  let s1 := (List.range 13).foldl (fun st i => ((chunksOf 4 4 (add ((invShift st).map si) (13 - i))).map mixFast).flatten)
    (add (blk.map (·.toNat)) 14)
  (add ((invShift s1).map si) 0).map (BitVec.ofNat 8)

theorem aesDec_with (key blk : List Byte) :
    aesDec key blk = decWith ((aesKeys 52 ((chunksOf 4 8 (key.map (·.toNat))).reverse)).reverse) blk := by
  have h : sboxInv = fun x => invFast (rol8 x 1 ^^^ rol8 x 3 ^^^ rol8 x 6 ^^^ 0x05) := funext fun _ => aesInv_fast _
  simp only [aesDec, h, decWith, show invMix = mixFast from funext invMix_fast]

/-- The key of RFC 3394, 4.6. -/
def rfcKey : BitVec 256 := 0x1F1E1D1C1B1A191817161514131211100F0E0D0C0B0A09080706050403020100

/-- Its key schedule (FIPS 197). -/
def rfcWords : List (List Nat) := (chunksOf 4 60 (([0x000102030405060708090a0b0c0d0e0f, 0x101112131415161718191a1b1c1d1e1f, 0xa573c29fa176c498a97fce93a572c09c,
  0x1651a8cd0244beda1a5da4c10640bade, 0xae87dff00ff11b68a68ed5fb03fc1567, 0x6de1f1486fa54f9275f8eb5373b8518d,
  0xc656827fc9a799176f294cec6cd5598b, 0x3de23a75524775e727bf9eb45407cf39, 0x0bdc905fc27b0948ad5245a4c1871c2f,
  0x45f5a66017b2d387300d4d33640a820a, 0x7ccff71cbeb4fe5413e6bbf0d261a7df, 0xf01afafee7a82979d7a5644ab3afe640,
  0x2541fe719bf500258813bbd55a721c0a, 0x4e5a6699a9f24fe07e572baacdf8cdea, 0x24fc79ccbf0979e9371ac23c6d68de36].flatMap (beBytes 16)))).map fun w => w.map (·.toNat)

theorem rfcWords_right : (aesKeys 52 ((chunksOf 4 8 ((keyBytes rfcKey).map (·.toNat))).reverse)).reverse = rfcWords := by decide +kernel

/-- The wrapped key data of RFC 3394, 4.6. -/
def rfcWrapped : List Byte := beBytes 40 0x28C9F404C4B810F4CBCCB35CFB87F8263F5786E2D80ED326CBC7F0E71A99F43BFB988B9B7A02DD21

/-- An integrity register and its half-blocks, from their values. -/
def halves (l : List Nat) : List Byte × List (List Byte) := (beBytes 8 (l.headD 0), l.tail.map (beBytes 8))

/-- Unwrapping step `t + 1` under that key. -/
def unwrapOne (t : Nat) (x : List Byte × List (List Byte)) : List Byte × List (List Byte) :=
  let d := decWith rfcWords (List.zipWith (· ^^^ ·) x.1 (beBytes 8 (t + 1)) ++ x.2.getD (t % x.2.length) [])
  (d.take 8, listSet x.2 (t % x.2.length) (d.drop 8))

theorem unwrap_one (t : Nat) {x y z : List Byte × List (List Byte)} (h : unwrapOne t x = y)
    (k : unwrapSteps (keyBytes rfcKey) t y = z) : unwrapSteps (keyBytes rfcKey) (t + 1) x = z := by
  rw [← k, ← h]
  simp only [unwrapSteps, aesDec_with, rfcWords_right, unwrapOne]

theorem unwrap_24 : unwrapOne 23 (halves [0x28c9f404c4b810f4, 0xcbccb35cfb87f826, 0x3f5786e2d80ed326, 0xcbc7f0e71a99f43b, 0xfb988b9b7a02dd21]) = halves [0x0aeb82ae3146a90c, 0xcbccb35cfb87f826, 0x3f5786e2d80ed326, 0xcbc7f0e71a99f43b, 0x07dfe775b9687e73] := by decide +kernel
theorem unwrap_23 : unwrapOne 22 (halves [0x0aeb82ae3146a90c, 0xcbccb35cfb87f826, 0x3f5786e2d80ed326, 0xcbc7f0e71a99f43b, 0x07dfe775b9687e73]) = halves [0x39d02fe7435870fb, 0xcbccb35cfb87f826, 0x3f5786e2d80ed326, 0x1cfbf6b4c24cb982, 0x07dfe775b9687e73] := by decide +kernel
theorem unwrap_22 : unwrapOne 21 (halves [0x39d02fe7435870fb, 0xcbccb35cfb87f826, 0x3f5786e2d80ed326, 0x1cfbf6b4c24cb982, 0x07dfe775b9687e73]) = halves [0xc89a96ca7b163ed9, 0xcbccb35cfb87f826, 0xf7edad518c960d36, 0x1cfbf6b4c24cb982, 0x07dfe775b9687e73] := by decide +kernel
theorem unwrap_21 : unwrapOne 20 (halves [0xc89a96ca7b163ed9, 0xcbccb35cfb87f826, 0xf7edad518c960d36, 0x1cfbf6b4c24cb982, 0x07dfe775b9687e73]) = halves [0xd058823360f88a23, 0x1bb8c765a84195e7, 0xf7edad518c960d36, 0x1cfbf6b4c24cb982, 0x07dfe775b9687e73] := by decide +kernel
theorem unwrap_20 : unwrapOne 19 (halves [0xd058823360f88a23, 0x1bb8c765a84195e7, 0xf7edad518c960d36, 0x1cfbf6b4c24cb982, 0x07dfe775b9687e73]) = halves [0xb422b444b87a1918, 0x1bb8c765a84195e7, 0xf7edad518c960d36, 0x1cfbf6b4c24cb982, 0x40f68c91db49702c] := by decide +kernel
theorem unwrap_19 : unwrapOne 18 (halves [0xb422b444b87a1918, 0x1bb8c765a84195e7, 0xf7edad518c960d36, 0x1cfbf6b4c24cb982, 0x40f68c91db49702c]) = halves [0xf19d80d437efe8eb, 0x1bb8c765a84195e7, 0xf7edad518c960d36, 0xc272e9466aae98f9, 0x40f68c91db49702c] := by decide +kernel
theorem unwrap_18 : unwrapOne 17 (halves [0xf19d80d437efe8eb, 0x1bb8c765a84195e7, 0xf7edad518c960d36, 0xc272e9466aae98f9, 0x40f68c91db49702c]) = halves [0xa5382a26b47551e0, 0x1bb8c765a84195e7, 0xbca418bbf7dce60b, 0xc272e9466aae98f9, 0x40f68c91db49702c] := by decide +kernel
theorem unwrap_17 : unwrapOne 16 (halves [0xa5382a26b47551e0, 0x1bb8c765a84195e7, 0xbca418bbf7dce60b, 0xc272e9466aae98f9, 0x40f68c91db49702c]) = halves [0x5075496800978b5a, 0x4745856af333f01f, 0xbca418bbf7dce60b, 0xc272e9466aae98f9, 0x40f68c91db49702c] := by decide +kernel
theorem unwrap_16 : unwrapOne 15 (halves [0x5075496800978b5a, 0x4745856af333f01f, 0xbca418bbf7dce60b, 0xc272e9466aae98f9, 0x40f68c91db49702c]) = halves [0x33fe29365885c4b8, 0x4745856af333f01f, 0xbca418bbf7dce60b, 0xc272e9466aae98f9, 0x3cf149e90e8c04d9] := by decide +kernel
theorem unwrap_15 : unwrapOne 14 (halves [0x33fe29365885c4b8, 0x4745856af333f01f, 0xbca418bbf7dce60b, 0xc272e9466aae98f9, 0x3cf149e90e8c04d9]) = halves [0x15342443cb95adbf, 0x4745856af333f01f, 0xbca418bbf7dce60b, 0xf56701daf0388216, 0x3cf149e90e8c04d9] := by decide +kernel
theorem unwrap_14 : unwrapOne 13 (halves [0x15342443cb95adbf, 0x4745856af333f01f, 0xbca418bbf7dce60b, 0xf56701daf0388216, 0x3cf149e90e8c04d9]) = halves [0x2e8e2b6bb201669b, 0x4745856af333f01f, 0xfbec169fa5c0f6ba, 0xf56701daf0388216, 0x3cf149e90e8c04d9] := by decide +kernel
theorem unwrap_13 : unwrapOne 12 (halves [0x2e8e2b6bb201669b, 0x4745856af333f01f, 0xfbec169fa5c0f6ba, 0xf56701daf0388216, 0x3cf149e90e8c04d9]) = halves [0xf9ed8a1429515669, 0xd6ae29ece7192d43, 0xfbec169fa5c0f6ba, 0xf56701daf0388216, 0x3cf149e90e8c04d9] := by decide +kernel
theorem unwrap_12 : unwrapOne 11 (halves [0xf9ed8a1429515669, 0xd6ae29ece7192d43, 0xfbec169fa5c0f6ba, 0xf56701daf0388216, 0x3cf149e90e8c04d9]) = halves [0x0629eb29a42e4fd2, 0xd6ae29ece7192d43, 0xfbec169fa5c0f6ba, 0xf56701daf0388216, 0x73e3b6cbe5d05d74] := by decide +kernel
theorem unwrap_11 : unwrapOne 10 (halves [0x0629eb29a42e4fd2, 0xd6ae29ece7192d43, 0xfbec169fa5c0f6ba, 0xf56701daf0388216, 0x73e3b6cbe5d05d74]) = halves [0xdba417fb51f9e3c1, 0xd6ae29ece7192d43, 0xfbec169fa5c0f6ba, 0xc365b66943e2d760, 0x73e3b6cbe5d05d74] := by decide +kernel
theorem unwrap_10 : unwrapOne 9 (halves [0xdba417fb51f9e3c1, 0xd6ae29ece7192d43, 0xfbec169fa5c0f6ba, 0xc365b66943e2d760, 0x73e3b6cbe5d05d74]) = halves [0x1a681354e84c41f1, 0xd6ae29ece7192d43, 0xefd48ba304945576, 0xc365b66943e2d760, 0x73e3b6cbe5d05d74] := by decide +kernel
theorem unwrap_9 : unwrapOne 8 (halves [0x1a681354e84c41f1, 0xd6ae29ece7192d43, 0xefd48ba304945576, 0xc365b66943e2d760, 0x73e3b6cbe5d05d74]) = halves [0xc58b9d3ac6d5b946, 0xe7d1194d853e53f8, 0xefd48ba304945576, 0xc365b66943e2d760, 0x73e3b6cbe5d05d74] := by decide +kernel
theorem unwrap_8 : unwrapOne 7 (halves [0xc58b9d3ac6d5b946, 0xe7d1194d853e53f8, 0xefd48ba304945576, 0xc365b66943e2d760, 0x73e3b6cbe5d05d74]) = halves [0x66d7a8add086b9da, 0xe7d1194d853e53f8, 0xefd48ba304945576, 0xc365b66943e2d760, 0xe5923cb9fdb56fbc] := by decide +kernel
theorem unwrap_7 : unwrapOne 6 (halves [0x66d7a8add086b9da, 0xe7d1194d853e53f8, 0xefd48ba304945576, 0xc365b66943e2d760, 0xe5923cb9fdb56fbc]) = halves [0x963aaffd96b223ea, 0xe7d1194d853e53f8, 0xefd48ba304945576, 0x6ca405593a3b5154, 0xe5923cb9fdb56fbc] := by decide +kernel
theorem unwrap_6 : unwrapOne 5 (halves [0x963aaffd96b223ea, 0xe7d1194d853e53f8, 0xefd48ba304945576, 0x6ca405593a3b5154, 0xe5923cb9fdb56fbc]) = halves [0x4ef02edd3146afbe, 0xe7d1194d853e53f8, 0xf60e0cdb7f429fe8, 0x6ca405593a3b5154, 0xe5923cb9fdb56fbc] := by decide +kernel
theorem unwrap_5 : unwrapOne 4 (halves [0x4ef02edd3146afbe, 0xe7d1194d853e53f8, 0xf60e0cdb7f429fe8, 0x6ca405593a3b5154, 0xe5923cb9fdb56fbc]) = halves [0x564408fdd0dd2ea0, 0xf661bd9f31fbfa31, 0xf60e0cdb7f429fe8, 0x6ca405593a3b5154, 0xe5923cb9fdb56fbc] := by decide +kernel
theorem unwrap_4 : unwrapOne 3 (halves [0x564408fdd0dd2ea0, 0xf661bd9f31fbfa31, 0xf60e0cdb7f429fe8, 0x6ca405593a3b5154, 0xe5923cb9fdb56fbc]) = halves [0x9df8f5405fbc00c2, 0xf661bd9f31fbfa31, 0xf60e0cdb7f429fe8, 0x6ca405593a3b5154, 0x08090a0b0c0d0e0f] := by decide +kernel
theorem unwrap_3 : unwrapOne 2 (halves [0x9df8f5405fbc00c2, 0xf661bd9f31fbfa31, 0xf60e0cdb7f429fe8, 0x6ca405593a3b5154, 0x08090a0b0c0d0e0f]) = halves [0xd450ea5c5bbcb563, 0xf661bd9f31fbfa31, 0xf60e0cdb7f429fe8, 0x0001020304050607, 0x08090a0b0c0d0e0f] := by decide +kernel
theorem unwrap_2 : unwrapOne 1 (halves [0xd450ea5c5bbcb563, 0xf661bd9f31fbfa31, 0xf60e0cdb7f429fe8, 0x0001020304050607, 0x08090a0b0c0d0e0f]) = halves [0x794314d454e3fde0, 0xf661bd9f31fbfa31, 0x8899aabbccddeeff, 0x0001020304050607, 0x08090a0b0c0d0e0f] := by decide +kernel
theorem unwrap_1 : unwrapOne 0 (halves [0x794314d454e3fde0, 0xf661bd9f31fbfa31, 0x8899aabbccddeeff, 0x0001020304050607, 0x08090a0b0c0d0e0f]) = halves [0xa6a6a6a6a6a6a6a6, 0x0011223344556677, 0x8899aabbccddeeff, 0x0001020304050607, 0x08090a0b0c0d0e0f] := by decide +kernel

/-- RFC 3394, 4.6: 256 bits of key data under a 256-bit key; a KEY_SET of what the key wraps is accepted. -/
theorem test_key_unwrap :
    kwUnwrap (keyBytes rfcKey) rfcWrapped = some (beBytes 32 0x00112233445566778899AABBCCDDEEFF000102030405060708090A0B0C0D0E0F)
    ∧ (keyUnwrap { svc with fb := { svc.fb with key0 := some rfcKey } } 0 rfcWrapped).isSome = true := by
  have h := unwrap_one 23 unwrap_24 <| unwrap_one 22 unwrap_23 <| unwrap_one 21 unwrap_22 <| unwrap_one 20 unwrap_21 <| unwrap_one 19 unwrap_20 <| unwrap_one 18 unwrap_19 <| unwrap_one 17 unwrap_18 <| unwrap_one 16 unwrap_17 <| unwrap_one 15 unwrap_16 <| unwrap_one 14 unwrap_15 <| unwrap_one 13 unwrap_14 <| unwrap_one 12 unwrap_13 <| unwrap_one 11 unwrap_12 <| unwrap_one 10 unwrap_11 <| unwrap_one 9 unwrap_10 <| unwrap_one 8 unwrap_9 <| unwrap_one 7 unwrap_8 <| unwrap_one 6 unwrap_7 <| unwrap_one 5 unwrap_6 <| unwrap_one 4 unwrap_5 <| unwrap_one 3 unwrap_4 <| unwrap_one 2 unwrap_3 <| unwrap_one 1 unwrap_2 <| unwrap_one 0 unwrap_1 <| show _ = halves _ from rfl
  have e : ((chunksOf 8 (rfcWrapped.length / 8 + 1) rfcWrapped).getD 0 [], (chunksOf 8 (rfcWrapped.length / 8 + 1) rfcWrapped).drop 1)
    = halves [0x28c9f404c4b810f4, 0xcbccb35cfb87f826, 0x3f5786e2d80ed326, 0xcbc7f0e71a99f43b, 0xfb988b9b7a02dd21] := by decide +kernel
  have n : 6 * ((chunksOf 8 (rfcWrapped.length / 8 + 1) rfcWrapped).length - 1) = 24 := by decide +kernel
  have k : kwUnwrap (keyBytes rfcKey) rfcWrapped = some (beBytes 32 0x00112233445566778899AABBCCDDEEFF000102030405060708090A0B0C0D0E0F) := by
    unfold kwUnwrap
    simp only [e, n, h]
    decide +kernel
  exact ⟨k, by simp [keyUnwrap, k]⟩

/-- A PKEY_SET of what the key-encryption key of `boxed` wraps is accepted (AES-256 of FIPS 197, SP 800-38F). -/
theorem test_partition_key_unwrap :
    pkeyUnwrap (boxed .pending [] 11) [241, 175, 165, 141, 171, 96, 61, 223, 249, 58, 184, 200, 108, 208, 255, 76]
      = some 0x0807060504030201 := by decide +kernel

end Sys2Proof.Tests
end

section
/-! The loops of a hob's program (R122): where loops match, the search of LOOP ends at the matching ENDL and the search of
ENDL at the matching LOOP, so the two instructions go on where the rule says. -/

namespace Sys2Proof.Proofs
open Sys2Proof.Machine Sys2Proof.Safety Sys2Proof.Laws

/-! ### Counting the words that open and close loops -/

@[simp] theorem countOpc_self (ws : List W64) (o a : Nat) : countOpc ws o a a = 0 := by
  simp [countOpc, List.drop_eq_nil_of_le]

theorem countOpc_succ {ws : List W64} {i a : Nat} (o : Nat) (ha : a ≤ i) (hi : i < ws.length) :
    countOpc ws o a (i + 1) = countOpc ws o a i + if iOpc ws[i].toNat = o then 1 else 0 := by
  have hlen : a ≤ (ws.take i).length := by simp; omega
  rw [countOpc, countOpc, List.take_add_one, List.getElem?_eq_getElem hi, List.drop_append_of_le_length hlen,
    List.countP_append]
  simp [List.countP_cons]

/-- From the word after the LOOP at `p` up to `i`, `d` more loops open than close. -/
def OpenInside (ws : List W64) (p i d : Nat) : Prop := d + countOpc ws 0x32 (p + 1) i = countOpc ws 0x31 (p + 1) i

section
variable {ws : List W64} {p e i d d' : Nat}

theorem openInside_start_iff : OpenInside ws p (p + 1) d ↔ d = 0 := by simp [OpenInside]

theorem OpenInside.unique (h : OpenInside ws p i d) (h' : OpenInside ws p i d') : d = d' := by
  unfold OpenInside at h h'; omega

theorem openInside_succ_of_loop (hp : p + 1 ≤ i) (hi : i < ws.length) (ho : iOpc ws[i].toNat = 0x31) :
    OpenInside ws p (i + 1) (d + 1) ↔ OpenInside ws p i d := by
  simp only [OpenInside, countOpc_succ _ hp hi, ho, if_true, show ¬ (0x31 = 0x32) by decide, if_false]; omega

theorem openInside_succ_of_endl (hp : p + 1 ≤ i) (hi : i < ws.length) (ho : iOpc ws[i].toNat = 0x32) :
    OpenInside ws p (i + 1) d ↔ OpenInside ws p i (d + 1) := by
  simp only [OpenInside, countOpc_succ _ hp hi, ho, if_true, show ¬ (0x32 = 0x31) by decide, if_false]; omega

theorem openInside_succ_of_other (hp : p + 1 ≤ i) (hi : i < ws.length) (hl : iOpc ws[i].toNat ≠ 0x31)
    (hc : iOpc ws[i].toNat ≠ 0x32) : OpenInside ws p (i + 1) d ↔ OpenInside ws p i d := by
  simp only [OpenInside, countOpc_succ _ hp hi, hl, hc, if_false, Nat.add_zero]

theorem openInside_of_matching (hm : Matching ws p e) : OpenInside ws p e 0 := by
  obtain ⟨-, -, -, hbalance, -⟩ := hm
  rw [OpenInside, Nat.zero_add, hbalance]

theorem exists_openInside_of_matching (hm : Matching ws p e) (hpi : p < i) (hie : i ≤ e) : ∃ d, OpenInside ws p i d := by
  obtain ⟨-, -, -, -, hprefix⟩ := hm
  exact ⟨_, Nat.sub_add_cancel (hprefix i hpi hie)⟩

theorem exists_getElem_opc {o : Nat} (h : ws[i]?.map (fun v => iOpc v.toNat) = some o) :
    ∃ hi : i < ws.length, iOpc ws[i].toNat = o := by
  obtain ⟨v, hv, ho⟩ := Option.map_eq_some_iff.mp h
  obtain ⟨hi, rfl⟩ := List.getElem?_eq_some_iff.mp hv
  exact ⟨hi, ho⟩

/-! ### The searches -/

/-- The search for the ENDL may begin at any word of the loop, told how many inner loops are open there. -/
theorem findEndl_inside (hm : Matching ws p e) (n : Nat) (hp : p < i) (hn : i + n = e) (hd : OpenInside ws p i d) :
    findEndl (ws.drop i) i d = some e := by
  have ⟨_, _, hendl, _, _⟩ := hm
  obtain ⟨he, hopc⟩ := exists_getElem_opc hendl
  induction n generalizing i d with
  | zero =>
    obtain rfl : i = e := hn
    rw [List.drop_eq_getElem_cons he, findEndl]
    simp [hopc, hd.unique (openInside_of_matching hm)]
  | succ n ih =>
    have hi : i < ws.length := by omega
    obtain ⟨d', hd'⟩ := exists_openInside_of_matching (i := i + 1) hm (by omega) (by omega)
    have rest {c : Nat} := ih (i := i + 1) (d := c) (by omega) (by omega)
    rw [List.drop_eq_getElem_cons hi, findEndl]
    by_cases hl : iOpc ws[i].toNat = 0x31
    · simpa [hl] using rest ((openInside_succ_of_loop hp hi hl).mpr hd)
    · by_cases hc : iOpc ws[i].toNat = 0x32
      · obtain rfl : d = d' + 1 := hd.unique ((openInside_succ_of_endl hp hi hc).mp hd')
        simpa [hc] using rest hd'
      · simpa [hl, hc] using rest ((openInside_succ_of_other hp hi hl hc).mpr hd)

theorem reverse_take_succ (hi : i < ws.length) : (ws.take (i + 1)).reverse = ws[i] :: (ws.take i).reverse := by
  rw [List.take_add_one, List.getElem?_eq_getElem hi, Option.toList_some, List.reverse_concat]

/-- The search back for the LOOP may begin at any word of the loop, told how many inner loops are open there. -/
theorem findLoop_inside (hm : Matching ws p e) (hpi : p + 1 ≤ i) (hie : i ≤ e) (hd : OpenInside ws p i d) :
    findLoop (ws.take i).reverse i d = some p := by
  have ⟨_, hloop, hendl, _, _⟩ := hm
  obtain ⟨hp, hopc⟩ := exists_getElem_opc hloop
  obtain ⟨he, -⟩ := exists_getElem_opc hendl
  induction i, hpi using Nat.le_induction generalizing d with
  | base =>
    rw [reverse_take_succ hp, findLoop]
    simp [hopc, openInside_start_iff.mp hd]
  | succ i hpi ih =>
    have hi : i < ws.length := by omega
    obtain ⟨d', hd'⟩ := exists_openInside_of_matching hm hpi (by omega)
    have rest {c : Nat} := ih (d := c) (by omega)
    rw [reverse_take_succ hi, findLoop]
    by_cases hc : iOpc ws[i].toNat = 0x32
    · simpa [hc] using rest ((openInside_succ_of_endl hpi hi hc).mp hd)
    · by_cases hl : iOpc ws[i].toNat = 0x31
      · obtain rfl : d = d' + 1 := hd.unique ((openInside_succ_of_loop hpi hi hl).mpr hd')
        simpa [hl] using rest hd'
      · simpa [hl, hc] using rest ((openInside_succ_of_other hpi hi hl hc).mp hd)

theorem findEndl_of_matching (hm : Matching ws p e) : findEndl (ws.drop (p + 1)) (p + 1) 0 = some e :=
  findEndl_inside hm (e - (p + 1)) (Nat.lt_succ_self p) (Nat.add_sub_cancel' hm.1) (openInside_start_iff.mpr rfl)

theorem findLoop_of_matching (hm : Matching ws p e) : findLoop (ws.take e).reverse e 0 = some p :=
  findLoop_inside hm hm.1 le_rfl (openInside_of_matching hm)

end

/-! ### The instructions -/

section
variable {s : State} {n w k : Nat} {x : Firing}

/-- An instruction of the opcode of the word that the hob issues does its body. -/
theorem act_hobIssue_issues {o : Nat} (hi : Issues s n w k x) (ho : iOpc w = o) (body : HC → State) :
    act s (fun s => hobIssue s n o body) = act s fun _ => body ⟨readied s n w, n, found s n w, w, k, x⟩ := by
  subst ho; rw [act, hobIssue_issues hi, act]

/-- The next state of an instruction that replaces the hob and sets the program counter itself. -/
theorem act_setHob (s : State) (n w : Nat) (h : Hob) :
    act s (fun _ => setHob (readied s n w) n h) = .next (afterHob s n h) := by
  change Host.Outcome.next { afterHob (readied s n w) n h with pending := s.pending } = _
  rw [afterHob_readied]; rfl

/-- The count of a LOOP: IMM32, or S[SA] where IMM32 is zero. -/
def loopCount (h : Hob) (w : Nat) : W32 := if dImm w = 0 then smGet 0 h.sr (dSA w) else BitVec.ofNat 32 (dImm w)

/-- The counter of an ENDL, decreased. -/
def loopLeft (h : Hob) (w : Nat) : W32 := smGet 0 h.loops (dLN w) - 1

/-- The hob with counter LN at `v`, going on at `pc`. -/
def looped (h : Hob) (w : Nat) (v : W32) (pc : Nat) : Hob := { h with pc := pc, loops := smSet h.loops (dLN w) v }

/-- LOOP on a word that the hob issues: its counter is loaded, and the count decides where it goes on. -/
theorem exec_loop_eq (hi : Issues s n w k x) (ho : iOpc w = 0x31) :
    let h := found s n w
    exec (.loop n) s = act s fun _ =>
      if loopCount h w = 0 then (findEndl (h.imem.drop (h.pc + 1)) (h.pc + 1) 0).elim (readied s n w) fun e =>
        setHob (readied s n w) n (looped h w (loopCount h w) (e + 1))
      else setHob (readied s n w) n (looped h w (loopCount h w) (h.pc + 1)) := by
  refine (act_hobIssue_issues hi ho _).trans ?_
  dsimp only
  cases findEndl ((found s n w).imem.drop ((found s n w).pc + 1)) ((found s n w).pc + 1) 0 <;> rfl

/-- ENDL on a word that the hob issues: its counter is decreased, and what is left decides where it goes on. -/
theorem exec_endl_eq (hi : Issues s n w k x) (ho : iOpc w = 0x32) :
    let h := found s n w
    exec (.endl n) s = act s fun _ =>
      if loopLeft h w = 0 then setHob (readied s n w) n (looped h w (loopLeft h w) (h.pc + 1))
      else (findLoop (h.imem.take h.pc).reverse h.pc 0).elim (readied s n w) fun l =>
        setHob (readied s n w) n (looped h w (loopLeft h w) (l + 1)) := by
  refine (act_hobIssue_issues hi ho _).trans ?_
  dsimp only
  cases findLoop ((found s n w).imem.take (found s n w).pc).reverse (found s n w).pc 0 <;> rfl

theorem exec_loop_enters (hi : Issues s n w k x) (ho : iOpc w = 0x31) (hc : loopCount (found s n w) w ≠ 0) :
    exec (.loop n) s = .next (afterHob s n (looped (found s n w) w (loopCount (found s n w) w) ((found s n w).pc + 1))) := by
  rw [exec_loop_eq hi ho, if_neg hc, act_setHob]

theorem exec_loop_skips (hi : Issues s n w k x) (ho : iOpc w = 0x31) (hc : loopCount (found s n w) w = 0) {e : Nat}
    (hm : Matching (found s n w).imem (found s n w).pc e) :
    exec (.loop n) s = .next (afterHob s n (looped (found s n w) w 0 (e + 1))) := by
  rw [exec_loop_eq hi ho, if_pos hc, findEndl_of_matching hm, Option.elim_some, act_setHob, hc]

theorem exec_endl_leaves (hi : Issues s n w k x) (ho : iOpc w = 0x32) (hc : loopLeft (found s n w) w = 0) :
    exec (.endl n) s = .next (afterHob s n (looped (found s n w) w 0 ((found s n w).pc + 1))) := by
  rw [exec_endl_eq hi ho, if_pos hc, act_setHob, hc]

theorem exec_endl_repeats (hi : Issues s n w k x) (ho : iOpc w = 0x32) (hc : loopLeft (found s n w) w ≠ 0) {l : Nat}
    (hm : Matching (found s n w).imem l (found s n w).pc) :
    exec (.endl n) s = .next (afterHob s n (looped (found s n w) w (loopLeft (found s n w) w) (l + 1))) := by
  rw [exec_endl_eq hi ho, if_neg hc, findLoop_of_matching hm, Option.elim_some, act_setHob]

end

/-- Settles O8: the searches of LOOP and ENDL find the matching place, from which the four cases of R122 go on. -/
theorem hobLoops : Obligations.HobLoops := by
  unfold Obligations.HobLoops
  intro s n w k x hi
  exact ⟨exec_loop_enters hi, fun ho hc _ hm => exec_loop_skips hi ho hc hm, exec_endl_leaves hi,
    fun ho hc _ hm => exec_endl_repeats hi ho hc hm⟩

end Sys2Proof.Proofs
end

section
/-! The warp code's guarantees (R303). What a decode does depends on the syndrome alone, and the syndrome of a word written is
the sum of its errors' columns, P where it is the poison mark, and the difference of the address signatures. The columns and P
lie on an elliptic quadric over GF(16) (R297), which a line meets in two points at most. -/

namespace Sys2Proof.Proofs
open Sys2Proof.Machine Polynomial

/-! ### The field of the symbols -/

theorem bitAt_xor (x y i : Nat) : bitAt (x ^^^ y) i = (bitAt x i ^^ bitAt y i) := Nat.testBit_xor x y i

theorem bitsAt_lt (x lo w : Nat) : bitsAt x lo w < 2 ^ w := Nat.mod_lt _ (Nat.two_pow_pos w)

theorem testBit_bitsAt (x lo w i : Nat) : (bitsAt x lo w).testBit i = (decide (i < w) && x.testBit (lo + i)) := by
  rw [bitsAt, Nat.testBit_mod_two_pow, Nat.testBit_shiftRight]

theorem bitsAt_xor (x y lo w : Nat) : bitsAt (x ^^^ y) lo w = bitsAt x lo w ^^^ bitsAt y lo w := by
  rw [bitsAt, Nat.shiftRight_xor_distrib, Nat.xor_mod_two_pow]; rfl

theorem xor_lt_sixteen {a b : Nat} (ha : a < 16) (hb : b < 16) : a ^^^ b < 16 := Nat.xor_lt_two_pow (n := 4) ha hb

/-- GF(16) of R296. -/
abbrev GF16 : Type := AdjoinRoot (X ^ 4 + X + 1 : (ZMod 2)[X])

/-- α of R296. -/
noncomputable abbrev gfAlpha : GF16 := AdjoinRoot.root _

theorem gfAlpha_pow_four : gfAlpha ^ 4 + gfAlpha + 1 = 0 := by
  have h := AdjoinRoot.mk_self (f := (X ^ 4 + X + 1 : (ZMod 2)[X]))
  rwa [map_add, map_add, map_pow, AdjoinRoot.mk_X, map_one] at h

theorem gf16_two_eq_zero : (2 : GF16) = 0 := by
  rw [← map_ofNat (AdjoinRoot.of _) 2, show (OfNat.ofNat 2 : ZMod 2) = 0 by decide, map_zero]

theorem gf16_nontrivial : Nontrivial GF16 := by
  have hd : (X ^ 4 + X + 1 : (ZMod 2)[X]).degree = 4 := by compute_degree!
  exact AdjoinRoot.nontrivial _ (by rw [hd]; decide)

/-- A bit as a coefficient. -/
noncomputable def gfBit (b : Bool) : GF16 := if b then 1 else 0

/-- The element of GF(16) that a symbol stands for. -/
noncomputable def gfVal (n : Nat) : GF16 :=
  gfBit (bitAt n 0) + gfBit (bitAt n 1) * gfAlpha + gfBit (bitAt n 2) * gfAlpha ^ 2 + gfBit (bitAt n 3) * gfAlpha ^ 3

theorem gfBit_xor (a b : Bool) : gfBit (a ^^ b) = gfBit a + gfBit b := by
  cases a <;> cases b <;> simp [gfBit, one_add_one_eq_two, gf16_two_eq_zero]

@[simp] theorem gfVal_zero : gfVal 0 = 0 := by simp [gfVal, bitAt, gfBit]

@[simp] theorem gfVal_one : gfVal 1 = 1 := by simp [gfVal, bitAt, gfBit, Nat.testBit_succ]

@[simp] theorem gfVal_xor (a b : Nat) : gfVal (a ^^^ b) = gfVal a + gfVal b := by
  simp only [gfVal, bitAt_xor, gfBit_xor]; ring

theorem gfVal_ite (c : Bool) (a : Nat) : gfVal (if c then a else 0) = gfBit c * gfVal a := by
  cases c <;> simp [gfBit]

theorem bitAt_gfX : ∀ a < 16, bitAt (gfX a) 0 = bitAt a 3 ∧ bitAt (gfX a) 1 = (bitAt a 0 ^^ bitAt a 3)
    ∧ bitAt (gfX a) 2 = bitAt a 1 ∧ bitAt (gfX a) 3 = bitAt a 2 := by decide

theorem gfX_lt : ∀ a < 16, gfX a < 16 := by decide

theorem gfVal_gfX {a : Nat} (ha : a < 16) : gfVal (gfX a) = gfAlpha * gfVal a := by
  obtain ⟨h0, h1, h2, h3⟩ := bitAt_gfX a ha
  rw [gfVal, gfVal, h0, h1, h2, h3, gfBit_xor]
  linear_combination -gfBit (bitAt a 3) * gfAlpha_pow_four + gfBit (bitAt a 3) * (1 + gfAlpha) * gf16_two_eq_zero

theorem gfMul_lt {a : Nat} (ha : a < 16) (b : Nat) : gfMul a b < 16 := by
  have hite {c : Bool} {x : Nat} (hx : x < 16) : (if c then x else 0) < 16 := by split <;> omega
  have h1 := gfX_lt a ha
  have h2 := gfX_lt _ h1
  exact xor_lt_sixteen (xor_lt_sixteen (xor_lt_sixteen (hite ha) (hite h1)) (hite h2)) (hite (gfX_lt _ h2))

theorem gfVal_gfMul {a : Nat} (ha : a < 16) (b : Nat) : gfVal (gfMul a b) = gfVal a * gfVal b := by
  have h1 := gfX_lt a ha
  have h2 := gfX_lt _ h1
  simp only [gfMul, gfVal_xor, gfVal_ite, gfVal_gfX, ha, h1, h2]
  rw [gfVal.eq_def b]
  ring

theorem gfMul_gfInv_self : ∀ a < 16, a ≠ 0 → gfMul (gfInv a) a = 1 := by decide
theorem gfInv_lt : ∀ a < 16, gfInv a < 16 := by decide

theorem isUnit_gfVal {a : Nat} (ha : a < 16) (h0 : a ≠ 0) : IsUnit (gfVal a) := by
  refine IsUnit.of_mul_eq_one_right (gfVal (gfInv a)) ?_
  rw [← gfVal_gfMul (gfInv_lt a ha), gfMul_gfInv_self a ha h0, gfVal_one]

theorem gfVal_eq_zero_iff {a : Nat} (ha : a < 16) : gfVal a = 0 ↔ a = 0 := by
  have := gf16_nontrivial
  refine ⟨fun h => by_contra fun h0 => (isUnit_gfVal ha h0).ne_zero h, fun h => by rw [h, gfVal_zero]⟩

theorem gfVal_inj {a b : Nat} (ha : a < 16) (hb : b < 16) : gfVal a = gfVal b ↔ a = b := by
  refine ⟨fun h => ?_, congrArg _⟩
  have : gfVal (a ^^^ b) = 0 := by rw [gfVal_xor, h, ← two_mul, gf16_two_eq_zero, zero_mul]
  exact Nat.xor_eq_zero_iff.mp ((gfVal_eq_zero_iff (xor_lt_sixteen ha hb)).mp this)

theorem gfMul_comm {a b : Nat} (ha : a < 16) (hb : b < 16) : gfMul a b = gfMul b a := by
  rw [← gfVal_inj (gfMul_lt ha b) (gfMul_lt hb a), gfVal_gfMul ha, gfVal_gfMul hb, mul_comm]

theorem gfMul_xor_left {a b : Nat} (ha : a < 16) (hb : b < 16) (c : Nat) : gfMul (a ^^^ b) c = gfMul a c ^^^ gfMul b c := by
  have hab := xor_lt_sixteen ha hb
  rw [← gfVal_inj (gfMul_lt hab c) (xor_lt_sixteen (gfMul_lt ha c) (gfMul_lt hb c))]
  simp only [gfVal_xor, gfVal_gfMul, ha, hb, hab, add_mul]

theorem gfMul_xor_right {a : Nat} (ha : a < 16) (b c : Nat) : gfMul a (b ^^^ c) = gfMul a b ^^^ gfMul a c := by
  rw [← gfVal_inj (gfMul_lt ha _) (xor_lt_sixteen (gfMul_lt ha b) (gfMul_lt ha c))]
  simp only [gfVal_xor, gfVal_gfMul ha, mul_add]

@[simp] theorem zero_gfMul (b : Nat) : gfMul 0 b = 0 := by simp [gfMul, gfX]

@[simp] theorem gfMul_zero (a : Nat) : gfMul a 0 = 0 := by simp [gfMul, bitAt]

@[simp] theorem gfMul_one (a : Nat) : gfMul a 1 = a := by simp [gfMul, bitAt, Nat.testBit_succ]

theorem gfMul_gfInv_gfMul {a b : Nat} (ha : a < 16) (h0 : a ≠ 0) (hb : b < 16) : gfMul (gfInv a) (gfMul a b) = b := by
  have hi := gfInv_lt a ha
  rw [← gfVal_inj (gfMul_lt hi _) hb, gfVal_gfMul hi, gfVal_gfMul ha, ← mul_assoc, ← gfVal_gfMul hi,
    gfMul_gfInv_self a ha h0, gfVal_one, one_mul]

theorem gfMul_left_cancel {a b c : Nat} (ha : a < 16) (h0 : a ≠ 0) (hb : b < 16) (hc : c < 16) (h : gfMul a b = gfMul a c) :
    b = c := by
  rw [← gfMul_gfInv_gfMul ha h0 hb, h, gfMul_gfInv_gfMul ha h0 hc]

theorem gfInv_ne_zero {a : Nat} (ha : a < 16) (h0 : a ≠ 0) : gfInv a ≠ 0 := by
  intro h
  have := gfMul_gfInv_self a ha h0
  simp [h] at this

/-! ### The quadric -/

/-- Q of R297, over the field. -/
noncomputable def gfQ (x y : GF16) : GF16 := x ^ 2 + x * y + gfVal 8 * y ^ 2

theorem gfVal_warpQ {x y : Nat} (hx : x < 16) (hy : y < 16) : gfVal (warpQ x y) = gfQ (gfVal x) (gfVal y) := by
  simp only [warpQ, gfQ, gfVal_xor, gfVal_gfMul hx, gfVal_gfMul hy, gfVal_gfMul (show 8 < 16 by decide)]
  ring

theorem warpQ_lt {x y : Nat} (hx : x < 16) : warpQ x y < 16 :=
  xor_lt_sixteen (xor_lt_sixteen (gfMul_lt hx x) (gfMul_lt hx y)) (gfMul_lt (by decide) _)

/-- Q is zero only at (0, 0): the quadric is elliptic (R297). -/
theorem eq_zero_of_warpQ_eq_zero : ∀ x < 16, ∀ y < 16, warpQ x y = 0 → x = 0 ∧ y = 0 := by decide

/-- Where the chord of two points meets the quadric again, Q of their difference is zero. -/
theorem gfQ_chord {l m x y x' y' : GF16} (hlm : l + m = 1)
    (h : l * gfQ x y + m * gfQ x' y' = gfQ (l * x + m * x') (l * y + m * y')) : l * m * gfQ (x + x') (y + y') = 0 := by
  simp only [gfQ] at h ⊢
  linear_combination h + (l * (x ^ 2 + x * y + gfVal 8 * y ^ 2) + m * (x' ^ 2 + x' * y' + gfVal 8 * y' ^ 2)) * hlm
    + l * m * (2 * x * x' + x * y' + x' * y + 2 * gfVal 8 * y * y') * gf16_two_eq_zero

/-- No point of the chord of two points of the quadric, other than the two, is on it (R297). -/
theorem chord_off_quadric {c e f x y x' y' : Nat} (hc : c < 16) (he : e < 16) (hf : f < 16) (he0 : e ≠ 0) (hf0 : f ≠ 0)
    (hx : x < 16) (hy : y < 16) (hx' : x' < 16) (hy' : y' < 16) (hcef : gfMul c (e ^^^ f) = 1) (hne : ¬ (x = x' ∧ y = y')) :
    gfMul c (gfMul e (warpQ x y) ^^^ gfMul f (warpQ x' y'))
      ≠ warpQ (gfMul c (gfMul e x ^^^ gfMul f x')) (gfMul c (gfMul e y ^^^ gfMul f y')) := by
  intro h
  have hc0 : c ≠ 0 := by rintro rfl; simp at hcef
  have hsum : gfVal c * gfVal e + gfVal c * gfVal f = 1 := by
    rw [← mul_add, ← gfVal_xor, ← gfVal_gfMul hc, hcef, gfVal_one]
  have hval := congrArg gfVal h
  simp only [gfVal_warpQ, gfVal_gfMul, gfVal_xor, gfMul_lt, hc, he, hf, hx, hy, hx', hy', mul_add, ← mul_assoc] at hval
  have hzero := gfQ_chord hsum hval
  have hunit := ((isUnit_gfVal hc hc0).mul (isUnit_gfVal he he0)).mul ((isUnit_gfVal hc hc0).mul (isUnit_gfVal hf hf0))
  have hdx := xor_lt_sixteen hx hx'
  have hdy := xor_lt_sixteen hy hy'
  rw [hunit.mul_right_eq_zero, ← gfVal_xor, ← gfVal_xor, ← gfVal_warpQ hdx hdy, gfVal_eq_zero_iff (warpQ_lt hdx)] at hzero
  obtain ⟨h1, h2⟩ := eq_zero_of_warpQ_eq_zero _ hdx _ hdy hzero
  exact hne ⟨Nat.xor_eq_zero_iff.mp h1, Nat.xor_eq_zero_iff.mp h2⟩

/-! ### Columns -/

theorem warpX_lt : ∀ i < 68, warpX i < 16 := by decide
theorem warpY_lt : ∀ i < 68, warpY i < 16 := by decide

/-- The symbol whose column is at (x, y) (R302). -/
def symbolAt (x y : Nat) : Nat := if 2 ≤ x then 16 * (x - 2) + y else 64 + x + 2 * y

theorem symbolAt_col : ∀ i < 68, symbolAt (warpX i) (warpY i) = i := by decide

theorem warpCol_inj {i j : Nat} (hi : i < 68) (hj : j < 68) (hx : warpX i = warpX j) (hy : warpY i = warpY j) : i = j := by
  rw [← symbolAt_col i hi, hx, hy, symbolAt_col j hj]

/-- A column is where R302 looks for one. -/
theorem col_position : ∀ i < 68,
    ((2 ≤ warpX i && warpX i ≤ 5) || (warpX i ≤ 1 && warpY i ≤ 1)) = true := by decide

/-! ### Syndromes -/

/-- The syndrome of a word read at address `a` (R302). -/
def syndrome (w a : Nat) : Syn := synAdd (synSum w (List.range 68)) (sigmaSyn a)

/-- The poison column P where a datum is poisoned. -/
def markSyn (p : Bool) : Syn := ⟨0, 0, 0, if p then 1 else 0⟩

theorem synAdd_assoc (a b c : Syn) : synAdd (synAdd a b) c = synAdd a (synAdd b c) := by simp [synAdd, Nat.xor_assoc]

theorem synAdd_comm (a b : Syn) : synAdd a b = synAdd b a := by simp [synAdd, Nat.xor_comm]

theorem synAdd_left_comm (a b c : Syn) : synAdd a (synAdd b c) = synAdd b (synAdd a c) := by
  rw [← synAdd_assoc, synAdd_comm a, synAdd_assoc]

@[simp] theorem synAdd_self (a : Syn) : synAdd a a = ⟨0, 0, 0, 0⟩ := by simp [synAdd]

@[simp] theorem synAdd_zero (a : Syn) : synAdd a ⟨0, 0, 0, 0⟩ = a := by simp [synAdd]

@[simp] theorem zero_synAdd (a : Syn) : synAdd ⟨0, 0, 0, 0⟩ a = a := by simp [synAdd]

theorem synAdd_cancel_left (a b : Syn) : synAdd a (synAdd a b) = b := by rw [← synAdd_assoc, synAdd_self, zero_synAdd]

@[simp] theorem zero_synScale (h : Syn) : synScale 0 h = ⟨0, 0, 0, 0⟩ := by simp [synScale]

theorem synScale_xor {a b : Nat} (ha : a < 16) (hb : b < 16) (h : Syn) :
    synScale (a ^^^ b) h = synAdd (synScale a h) (synScale b h) := by
  simp [synScale, synAdd, gfMul_xor_left ha hb]

theorem synSum_xor (w v : Nat) (is : List Nat) : synSum (w ^^^ v) is = synAdd (synSum w is) (synSum v is) := by
  induction is with
  | nil => simp [synSum]
  | cons i is ih =>
    simp only [synSum, bitsAt_xor, synScale_xor (bitsAt_lt _ _ 4) (bitsAt_lt _ _ 4), ih]
    simp only [synAdd_assoc, synAdd_left_comm]

theorem synSum_append (w : Nat) (is js : List Nat) : synSum w (is ++ js) = synAdd (synSum w is) (synSum w js) := by
  induction is with
  | nil => simp [synSum]
  | cons i is ih => rw [List.cons_append, synSum, synSum, ih, synAdd_assoc]

theorem synSum_congr {w v : Nat} {is : List Nat} (h : ∀ i ∈ is, bitsAt w (4 * i) 4 = bitsAt v (4 * i) 4) :
    synSum w is = synSum v is := by
  induction is with
  | nil => rfl
  | cons i is ih =>
    rw [synSum, synSum, h i List.mem_cons_self, ih fun j hj => h j (List.mem_cons_of_mem _ hj)]

theorem bitsAt_symbol {e : Nat} (he : e < 16) (i j : Nat) : bitsAt (e <<< (4 * i)) (4 * j) 4 = if i = j then e else 0 := by
  apply Nat.eq_of_testBit_eq
  intro k
  have hhigh {k : Nat} (hk : 4 ≤ k) : e.testBit k = false :=
    Nat.testBit_lt_two_pow (he.trans_le (Nat.pow_le_pow_right (n := 2) (by decide) hk))
  simp only [testBit_bitsAt, Nat.testBit_shiftLeft]
  rcases lt_trichotomy i j with h | rfl | h
  · rw [if_neg h.ne, hhigh (k := 4 * j + k - 4 * i) (by omega)]; simp
  · by_cases hk : k < 4
    · simp [hk]
    · simp [hk, hhigh (not_lt.mp hk)]
  · by_cases hk : k < 4
    · rw [if_neg h.ne', decide_eq_false (p := 4 * i ≤ 4 * j + k) (by omega)]; simp
    · simp [hk, h.ne']

theorem synSum_symbol_of_not_mem {e i : Nat} (he : e < 16) {is : List Nat} (hi : i ∉ is) :
    synSum (e <<< (4 * i)) is = ⟨0, 0, 0, 0⟩ := by
  induction is with
  | nil => rfl
  | cons j is ih =>
    obtain ⟨hj, his⟩ := not_or.mp (List.mem_cons.not.mp hi)
    simp [synSum, bitsAt_symbol he, hj, ih his]

theorem synSum_symbol {e i : Nat} (he : e < 16) {is : List Nat} (hn : is.Nodup) (hi : i ∈ is) :
    synSum (e <<< (4 * i)) is = synScale e (warpCol i) := by
  induction is with
  | nil => simp at hi
  | cons j is ih =>
    obtain ⟨hj, hn⟩ := List.nodup_cons.mp hn
    by_cases hij : i = j
    · subst hij
      simp [synSum, bitsAt_symbol he, synSum_symbol_of_not_mem he hj]
    · simp [synSum, bitsAt_symbol he, hij, ih hn ((List.mem_cons.mp hi).resolve_left hij)]

/-- Symbol `i` in error by `e`, in the word's 68 symbols. -/
theorem synSum_error {e i : Nat} (he : e < 16) (hi : i < 68) :
    synSum (e <<< (4 * i)) (List.range 68) = synScale e (warpCol i) :=
  synSum_symbol he List.nodup_range (List.mem_range.mpr hi)

/-! ### Encoding -/

/-- Every component is one symbol. -/
def Symbols (t : Syn) : Prop := t.s0 < 16 ∧ t.s1 < 16 ∧ t.s2 < 16 ∧ t.s3 < 16

theorem symbols_synAdd {s t : Syn} (hs : Symbols s) (ht : Symbols t) : Symbols (synAdd s t) := by
  obtain ⟨hs0, hs1, hs2, hs3⟩ := hs
  obtain ⟨ht0, ht1, ht2, ht3⟩ := ht
  exact ⟨xor_lt_sixteen hs0 ht0, xor_lt_sixteen hs1 ht1, xor_lt_sixteen hs2 ht2, xor_lt_sixteen hs3 ht3⟩

theorem symbols_synScale {c : Nat} (hc : c < 16) (h : Syn) : Symbols (synScale c h) :=
  ⟨gfMul_lt hc _, gfMul_lt hc _, gfMul_lt hc _, gfMul_lt hc _⟩

theorem symbols_synSum (w : Nat) (is : List Nat) : Symbols (synSum w is) := by
  induction is with
  | nil => simp [synSum, Symbols]
  | cons i is ih => exact symbols_synAdd (symbols_synScale (bitsAt_lt _ _ 4) _) ih

theorem symbols_sigmaSyn (a : Nat) : Symbols (sigmaSyn a) :=
  ⟨Nat.zero_lt_succ _, bitsAt_lt _ _ 4, bitsAt_lt _ _ 4, bitsAt_lt _ _ 4⟩

theorem symbols_markSyn (p : Bool) : Symbols (markSyn p) := by cases p <;> simp [markSyn, Symbols]

/-- The check symbols that bring the sum to `t` (R300). -/
def checkOf (t : Syn) : Nat :=
  let c65 := t.s3 ^^^ gfMul 8 t.s2
  let c67 := t.s1 ^^^ c65
  (t.s0 ^^^ c65 ^^^ t.s2) + 16 * c65 + 256 * (t.s2 ^^^ c67) + 4096 * c67

theorem warpEncode_eq (x : Datum) (a : Nat) :
    let d := if x.poison then 0 else x.bits.toNat
    warpEncode x a
      = d + 2 ^ 256 * checkOf (synAdd (synAdd (synSum d (List.range 64)) (sigmaSyn a)) (markSyn x.poison)) := by
  cases hp : x.poison <;> simp [warpEncode, warpCheck, checkOf, markSyn, synAdd, hp]

/-- Symbols 0 to 63 are the data's and the others the check bits' (R296). -/
theorem bitsAt_word {d : Nat} (hd : d < 2 ^ 256) (c i : Nat) :
    bitsAt (d + 2 ^ 256 * c) (4 * i) 4 = if i < 64 then bitsAt d (4 * i) 4 else bitsAt c (4 * (i - 64)) 4 := by
  apply Nat.eq_of_testBit_eq
  intro k
  rw [apply_ite (Nat.testBit · k), add_comm d]
  simp only [testBit_bitsAt, Nat.testBit_two_pow_mul_add c hd]
  by_cases hk : k < 4
  · by_cases hi : i < 64
    · rw [if_pos hi, if_pos (show 4 * i + k < 256 by omega)]
    · rw [if_neg hi, if_neg (show ¬ 4 * i + k < 256 by omega), show 4 * i + k - 256 = 4 * (i - 64) + k by omega]
  · simp [hk]

theorem bitsAt_four_symbols {c0 c1 c2 c3 : Nat} (h0 : c0 < 16) (h1 : c1 < 16) (h2 : c2 < 16) (h3 : c3 < 16) :
    let c := c0 + 16 * c1 + 256 * c2 + 4096 * c3
    bitsAt c 0 4 = c0 ∧ bitsAt c 4 4 = c1 ∧ bitsAt c 8 4 = c2 ∧ bitsAt c 12 4 = c3 := by
  simp only [bitsAt, Nat.shiftRight_eq_div_pow]; omega

/-- The check columns (R297). -/
theorem check_columns : warpCol 64 = ⟨1, 0, 0, 0⟩ ∧ warpCol 65 = ⟨1, 1, 0, 1⟩ ∧ warpCol 66 = ⟨1, 0, 1, 8⟩
    ∧ warpCol 67 = ⟨1, 1, 1, 8⟩ := by decide

theorem synSum_check_symbols {d : Nat} (hd : d < 2 ^ 256) {c64 c65 c66 c67 : Nat} (h64 : c64 < 16) (h65 : c65 < 16)
    (h66 : c66 < 16) (h67 : c67 < 16) :
    synSum (d + 2 ^ 256 * (c64 + 16 * c65 + 256 * c66 + 4096 * c67)) [64, 65, 66, 67]
      = ⟨c64 ^^^ (c65 ^^^ (c66 ^^^ c67)), c65 ^^^ c67, c66 ^^^ c67, c65 ^^^ gfMul (c66 ^^^ c67) 8⟩ := by
  obtain ⟨b64, b65, b66, b67⟩ := bitsAt_four_symbols h64 h65 h66 h67
  obtain ⟨k64, k65, k66, k67⟩ := check_columns
  have hsym {i c : Nat} (hi : 64 ≤ i) (h : bitsAt (c64 + 16 * c65 + 256 * c66 + 4096 * c67) (4 * (i - 64)) 4 = c) :
      bitsAt (d + 2 ^ 256 * (c64 + 16 * c65 + 256 * c66 + 4096 * c67)) (4 * i) 4 = c := by
    rw [bitsAt_word hd, if_neg (not_lt.mpr hi), h]
  rw [gfMul_xor_left h66 h67]
  simp only [synSum, hsym (i := 64) (by decide) b64, hsym (i := 65) (by decide) b65, hsym (i := 66) (by decide) b66,
    hsym (i := 67) (by decide) b67]
  simp [k64, k65, k66, k67, synScale, synAdd]

theorem synSum_check {d : Nat} (hd : d < 2 ^ 256) {t : Syn} (ht : Symbols t) :
    synSum (d + 2 ^ 256 * checkOf t) [64, 65, 66, 67] = t := by
  obtain ⟨ht0, ht1, ht2, ht3⟩ := ht
  have h65 := xor_lt_sixteen ht3 (gfMul_lt (a := 8) (by decide) t.s2)
  have h67 := xor_lt_sixteen ht1 h65
  rw [checkOf, synSum_check_symbols hd (xor_lt_sixteen (xor_lt_sixteen ht0 h65) ht2) h65 (xor_lt_sixteen ht2 h67) h67]
  have cancel (x y : Nat) : y ^^^ (x ^^^ y) = x := by rw [Nat.xor_comm x, xor_cancel_left]
  simp [Nat.xor_assoc, cancel, gfMul_comm ht2 (show 8 < 16 by decide)]

theorem datum_lt (x : Datum) : (if x.poison then 0 else x.bits.toNat) < 2 ^ 256 := by
  split
  · decide
  · exact x.bits.isLt

theorem warpEncode_mod (x : Datum) (a : Nat) : warpEncode x a % 2 ^ 256 = if x.poison then 0 else x.bits.toNat := by
  rw [warpEncode, Nat.add_mul_mod_self_left, Nat.mod_eq_of_lt (datum_lt x)]

/-- The word written has the sum (0, σ(A)), with P where it is the poison mark (R300). -/
theorem synSum_warpEncode (x : Datum) (a : Nat) :
    synSum (warpEncode x a) (List.range 68) = synAdd (sigmaSyn a) (markSyn x.poison) := by
  have hd := datum_lt x
  rw [warpEncode_eq, show List.range 68 = List.range 64 ++ [64, 65, 66, 67] by decide, synSum_append, synSum_check hd]
  · rw [synSum_congr fun i hi => (bitsAt_word hd _ i).trans (if_pos (List.mem_range.mp hi)), synAdd_assoc,
      synAdd_cancel_left]
  · exact symbols_synAdd (symbols_synAdd (symbols_synSum _ _) (symbols_sigmaSyn a)) (symbols_markSyn _)

/-! ### The address signature -/

/-- Column `k` of the signature's map (R299). -/
def sigmaCol (k : Nat) : Nat := 0x800 ||| ((0x3A7 * k + 0x115) &&& 0x7FF)

theorem sigmaBits_xor (a b : Nat) (ks : List Nat) : sigmaBits (a ^^^ b) ks = sigmaBits a ks ^^^ sigmaBits b ks := by
  induction ks with
  | nil => simp [sigmaBits]
  | cons k ks ih =>
    simp only [sigmaBits, bitAt_xor, ih]
    cases bitAt a k <;> cases bitAt b k <;> simp [Nat.xor_assoc, Nat.xor_left_comm]

theorem sigmaBits_eq_foldr (a : Nat) (ks : List Nat) :
    sigmaBits a ks = ((ks.filter (bitAt a)).map sigmaCol).foldr (· ^^^ ·) 0 := by
  induction ks with
  | nil => rfl
  | cons k ks ih => cases h : bitAt a k <;> simp [sigmaBits, h, ih, sigmaCol]

theorem sigmaBits_lt (a : Nat) (ks : List Nat) : sigmaBits a ks < 4096 := by
  have hcol (k : Nat) : sigmaCol k < 2 ^ 12 :=
    Nat.or_lt_two_pow (by decide) (Nat.and_lt_two_pow _ (by decide))
  induction ks with
  | nil => exact Nat.zero_lt_succ _
  | cons k ks ih =>
    refine Nat.xor_lt_two_pow (n := 12) ?_ ih
    split
    · exact hcol k
    · decide

theorem testBit_sigmaCol (k : Nat) : (sigmaCol k).testBit 11 = true := by
  simp [sigmaCol, Nat.testBit_or, show Nat.testBit 2048 11 = true by decide]

theorem one_lt_of_testBit {n : Nat} (h : n.testBit 11 = true) : 1 < n :=
  lt_of_lt_of_le (by decide) (Nat.ge_two_pow_of_testBit h)

/-- No two columns are equal or differ only in bit 0 (R299). -/
theorem one_lt_sigmaCol_xor : ∀ j < 32, ∀ i < j, 1 < sigmaCol i ^^^ sigmaCol j := by decide

theorem one_lt_sigmaCols {ks : List Nat} (hs : ks.Pairwise (· < ·)) (hb : ∀ k ∈ ks, k < 32) (h0 : ks ≠ []) (h3 : ks.length ≤ 3) :
    1 < (ks.map sigmaCol).foldr (· ^^^ ·) 0 := by
  match ks with
  | [i] => exact one_lt_of_testBit (by simp [testBit_sigmaCol])
  | [i, j] =>
    have hij : i < j := by simpa using hs
    simpa using one_lt_sigmaCol_xor j (hb j (by simp)) i hij
  | [i, j, k] => exact one_lt_of_testBit (by simp [testBit_sigmaCol])
  | _ :: _ :: _ :: _ :: ks => simp only [List.length_cons] at h3; omega

/-- Addresses that differ in one to three bits: their signatures differ by neither zero nor 1 (R299). -/
theorem one_lt_sigma {c : Nat} (h0 : ∃ k < 32, bitAt c k = true) (h3 : (List.range 32).countP (bitAt c) ≤ 3) : 1 < sigma c := by
  obtain ⟨k, hk, hc⟩ := h0
  rw [sigma, sigmaBits_eq_foldr]
  refine one_lt_sigmaCols (List.pairwise_lt_range.filter _) (fun i hi => List.mem_range.mp (List.mem_of_mem_filter hi))
    (List.ne_nil_of_mem (List.mem_filter.mpr ⟨List.mem_range.mpr hk, hc⟩)) ?_
  rwa [← List.countP_eq_length_filter]

theorem exists_bitAt_xor {a b : Nat} (ha : a < 2 ^ 32) (hb : b < 2 ^ 32) (h : a ≠ b) : ∃ k < 32, bitAt (a ^^^ b) k = true := by
  obtain ⟨k, hk⟩ := Nat.exists_testBit_of_ne_zero (mt Nat.xor_eq_zero_iff.mp h)
  refine ⟨k, ?_, hk⟩
  exact (Nat.pow_lt_pow_iff_right (by decide)).mp ((Nat.ge_two_pow_of_testBit hk).trans_lt (Nat.xor_lt_two_pow ha hb))

theorem sigmaSyn_xor (a b : Nat) : sigmaSyn (a ^^^ b) = synAdd (sigmaSyn a) (sigmaSyn b) := by
  simp [sigmaSyn, synAdd, sigma, sigmaBits_xor, bitsAt_xor]

theorem sigmaSyn_ne {c r : Nat} (hc : 1 < sigma c) (hr : r ≤ 1) : sigmaSyn c ≠ ⟨0, 0, 0, r⟩ := by
  have hlt : sigma c < 4096 := sigmaBits_lt _ _
  simp only [sigmaSyn, bitsAt, Nat.shiftRight_eq_div_pow, ne_eq, Syn.mk.injEq, true_and]
  omega

/-! ### Decoding -/

theorem syndrome_warpEncode (x : Datum) (a b v : Nat) :
    syndrome (warpEncode x a ^^^ v) b
      = synAdd (markSyn x.poison) (synAdd (synSum v (List.range 68)) (sigmaSyn (a ^^^ b))) := by
  rw [syndrome, synSum_xor, synSum_warpEncode, sigmaSyn_xor]
  simp only [synAdd_assoc, synAdd_left_comm (sigmaSyn a)]

section
variable {w a e i : Nat}

theorem warpDecode_of_clean (h : syndrome w a = ⟨0, 0, 0, 0⟩) :
    warpDecode w a = (.clean, ⟨BitVec.ofNat 256 (w % 2 ^ 256), false⟩) := by
  rw [syndrome] at h
  simp only [warpDecode, h, if_true]

theorem warpDecode_of_mark (h : syndrome w a = ⟨0, 0, 0, 1⟩) : warpDecode w a = (.poison, ⟨0, true⟩) := by
  rw [syndrome] at h
  simp [warpDecode, h]

theorem warpDecode_of_first_zero (h : (syndrome w a).s0 = 0) (hc : syndrome w a ≠ ⟨0, 0, 0, 0⟩)
    (hm : syndrome w a ≠ ⟨0, 0, 0, 1⟩) : warpDecode w a = (.uncorrectable, ⟨0, true⟩) := by
  rw [syndrome] at h hc hm
  simp [warpDecode, h, hc, hm]

theorem warpDecode_of_off_quadric (h : (syndrome w a).s0 ≠ 0)
    (hq : let u := synScale (gfInv (syndrome w a).s0) (syndrome w a); u.s3 ≠ warpQ u.s1 u.s2) :
    warpDecode w a = (.uncorrectable, ⟨0, true⟩) := by
  have hc : syndrome w a ≠ ⟨0, 0, 0, 0⟩ := fun hz => h (by rw [hz])
  have hm : syndrome w a ≠ ⟨0, 0, 0, 1⟩ := fun hz => h (by rw [hz])
  rw [syndrome] at h hc hm
  simp only [syndrome] at hq
  simp [warpDecode, h, hc, hm, hq]

/-- A syndrome is e times a column: that symbol is corrected by e. -/
theorem warpDecode_of_column (he : e < 16) (h0 : e ≠ 0) (hi : i < 68) (h : syndrome w a = synScale e (warpCol i)) :
    warpDecode w a = (.correctable, ⟨BitVec.ofNat 256 ((w ^^^ (e <<< (4 * i))) % 2 ^ 256), false⟩) := by
  have hs0 : (synScale e (warpCol i)).s0 = e := gfMul_one e
  have hx : gfMul (gfInv e) (gfMul e (warpX i)) = warpX i := gfMul_gfInv_gfMul he h0 (warpX_lt i hi)
  have hy : gfMul (gfInv e) (gfMul e (warpY i)) = warpY i := gfMul_gfInv_gfMul he h0 (warpY_lt i hi)
  have hq : gfMul (gfInv e) (gfMul e (warpQ (warpX i) (warpY i))) = warpQ (warpX i) (warpY i) :=
    gfMul_gfInv_gfMul he h0 (warpQ_lt (warpX_lt i hi))
  have hu : synScale (gfInv e) (synScale e (warpCol i)) = ⟨1, warpX i, warpY i, warpQ (warpX i) (warpY i)⟩ := by
    simp only [synScale, warpCol, gfMul_one, gfMul_gfInv_self e he h0, hx, hy, hq]
  have hne {r : Nat} : synScale e (warpCol i) ≠ ⟨0, 0, 0, r⟩ := fun hz => h0 (by rw [← hs0, hz])
  have hat := symbolAt_col i hi
  rw [symbolAt] at hat
  rw [syndrome] at h
  simp only [warpDecode, h, hne, if_false, hs0, h0, ne_eq, not_false_iff, if_true, hu, true_and, col_position i hi, hat]

end

/-- What is not corrected is delivered as zero bits with the poison indication (R302). -/
theorem warpDecode_delivers (w a : Nat) : (warpDecode w a).1 = .clean ∨ (warpDecode w a).1 = .correctable
    ∨ ((warpDecode w a).1 = .uncorrectable ∧ (warpDecode w a).2 = ⟨0, true⟩)
    ∨ ((warpDecode w a).1 = .poison ∧ (warpDecode w a).2 = ⟨0, true⟩) := by
  unfold warpDecode
  dsimp only
  split_ifs <;> simp

/-! ### The guarantees of R303 -/

@[simp] theorem markSyn_false : markSyn false = ⟨0, 0, 0, 0⟩ := rfl

@[simp] theorem markSyn_true : markSyn true = ⟨0, 0, 0, 1⟩ := rfl

@[simp] theorem sigmaSyn_zero : sigmaSyn 0 = ⟨0, 0, 0, 0⟩ := by decide

section
variable {x : Datum} {a i j e f : Nat}

theorem datum_of_not_poison (h : x.poison = false) : (⟨BitVec.ofNat 256 x.bits.toNat, false⟩ : Datum) = x := by
  obtain ⟨bits, p⟩ := x
  subst h
  simp

/-- At the address written, the syndrome is that of the error, with P where the word is the poison mark. -/
theorem syndrome_error (x : Datum) (a v : Nat) :
    syndrome (warpEncode x a ^^^ v) a = synAdd (markSyn x.poison) (synSum v (List.range 68)) := by
  simp [syndrome_warpEncode]

theorem synSum_zero : synSum 0 (List.range 68) = ⟨0, 0, 0, 0⟩ := by decide

theorem syndrome_as_written (x : Datum) (a : Nat) : syndrome (warpEncode x a) a = markSyn x.poison := by
  simpa [synSum_zero] using syndrome_error x a 0

theorem warpDecode_as_written (h : x.poison = false) : warpDecode (warpEncode x a) a = (.clean, x) := by
  have hs : syndrome (warpEncode x a) a = ⟨0, 0, 0, 0⟩ := by rw [syndrome_as_written, h, markSyn_false]
  rw [warpDecode_of_clean hs, warpEncode_mod, h, if_neg (by decide), datum_of_not_poison h]

theorem warpDecode_mark_as_written (h : x.poison = true) : warpDecode (warpEncode x a) a = (.poison, ⟨0, true⟩) :=
  warpDecode_of_mark (by rw [syndrome_as_written, h, markSyn_true])

theorem warpDecode_one_symbol (h : x.poison = false) (hi : i < 68) (he : e < 16) (h0 : e ≠ 0) :
    warpDecode (warpEncode x a ^^^ (e <<< (4 * i))) a = (.correctable, x) := by
  have hs : syndrome (warpEncode x a ^^^ (e <<< (4 * i))) a = synScale e (warpCol i) := by
    rw [syndrome_error, h, markSyn_false, zero_synAdd, synSum_error he hi]
  rw [warpDecode_of_column he h0 hi hs, Nat.xor_assoc, Nat.xor_self, Nat.xor_zero, warpEncode_mod, h, if_neg (by decide),
    datum_of_not_poison h]

/-- The syndrome lies on the line of the column and P, which meets the quadric in the column alone. -/
theorem warpDecode_mark_one_symbol (h : x.poison = true) (hi : i < 68) (he : e < 16) (h0 : e ≠ 0) :
    warpDecode (warpEncode x a ^^^ (e <<< (4 * i))) a = (.uncorrectable, ⟨0, true⟩) := by
  have hs : syndrome (warpEncode x a ^^^ (e <<< (4 * i))) a
      = ⟨e, gfMul e (warpX i), gfMul e (warpY i), 1 ^^^ gfMul e (warpQ (warpX i) (warpY i))⟩ := by
    rw [syndrome_error, h, markSyn_true, synSum_error he hi]
    simp [synAdd, synScale, warpCol]
  refine warpDecode_of_off_quadric (by rwa [hs]) ?_
  have hx := warpX_lt i hi
  simp only [hs, synScale, gfMul_xor_right (gfInv_lt e he), gfMul_one, gfMul_gfInv_gfMul he h0 hx,
    gfMul_gfInv_gfMul he h0 (warpY_lt i hi), gfMul_gfInv_gfMul he h0 (warpQ_lt hx)]
  intro hq
  exact gfInv_ne_zero he h0 (by simpa using hq)

theorem syndrome_two_symbols (h : x.poison = false) (hi : i < 68) (hj : j < 68) (he : e < 16) (hf : f < 16) :
    syndrome (warpEncode x a ^^^ (e <<< (4 * i)) ^^^ (f <<< (4 * j))) a
      = ⟨e ^^^ f, gfMul e (warpX i) ^^^ gfMul f (warpX j), gfMul e (warpY i) ^^^ gfMul f (warpY j),
        gfMul e (warpQ (warpX i) (warpY i)) ^^^ gfMul f (warpQ (warpX j) (warpY j))⟩ := by
  rw [Nat.xor_assoc, syndrome_error, h, markSyn_false, zero_synAdd, synSum_xor, synSum_error he hi, synSum_error hf hj]
  simp [synAdd, synScale, warpCol]

/-- Two equal errors leave the first component zero and another not; two others leave a point of the chord of two columns. -/
theorem warpDecode_two_symbols (h : x.poison = false) (hi : i < 68) (hj : j < 68) (hij : i ≠ j) (he : e < 16) (he0 : e ≠ 0)
    (hf : f < 16) (hf0 : f ≠ 0) :
    warpDecode (warpEncode x a ^^^ (e <<< (4 * i)) ^^^ (f <<< (4 * j))) a = (.uncorrectable, ⟨0, true⟩) := by
  have hs := syndrome_two_symbols (a := a) h hi hj he hf
  have hxi := warpX_lt i hi
  have hxj := warpX_lt j hj
  have hyi := warpY_lt i hi
  have hyj := warpY_lt j hj
  have hne : ¬ (warpX i = warpX j ∧ warpY i = warpY j) := fun ⟨hx, hy⟩ => hij (warpCol_inj hi hj hx hy)
  by_cases hef : e = f
  · subst hef
    have hnz {r : Nat} : syndrome (warpEncode x a ^^^ (e <<< (4 * i)) ^^^ (e <<< (4 * j))) a ≠ ⟨0, 0, 0, r⟩ := by
      simp only [hs, ne_eq, Syn.mk.injEq, Nat.xor_eq_zero_iff]
      rintro ⟨-, hx, hy, -⟩
      exact hne ⟨gfMul_left_cancel he he0 hxi hxj hx, gfMul_left_cancel he he0 hyi hyj hy⟩
    exact warpDecode_of_first_zero (by rw [hs]; exact Nat.xor_self e) hnz hnz
  · have hlt := xor_lt_sixteen he hf
    have h0 : e ^^^ f ≠ 0 := mt Nat.xor_eq_zero_iff.mp hef
    refine warpDecode_of_off_quadric (by rwa [hs]) ?_
    rw [hs]
    exact chord_off_quadric (gfInv_lt _ hlt) he hf he0 hf0 hxi hyi hxj hyj (gfMul_gfInv_self _ hlt h0) hne

theorem warpDecode_other_address {b : Nat} (ha : a < 2 ^ 32) (hb : b < 2 ^ 32) (hab : a ≠ b)
    (h3 : (List.range 32).countP (fun k => bitAt a k != bitAt b k) ≤ 3) :
    warpDecode (warpEncode x a) b = (.uncorrectable, ⟨0, true⟩) := by
  have hs : syndrome (warpEncode x a) b = synAdd (markSyn x.poison) (sigmaSyn (a ^^^ b)) := by
    simpa [synSum_zero] using syndrome_warpEncode x a b 0
  have hcount : (List.range 32).countP (bitAt (a ^^^ b)) ≤ 3 := by
    rw [show bitAt (a ^^^ b) = _ from funext (bitAt_xor a b)]; exact h3
  have hsig := one_lt_sigma (exists_bitAt_xor ha hb hab) hcount
  have hne {r : Nat} (hr : r ≤ 1) : syndrome (warpEncode x a) b ≠ ⟨0, 0, 0, r⟩ := by
    rw [hs]
    cases x.poison
    · simpa using sigmaSyn_ne hsig hr
    · intro h
      refine sigmaSyn_ne hsig (r := 1 ^^^ r) (by interval_cases r <;> decide) ?_
      rw [← synAdd_cancel_left (markSyn true) (sigmaSyn _), h]
      simp [synAdd]
  exact warpDecode_of_first_zero (by simp [hs, synAdd, markSyn, sigmaSyn]) (hne (by decide)) (hne le_rfl)

end

/-- Settles O30: each row of R303 is a syndrome, and the quadric says what the decode of that syndrome is. -/
theorem warpGuarantees : Obligations.WarpGuarantees := by
  unfold Obligations.WarpGuarantees
  refine ⟨fun x a ha => ⟨warpDecode_as_written, warpDecode_mark_as_written, fun i e hi h0 he => ?_,
    fun i j e f hp hij hj he0 he hf0 hf => ?_, fun b hb hab => warpDecode_other_address ha hb hab⟩, warpDecode_delivers⟩
  · cases hp : x.poison
    · exact warpDecode_one_symbol hp hi he h0.ne'
    · exact warpDecode_mark_one_symbol hp hi he h0.ne'
  · exact warpDecode_two_symbols hp (hij.trans hj) hj hij.ne he he0.ne' hf hf0.ne'

end Sys2Proof.Proofs
end

section
/-! Accesses to the pages of other partitions (R448). An accepted access is charged, a write to the configuration fields is
reported as an attempt (R11), and the register window counts what a requester may not reach: of all that R448 keeps, the count of
stray page accesses alone changes. -/

namespace Sys2Proof.Proofs
open Sys2Proof.Machine Sys2Proof.Safety Sys2Proof.Laws

/-! ### Partition records -/

@[simp] theorem part_modPart_same (s : State) (q : Nat) (f : Part → Part) : part (modPart s q f) q = f (part s q) :=
  smGet_smSet_same _ _ _ _

theorem part_modPart_other (s : State) {q r : Nat} (f : Part → Part) (h : r ≠ q) : part (modPart s q f) r = part s r :=
  smGet_smSet_other _ _ _ h

/-- From `s` to `t`, `n` stray page accesses have been counted in partition `q`; the records of the others and all that a
register write reaches beside the page stand as before (R448). -/
structure StrayCounted (s t : State) (q n : Nat) : Prop where
  count : (part t q).strayPage = (part s q).strayPage + n
  others : ∀ r, r ≠ q → part t r = part s r
  regs : t.regs = s.regs
  sel : t.sel = s.sel
  mem : t.mem = s.mem
  staging : t.staging = s.staging

theorem StrayCounted.trans {s t u : State} {q m n : Nat} (h : StrayCounted s t q m) (h' : StrayCounted t u q n) :
    StrayCounted s u q (m + n) where
  count := by rw [h'.count, h.count, Nat.add_assoc]
  others r hr := (h'.others r hr).trans (h.others r hr)
  regs := h'.regs.trans h.regs
  sel := h'.sel.trans h.sel
  mem := h'.mem.trans h.mem
  staging := h'.staging.trans h.staging

theorem strayCounted_zero {s t : State} {q : Nat} (hparts : t.parts = s.parts) (hregs : t.regs = s.regs)
    (hsel : t.sel = s.sel) (hmem : t.mem = s.mem) (hstaging : t.staging = s.staging) : StrayCounted s t q 0 where
  count := by rw [part, hparts, part, Nat.add_zero]
  others _ _ := by rw [part, hparts, part]
  regs := hregs
  sel := hsel
  mem := hmem
  staging := hstaging

theorem strayCounted_modPart (s : State) {q n : Nat} {f : Part → Part}
    (hf : (f (part s q)).strayPage = (part s q).strayPage + n) : StrayCounted s (modPart s q f) q n where
  count := by rw [part_modPart_same, hf]
  others _ hr := part_modPart_other s f hr
  regs := rfl
  sel := rfl
  mem := rfl
  staging := rfl

/-! ### What an access does on its way -/

section
variable {s u : State} {rq : Requester} {p q off len : Nat}

theorem strayCounted_strayPage (hq : rqPart rq = some q) : StrayCounted s (strayPage s rq) q 1 := by
  rw [strayPage, hq]
  exact strayCounted_modPart s rfl

theorem strayCounted_retainExit : StrayCounted s (retainExit s) q 0 := by
  unfold retainExit
  split <;> exact strayCounted_zero rfl rfl rfl rfl rfl

@[simp] theorem setLevel_strayPage (x : Part) (r : Res) (v : Int) : (setLevel x r v).strayPage = x.strayPage := by
  cases r <;> rfl

@[simp] theorem setLevel_st (x : Part) (r : Res) (v : Int) : (setLevel x r v).st = x.st := by cases r <;> rfl

theorem strayCounted_noteCharge (r : Res) (n : Nat) : StrayCounted s (noteCharge s q r n) q 0 :=
  strayCounted_modPart s (by cases r <;> rfl)

theorem strayCounted_charge (r : Res) (n : Nat) : StrayCounted s (charge s q r n) q 0 :=
  (strayCounted_modPart s (n := 0) (setLevel_strayPage _ _ _)).trans (strayCounted_noteCharge r n)

theorem strayCounted_accessCharge (hq : rqPart rq = some q) : StrayCounted s (accessCharge s rq) q 0 := by
  rw [accessCharge, hq]
  exact strayCounted_retainExit.trans (strayCounted_charge .hearth 32)

/-- A report changes nothing but the fault block. -/
theorem report_eq_modFlt (c : Nat) (e : FEvent) : report s c e = modFlt s fun _ => (report s c e).flt := by
  by_cases h : (smGet [] s.flt.chans c).length < 64 <;> simp [report, h, modFlt]

theorem strayCounted_rwfAttempt (mask : W64) : StrayCounted s (rwfAttempt s rq off mask) q 0 := by
  unfold rwfAttempt
  split
  · unfold reportRwf
    rw [report_eq_modFlt]
    exact strayCounted_zero rfl rfl rfl rfl rfl
  · exact strayCounted_zero rfl rfl rfl rfl rfl

/-! ### Who may present a partition -/

theorem part_retainExit : part (retainExit s) p = part s p := by
  unfold retainExit
  split <;> rfl

theorem part_st_charge (r : Res) (n : Nat) : (part (charge s q r n) p).st = (part s p).st := by
  by_cases h : p = q
  · subst h
    cases r <;> simp [charge, noteCharge]
  · rw [(strayCounted_charge r n).others p h]

theorem part_st_accessCharge : (part (accessCharge s rq) p).st = (part s p).st := by
  unfold accessCharge
  split
  · rw [part_st_charge, part_retainExit]
  · rfl

theorem peers_accessCharge : (accessCharge s rq).ports.peers = s.ports.peers := by
  unfold accessCharge retainExit
  split
  · split <;> rfl
  · rfl

/-- The charge for an access changes nothing that decides which pages its requester reaches. -/
theorem mayPresent_accessCharge (hq : rqPart rq = some q) : mayPresent (accessCharge s rq) rq p = mayPresent s rq p := by
  have hregs := (strayCounted_accessCharge (s := s) hq).regs
  cases rq with
  | mgmt => rfl
  | hearth m src _ => simp only [mayPresent, part_st_accessCharge, srcAllowed, pageF, regF, regRd, hregs]
  | flue peer _ => simp only [mayPresent, part_st_accessCharge, peers_accessCharge]

/-! ### Offsets within a page -/

theorem offset_within_page (hpage : off / 4096 * 4096 = pageBase p) (hp : p < 1024) :
    0x200000 ≤ off ∧ off < 0x600000 ∧ (off - 0x200000) / 4096 = p := by
  unfold pageBase at hpage
  omega

theorem regGrp_page (hpage : off / 4096 * 4096 = pageBase p) (hp : p < 1024) : regGrp s rq off = .page p := by
  obtain ⟨hlo, hhi, hno⟩ := offset_within_page hpage hp
  simp [regGrp, inPages, hlo, hhi, hno]

theorem onWeft_page (hpage : off / 4096 * 4096 = pageBase p) (hp : p < 1024) : onWeft off = false := by
  obtain ⟨hlo, -, -⟩ := offset_within_page hpage hp
  simp [onWeft, show ¬ off < 0x118000 by omega]

theorem flueDenied_page (hpage : off / 4096 * 4096 = pageBase p) (hp : p < 1024) : flueDenied rq off = false := by
  obtain ⟨-, hhi, -⟩ := offset_within_page hpage hp
  cases rq <;> simp [flueDenied, show ¬ 0xE00000 ≤ off by omega]

theorem shaped_iff : Shaped off len ↔ (len = 4 ∨ len = 8) ∧ off % len = 0 ∧ off < 0x2000000 := by
  simp [Shaped, regShape, and_assoc]

theorem word_of_shaped (h : Shaped off 8) : off / 8 * 8 = off := by
  obtain ⟨-, h8, -⟩ := shaped_iff.mp h
  omega

theorem shaped_four_of_shaped (h : Shaped off 8) : Shaped off 4 := by
  obtain ⟨-, h8, hwin⟩ := shaped_iff.mp h
  exact shaped_iff.mpr ⟨.inl rfl, by omega, hwin⟩

/-! ### Accesses that the tables do not allow -/

/-- An access that the ports and the register window take is charged and performed. -/
theorem regAccess_accepted (hq : rqPart rq = some q) (ha : Accepted s rq) (hs : Shaped off len)
    (hd : flueDenied rq off = false) (f : State → State) : regAccess s rq off len f = f (accessCharge s rq) := by
  simp [regAccess, portAccess, hq, show rqStatus s rq = 0 from ha, show regShape off len = true from hs, hd]

/-- A write that is accepted is charged and performed. -/
theorem exec_registerWrite_accepted (hq : rqPart rq = some q) (ha : Accepted s rq) (hs : Shaped off len)
    (hd : flueDenied rq off = false) (v : W64) :
    exec (.registerWrite rq off len v) s = act s fun s => regWrite (accessCharge s rq) rq off len v := by
  change execRegisterWrite rq off len v s = _
  simp only [execRegisterWrite, act, noteDenied, hd, Bool.false_eq_true, false_and, if_false, ite_self,
    regAccess_accepted hq ha hs hd]

/-- A low half off the weft bus, once accepted, is charged and read, and what is read is kept for its requester. -/
theorem exec_lowHalfRead_accepted (hq : rqPart rq = some q) (ha : Accepted s rq) (hs : Shaped off 8)
    (hd : flueDenied rq off = false) (hweft : onWeft off = false) :
    exec (.lowHalfRead rq off) s = act s fun s =>
      let r := regRead (accessCharge s rq) rq off 4
      { r.2 with rdata := smSet r.2.rdata (rqKey rq) r.1 } := by
  change execLowHalfRead rq off s = _
  simp only [execLowHalfRead, act, word_of_shaped hs, readCmd, weftFailed, hweft, Bool.false_and, Bool.false_eq_true, if_false,
    regAccess_accepted hq ha (shaped_four_of_shaped hs) hd]

theorem readMask_page (hg : regGrp u rq off = .page p) (hm : mayPresent u rq p = false) : readMask u rq off = 0 := by
  simp [readMask, hg, hm]

theorem strayRead_page (hg : regGrp u rq off = .page p) (hm : mayPresent u rq p = false) : strayRead u rq off = true := by
  simp [strayRead, readMask_page hg hm, hg]

theorem writeAllowed_page (hg : regGrp u rq off = .page p) (hm : mayPresent u rq p = false) : writeAllowed u rq off = false := by
  simp [writeAllowed, hg, hm]

theorem regRead_stray (hs : Shaped off 8) (hw : (wordNow u rq off).isSome = true) (hstray : strayRead u rq off = true) :
    regRead u rq off len = (0, { strayPage u rq with shadow := smDel (strayPage u rq).shadow (rqKey rq) }) := by
  simp [regRead, word_of_shaped hs, Option.isNone_eq_false_iff.mpr hw, hstray]

theorem regWrite_disallowed (hs : Shaped off 8) (hw : (wordNow u rq off).isSome = true) (ha : writeAllowed u rq off = false)
    (v : W64) : regWrite u rq off 8 v = strayPage (rwfAttempt u rq off (wMask 8 (off % 8 == 4))) rq := by
  simp [regWrite, word_of_shaped hs, Option.isNone_eq_false_iff.mpr hw, ha]

end

/-- Settles O21: the charge comes first and changes nothing that R448 keeps, and the page, which stays out of reach, counts the
access. -/
theorem foreignPageAccess : Obligations.ForeignPageAccess := by
  unfold Obligations.ForeignPageAccess
  intro s rq q p off hq ha hp hm hpage hs hw
  have hd := flueDenied_page (rq := rq) hpage hp
  have hg := regGrp_page (s := accessCharge s rq) (rq := rq) hpage hp
  have hmu := (mayPresent_accessCharge (s := s) hq).trans hm
  have hcharge := strayCounted_accessCharge (s := s) hq
  constructor
  · intro v
    rw [exec_registerWrite_accepted hq ha hs hd, act, regWrite_disallowed hs hw (writeAllowed_page hg hmu)]
    obtain ⟨hcount, hothers, hregs, hsel, hmem, hstaging⟩ :=
      (hcharge.trans (strayCounted_rwfAttempt _)).trans (strayCounted_strayPage hq)
    exact ⟨_, rfl, hcount, hothers, hregs, hsel, hmem, hstaging⟩
  · rw [exec_lowHalfRead_accepted hq ha hs hd (onWeft_page hpage hp), act, regRead_stray hs hw (strayRead_page hg hmu)]
    obtain ⟨hcount, hothers, hregs, hsel, hmem, hstaging⟩ := hcharge.trans (strayCounted_strayPage hq)
    exact ⟨_, rfl, smGet_smSet_same _ _ _ _, hcount, hothers, hregs, hsel, hmem, hstaging⟩

end Sys2Proof.Proofs
end
